-- ==== Sys2Proof/Word.lean ====
section
/-! DEFINITION.  The word types of the machine. -/

namespace Sys2Proof

/-- A register, an address or a granule of device memory. -/
abbrev Word := BitVec 64

/-- An instruction word (R12). -/
abbrev IWord := BitVec 32

/-- A byte of memory. -/
abbrev Byte := BitVec 8

end Sys2Proof
end

