-- ==== Sys2Proof/Config.lean ====
section
/-! DEFINITION.  What the manual leaves open: values without a definition in Lean, so that nothing can be
proved about them, and the sizes of the package (R1). -/

namespace Sys2Proof.Config

/-- The n-th free value of the machine (log 4).  Nothing constrains it. -/
opaque freeValue : Nat → BitVec 64

/-- The partition that slice_ctl names for the context of a core that belongs to none (R358), and the number of a hub core
(R24); neither is given (log 4). -/
opaque contextPartition : Nat → BitVec 8
opaque hubCoreNumber : Nat → BitVec 64

/-- The root key of a package, in fuses (R308; log 16). -/
opaque rootKey : Nat → List (BitVec 8)

/-- The identity of a package: its public-key hash (R324; log 16). -/
opaque packageIdentity : Nat → List (BitVec 8)

/-- An ML-DSA-87 signature by a package's device key over a message (R324, R326; log 16). -/
opaque mldsaSign : Nat → List (BitVec 8) → List (BitVec 8)

/-- Verification of an ML-DSA-87 signature by the firmware key (R406; log 16). -/
opaque firmwareSigOk : List (BitVec 8) → List (BitVec 8) → Bool

/-- The certificate chain of a slot (R326; log 16). -/
opaque certChain : Nat → Nat → List (BitVec 8)

/-- The responder's exchange data and the shared secret of a key exchange, from the requester's exchange data and
a free value (R326; log 16). -/
opaque kexResponse : List (BitVec 8) → BitVec 64 → List (BitVec 8)
opaque kexSecret : List (BitVec 8) → BitVec 64 → List (BitVec 8)

/-- Measurement block `n` of a package that runs a firmware image (R324, R326, R406; log 16). -/
opaque firmwareMeasure : Nat → List (BitVec 8) → List (BitVec 8)

/-- The message authentication code of an SPDM session, by its key and transcript, the keys that follow a secret, and
their update (R326; log 16). -/
opaque spdmMac : List (BitVec 8) → List (BitVec 8) → List (BitVec 8)
opaque spdmKey : List (BitVec 8) → Nat → List (BitVec 8)

/-- The number by which ML-DSA-87 is named as an extended asymmetric algorithm (R326; log 16). -/
opaque mldsaAlgId : BitVec 32

/-- Bytes per period of 20 µs of each kind of resource of R401, and the lanes of a UCIe link (R400, R403; log 37). -/
opaque capacity : Nat → Nat
opaque ucieLanes : Nat

/-- What a margin test takes from the budget of the ageing tests, as bytes of its core (R401, R405; log 83). -/
opaque marginBytes : Nat

/-- The partition to which a virtual function of a package is bound, by the number of its link × 64 and its own (R398; log 37). -/
opaque vfPartition : Nat → Nat → Fin 6

/-- The link-layer field of a UCIe flit: from its sequence number, the last one accepted of the other direction and whether the
next one of it failed, with the credits (R378; log 16). -/
opaque linkField : Nat → Nat → Bool → List (BitVec 8)

/-- The CRC and forward-error-correction bytes that close a flit (R378, R381; log 16). -/
opaque flitCheck : List (BitVec 8) → List (BitVec 8)

/-- The port of this machine, as its package and number, that an endpoint address reaches, where it reaches one, and the bytes of
a packet beside its payload (R386, R387; log 38). -/
opaque endpoint : Nat → Option (Nat × Nat)
opaque packetHead : Nat

/-- Bytes of a logical block of a namespace behind an interface (R279; log 26). -/
opaque blockBytes : Nat → Nat → Nat

/-- Virtual address and log2 of the entries of a hub copy queue of an enclave (R278; log 27). -/
opaque hubRingVa : Nat → Nat → Nat
opaque hubRingLog : Nat → Nat → Nat

/-- The virtual page on which the monitor maps the doorbells of an enclave's hub copy queues (R278; log 27). -/
opaque hubDoorbellPage : Nat → Nat

/-- Where the root table of an ASID stands on a die until one is placed (R287; log 9): a 4 KiB table. -/
opaque treeRoot : Nat → Nat → Nat

/-- Virtual address, under ASID 0, of the promotion control block of a die (R301, R400; log 29). -/
opaque promotionBlock : Nat → Nat

/-- Compute cores of a package and of a die (R1). -/
def coresPerPackage : Nat := 864
def coresPerDie : Nat := 144
def hubCores : Nat := 48

end Sys2Proof.Config
end

