-- ==== Sys2Proof/Syntax.lean ====
section
/-! DEFINITION.  The instructions and events of the machine, as syntax.  Register numbers, formats and
modifiers are decoded here into names; encodings stand in Decode.lean. -/

namespace Sys2Proof

/-- The sixteen values of a format tag (R106).  A format code is a tag other than `poison` (R131). -/
inductive Fmt where
  | raw | i64 | i32 | i16 | i8 | i4 | f64 | f32 | f16 | bf16 | cf32 | q64 | q32 | gq8 | gq4 | poison
  deriving DecidableEq, Repr

/-- A rounding field (R25, R146): the instruction's own modifier, or none. -/
inductive Rnd where
  | inherit | rne | rz | ru | rd | rna
  deriving DecidableEq, Repr

/-- A source operand (R17, R22). -/
inductive Src where
  | v (n : BitVec 8)        -- vector register
  | s (n : BitVec 6)        -- scalar register
  | tmp (n : BitVec 3)      -- distance operand ^n
  | zero                    -- the zero code
  | special (k : BitVec 4)  -- %lane to %width (R24)
  | imm (k : BitVec 7)      -- inline constant, signed
  deriving DecidableEq, Repr

/-- A destination operand (R22): a v register, an s register, or code 327. -/
inductive Dst where
  | v (n : BitVec 8)
  | s (n : BitVec 6)
  | none
  deriving DecidableEq, Repr

/-- What every instruction word but a prefix and a chart word carries: chain bit, stall count and guard
(R13, R19).  A base word has a stall count below 4 and guard p0. -/
structure Head where
  ch : Bool
  st : BitVec 4
  g : BitVec 5
  deriving DecidableEq, Repr

/-- Where a load finds its granule (R224, R238). -/
inductive Via where
  | home | l1 | l2
  deriving DecidableEq, Repr

/-- A place for a ply: core, partition, ply slot, window base in granules, lane group (R64, R99). -/
structure Placement where
  core : Nat
  part : Nat
  slot : Nat
  base : Nat
  group : Nat
  deriving DecidableEq, Repr

/-- What a packet of the Ultra Ethernet engine carries (R388, R389), as the receiving port sees it. -/
structure NetPacket where
  port : Nat
  src : Nat        -- the sender, below 2^16 a port of this machine (package × 8 + port), and the number of its message
  msg : Nat
  index : Nat      -- packet of the message
  total : Nat      -- packets of the message
  job : Nat
  win : Nat
  rofs : Nat       -- byte offset of the message in the window
  offset : Nat     -- byte offset of the packet in the message
  data : List (BitVec 8)
  len : Nat        -- bytes asked for, in a READ request
  auth : Bool      -- TSS authentication succeeds
  trimmed : Bool
  reply : Option Nat   -- the READ request of the receiving engine whose bytes it brings
  deriving DecidableEq, Repr

/-- Who writes a slice: a ply of the hub (R356), or an admin request to a package (R398). -/
inductive SliceWriter where
  | ply (handle : Nat)
  | admin (pkg : Nat)
  deriving DecidableEq, Repr

/-- A budget of R401: whose it is, the resource, minimum, cap and class. -/
structure Budget where
  holder : Nat
  resource : Nat
  unit : Nat
  minimum : Nat
  cap : Nat
  cls : Nat
  deriving DecidableEq, Repr

/-- What the supervisor asks when it creates or grows a partition (R397, R371): dies, the values of FWASID and FWPKG
for them, budgets, and buffers for the two pools of frames. -/
structure PartReq where
  dies : List Nat
  asids : List Nat
  pkgs : List Nat
  budgets : List Budget
  plyBuffers : List Nat
  skeinBuffers : List Nat
  deriving DecidableEq, Repr

/-- A transaction of an assigned interface (R327). -/
structure Tlp where
  link : Nat
  rid : Nat
  stream : Nat
  tbit : Bool
  write : Bool
  va : Nat
  data : List (BitVec 8)
  deriving DecidableEq, Repr

/-- Every row of the opcode table, one constructor each, in the table's order.  A constructor whose row
has no encoding is an event: it comes to act through `State.agenda`, and its arguments are the choice the
rules leave to it (log 3). -/
inductive Instr where
  /-- NOP (R51). -/
  | nop (h : Head)
  /-- PFX (R25). -/
  | pfx (rnd : Rnd) (sat : BitVec 2) (ftz : Bool) (nox : Bool) (go : BitVec 5) (gv : Bool)
  /-- CHART_WORD (R44). -/
  | chartWord (ch : Bool) (st : BitVec 2) (ix : BitVec 8) (f : BitVec 19)
  /-- BIND (R84). -/
  | bind (h : Head) (wait : BitVec 8)
  /-- IFENCE (R58). -/
  | ifence (h : Head)
  /-- RCV (R88). -/
  | rcv (h : Head)
  /-- FEND (R91). -/
  | fend (h : Head)
  /-- YIELD (R93). -/
  | yield (h : Head)
  /-- EXIT (R92). -/
  | exit (h : Head)
  /-- MOV_BASE (R123). -/
  | movBase (h : Head) (d : BitVec 6) (a : Src)
  /-- MOVS_BASE (R124). -/
  | movsBase (h : Head) (d : BitVec 6) (a : Src)
  /-- TAGGET_BASE (R128). -/
  | taggetBase (h : Head) (d : BitVec 6) (a : Src)
  /-- TAGSET_BASE (R126). -/
  | tagsetBase (h : Head) (d : BitVec 6) (a : Src) (tag : Fmt)
  /-- ADD_BASE (R136). -/
  | addBase (h : Head) (d : BitVec 6) (a : Src) (b : Src)
  /-- SUB_BASE (R136). -/
  | subBase (h : Head) (d : BitVec 6) (a : Src) (b : Src)
  /-- MUL_BASE (R136). -/
  | mulBase (h : Head) (d : BitVec 6) (a : Src) (b : Src)
  /-- MULHI_I_BASE (R136). -/
  | mulhiIBase (h : Head) (d : BitVec 6) (a : Src) (b : Src)
  /-- MULHI_UI_BASE (R136). -/
  | mulhiUiBase (h : Head) (d : BitVec 6) (a : Src) (b : Src)
  /-- MIN_I_BASE (R136). -/
  | minIBase (h : Head) (d : BitVec 6) (a : Src) (b : Src)
  /-- MIN_UI_BASE (R136). -/
  | minUiBase (h : Head) (d : BitVec 6) (a : Src) (b : Src)
  /-- MAX_I_BASE (R136). -/
  | maxIBase (h : Head) (d : BitVec 6) (a : Src) (b : Src)
  /-- MAX_UI_BASE (R136). -/
  | maxUiBase (h : Head) (d : BitVec 6) (a : Src) (b : Src)
  /-- AND_BASE (R139). -/
  | andBase (h : Head) (d : BitVec 6) (a : Src) (b : Src)
  /-- OR_BASE (R139). -/
  | orBase (h : Head) (d : BitVec 6) (a : Src) (b : Src)
  /-- XOR_BASE (R139). -/
  | xorBase (h : Head) (d : BitVec 6) (a : Src) (b : Src)
  /-- SHL_BASE (R140). -/
  | shlBase (h : Head) (d : BitVec 6) (a : Src) (b : Src)
  /-- SHR_BASE (R140). -/
  | shrBase (h : Head) (d : BitVec 6) (a : Src) (b : Src)
  /-- SAR_BASE (R140). -/
  | sarBase (h : Head) (d : BitVec 6) (a : Src) (b : Src)
  /-- ROT_BASE (R140). -/
  | rotBase (h : Head) (d : BitVec 6) (a : Src) (b : Src)
  /-- FADD_BASE (R147). -/
  | faddBase (h : Head) (d : BitVec 6) (a : Src) (b : Src)
  /-- FSUB_BASE (R147). -/
  | fsubBase (h : Head) (d : BitVec 6) (a : Src) (b : Src)
  /-- FMUL_BASE (R147). -/
  | fmulBase (h : Head) (d : BitVec 6) (a : Src) (b : Src)
  /-- FMIN_BASE (R149). -/
  | fminBase (h : Head) (d : BitVec 6) (a : Src) (b : Src)
  /-- FMAX_BASE (R149). -/
  | fmaxBase (h : Head) (d : BitVec 6) (a : Src) (b : Src)
  /-- LDS_BASE (R227). -/
  | ldsBase (h : Head) (d : BitVec 6) (a : Src) (b : Src)
  /-- STS_BASE (R227). -/
  | stsBase (h : Head) (d : BitVec 6) (a : Src) (b : Src)
  /-- LD_BASE (R251). -/
  | ldBase (h : Head) (d : BitVec 6) (a : Src) (b : Src)
  /-- ST_BASE (R251). -/
  | stBase (h : Head) (d : BitVec 6) (a : Src) (b : Src)
  /-- QADD_BASE (R177). -/
  | qaddBase (h : Head) (d : BitVec 6) (a : Src) (b : Src)
  /-- QSUB_BASE (R177). -/
  | qsubBase (h : Head) (d : BitVec 6) (a : Src) (b : Src)
  /-- QMUL_BASE (R177). -/
  | qmulBase (h : Head) (d : BitVec 6) (a : Src) (b : Src)
  /-- CHARTLD (R54). -/
  | chartld (h : Head) (a : BitVec 6) (off : BitVec 14) (slot : BitVec 3) (blk : BitVec 4)
  /-- CHARTRD (R57). -/
  | chartrd (h : Head) (d : BitVec 6) (a : Src) (off : BitVec 14)
  /-- BIND_BR (R85). -/
  | bindBr (h : Head) (wait : BitVec 8) (ofs : BitVec 24)
  /-- BIND_BC (R87). -/
  | bindBc (h : Head) (n : BitVec 6) (wait : BitVec 8) (ofs : BitVec 24)
  /-- BIND_CALL (R85). -/
  | bindCall (h : Head) (d : Dst) (wait : BitVec 8) (ofs : BitVec 24)
  /-- BIND_RET (R85). -/
  | bindRet (h : Head) (r : Dst) (wait : BitVec 8)
  /-- BIND_JMP (R85). -/
  | bindJmp (h : Head) (r : Dst) (wait : BitVec 8) (ofs : BitVec 24)
  /-- FORK (R90). -/
  | fork (h : Head) (d : Dst) (a : Src) (off : BitVec 14)
  /-- ELECT (R94). -/
  | elect (h : Head) (d : Dst) (pn : BitVec 4)
  /-- VOTE (R95). -/
  | vote (h : Head) (d : Dst) (pk : BitVec 4) (mode : BitVec 2) (pn : BitVec 4)
  /-- PHASE (R96). -/
  | phase (h : Head) (n : BitVec 14)
  /-- SYSC (R98). -/
  | sysc (h : Head) (n : BitVec 14)
  /-- TRAP (R365). -/
  | trap (h : Head) (n : BitVec 14)
  /-- ERET (R364). -/
  | eret (h : Head) (a : Src) (mode : BitVec 2)
  /-- CSRR (R365). -/
  | csrr (h : Head) (d : Dst) (csr : BitVec 14)
  /-- CSRW (R365). -/
  | csrw (h : Head) (a : Src) (csr : BitVec 14)
  /-- CSRX (R365). -/
  | csrx (h : Head) (d : Dst) (a : Src) (csr : BitVec 14) (op : BitVec 2)
  /-- HALT (R366). -/
  | halt (h : Head)
  /-- WFI (R366). -/
  | wfi (h : Head) (a : Src)
  /-- MOV (R123). -/
  | mov (h : Head) (d : Dst) (a : Src)
  /-- MOVI (R125). -/
  | movi (h : Head) (d : Dst) (mode : BitVec 2) (imm : BitVec 32)
  /-- MOVS (R124). -/
  | movs (h : Head) (d : BitVec 6) (a : Src)
  /-- TAGSET (R126). -/
  | tagset (h : Head) (d : Dst) (a : Src) (tag : Fmt)
  /-- TAGSET_FL (R127). -/
  | tagsetFl (h : Head) (a : Src)
  /-- TAGGET (R128). -/
  | tagget (h : Head) (d : Dst) (a : Src)
  /-- TAGGET_FL (R128). -/
  | taggetFl (h : Head) (d : Dst)
  /-- ADD (R136). -/
  | add (h : Head) (d : Dst) (a : Src) (b : Src) (f : Fmt) (ui : Bool)
  /-- SUB (R136). -/
  | sub (h : Head) (d : Dst) (a : Src) (b : Src) (f : Fmt) (ui : Bool)
  /-- MUL (R136). -/
  | mul (h : Head) (d : Dst) (a : Src) (b : Src) (f : Fmt) (ui : Bool)
  /-- MULHI (R136). -/
  | mulhi (h : Head) (d : Dst) (a : Src) (b : Src) (f : Fmt) (ui : Bool)
  /-- MAD (R136). -/
  | mad (h : Head) (d : Dst) (a : Src) (b : Src) (c : Src) (f : Fmt) (ui : Bool)
  /-- DIV (R137). -/
  | div (h : Head) (d : Dst) (a : Src) (b : Src) (f : Fmt) (ui : Bool)
  /-- REM (R137). -/
  | rem (h : Head) (d : Dst) (a : Src) (b : Src) (f : Fmt) (ui : Bool)
  /-- MIN (R136). -/
  | min (h : Head) (d : Dst) (a : Src) (b : Src) (f : Fmt) (ui : Bool)
  /-- MAX (R136). -/
  | max (h : Head) (d : Dst) (a : Src) (b : Src) (f : Fmt) (ui : Bool)
  /-- ABS (R136). -/
  | abs (h : Head) (d : Dst) (a : Src) (f : Fmt)
  /-- NEG (R136). -/
  | neg (h : Head) (d : Dst) (a : Src) (f : Fmt)
  /-- AND (R139). -/
  | and (h : Head) (d : Dst) (a : Src) (b : Src) (f : Fmt)
  /-- OR (R139). -/
  | or (h : Head) (d : Dst) (a : Src) (b : Src) (f : Fmt)
  /-- XOR (R139). -/
  | xor (h : Head) (d : Dst) (a : Src) (b : Src) (f : Fmt)
  /-- ANDN (R139). -/
  | andn (h : Head) (d : Dst) (a : Src) (b : Src) (f : Fmt)
  /-- NOT (R139). -/
  | not (h : Head) (d : Dst) (a : Src) (f : Fmt)
  /-- SHL (R140). -/
  | shl (h : Head) (d : Dst) (a : Src) (b : Src) (f : Fmt)
  /-- SHR (R140). -/
  | shr (h : Head) (d : Dst) (a : Src) (b : Src) (f : Fmt)
  /-- SAR (R140). -/
  | sar (h : Head) (d : Dst) (a : Src) (b : Src) (f : Fmt)
  /-- ROT (R140). -/
  | rot (h : Head) (d : Dst) (a : Src) (b : Src) (f : Fmt)
  /-- CLZ (R141). -/
  | clz (h : Head) (d : Dst) (a : Src) (f : Fmt)
  /-- POPC (R141). -/
  | popc (h : Head) (d : Dst) (a : Src) (f : Fmt)
  /-- CMP (R142). -/
  | cmp (h : Head) (d : Dst) (a : Src) (b : Src) (f : Fmt) (ui : Bool) (cond : BitVec 3) (pn : BitVec 4) (any : Bool)
  /-- SEL (R143). -/
  | sel (h : Head) (d : Dst) (a : Src) (b : Src) (c : Src) (f : Fmt)
  /-- ADDI (R136). -/
  | addi (h : Head) (d : Dst) (a : Src) (imm : BitVec 14) (f : Fmt) (ui : Bool)
  /-- PAND (R144). -/
  | pand (h : Head) (pd : BitVec 4) (pa : BitVec 4) (pb : BitVec 4) (na : Bool) (nb : Bool)
  /-- POR (R144). -/
  | por (h : Head) (pd : BitVec 4) (pa : BitVec 4) (pb : BitVec 4) (na : Bool) (nb : Bool)
  /-- PXOR (R144). -/
  | pxor (h : Head) (pd : BitVec 4) (pa : BitVec 4) (pb : BitVec 4) (na : Bool) (nb : Bool)
  /-- PNOT (R144). -/
  | pnot (h : Head) (pd : BitVec 4) (pa : BitVec 4) (na : Bool)
  /-- PGET (R145). -/
  | pget (h : Head) (d : BitVec 8)
  /-- PSET (R145). -/
  | pset (h : Head) (a : Src) (mask : BitVec 15)
  /-- FADD (R147). -/
  | fadd (h : Head) (d : Dst) (a : Src) (b : Src) (f : Fmt) (rnd : Rnd)
  /-- FSUB (R147). -/
  | fsub (h : Head) (d : Dst) (a : Src) (b : Src) (f : Fmt) (rnd : Rnd)
  /-- FMUL (R147). -/
  | fmul (h : Head) (d : Dst) (a : Src) (b : Src) (f : Fmt) (rnd : Rnd)
  /-- FMA (R147). -/
  | fma (h : Head) (d : Dst) (a : Src) (b : Src) (c : Src) (f : Fmt)
  /-- FMIN (R149). -/
  | fmin (h : Head) (d : Dst) (a : Src) (b : Src) (f : Fmt)
  /-- FMAX (R149). -/
  | fmax (h : Head) (d : Dst) (a : Src) (b : Src) (f : Fmt)
  /-- FABS (R150). -/
  | fabs (h : Head) (d : Dst) (a : Src) (f : Fmt)
  /-- FNEG (R150). -/
  | fneg (h : Head) (d : Dst) (a : Src) (f : Fmt)
  /-- FCMP (R151). -/
  | fcmp (h : Head) (d : Dst) (a : Src) (b : Src) (f : Fmt) (cond : BitVec 3) (pn : BitVec 4) (any : Bool)
  /-- FDIV (R147). -/
  | fdiv (h : Head) (d : Dst) (a : Src) (b : Src) (f : Fmt) (rnd : Rnd)
  /-- FSQRT (R147). -/
  | fsqrt (h : Head) (d : Dst) (a : Src) (f : Fmt) (rnd : Rnd)
  /-- FDOT (R152). -/
  | fdot (h : Head) (d : Dst) (a : Src) (b : Src) (c : Src) (f : Fmt)
  /-- RCP (R154). -/
  | rcp (h : Head) (d : Dst) (a : Src) (f : Fmt)
  /-- RSQRT (R154). -/
  | rsqrt (h : Head) (d : Dst) (a : Src) (f : Fmt)
  /-- EXP2 (R154). -/
  | exp2 (h : Head) (d : Dst) (a : Src) (f : Fmt)
  /-- LOG2 (R154). -/
  | log2 (h : Head) (d : Dst) (a : Src) (f : Fmt)
  /-- SIN (R154). -/
  | sin (h : Head) (d : Dst) (a : Src) (f : Fmt)
  /-- COS (R154). -/
  | cos (h : Head) (d : Dst) (a : Src) (f : Fmt)
  /-- TANH (R154). -/
  | tanh (h : Head) (d : Dst) (a : Src) (f : Fmt)
  /-- CVT (R156). -/
  | cvt (h : Head) (d : Dst) (a : Src) (f : Fmt) (ui : Bool) (rnd : Rnd) (sf : Fmt)
  /-- PACK (R157). -/
  | pack (h : Head) (d : Dst) (a : Src) (b : Src) (f : Fmt) (ui : Bool) (rnd : Rnd)
  /-- UNPACK (R158). -/
  | unpack (h : Head) (d : Dst) (a : Src) (f : Fmt) (ui : Bool) (hi : Bool)
  /-- SHFL (R162). -/
  | shfl (h : Head) (d : Dst) (a : Src) (b : Src) (f : Fmt) (mode : BitVec 3) (seg : BitVec 4)
  /-- BCAST (R163). -/
  | bcast (h : Head) (d : Dst) (a : Src) (b : Src) (f : Fmt) (seg : BitVec 4)
  /-- LREDUCE (R164). -/
  | lreduce (h : Head) (d : Dst) (a : Src) (f : Fmt) (ui : Bool) (op : BitVec 3) (seg : BitVec 4) (rnd : Rnd)
  /-- LSCAN (R165). -/
  | lscan (h : Head) (d : Dst) (a : Src) (f : Fmt) (ui : Bool) (op : BitVec 3) (seg : BitVec 4) (excl : Bool) (rnd : Rnd)
  /-- SWIZ (R166). -/
  | swiz (h : Head) (d : Dst) (a : Src) (f : Fmt) (pat : BitVec 8)
  /-- QSET (R176). -/
  | qset (h : Head) (a : Src) (f : Fmt) (qm : BitVec 2)
  /-- QADD (R177). -/
  | qadd (h : Head) (d : Dst) (a : Src) (b : Src) (f : Fmt) (qm : BitVec 2)
  /-- QSUB (R177). -/
  | qsub (h : Head) (d : Dst) (a : Src) (b : Src) (f : Fmt) (qm : BitVec 2)
  /-- QMUL (R177). -/
  | qmul (h : Head) (d : Dst) (a : Src) (b : Src) (f : Fmt) (qm : BitVec 2)
  /-- QMAC (R177). -/
  | qmac (h : Head) (d : Dst) (a : Src) (b : Src) (c : Src) (f : Fmt) (qm : BitVec 2)
  /-- QRED (R178). -/
  | qred (h : Head) (d : Dst) (a : Src) (f : Fmt) (ui : Bool) (qm : BitVec 2)
  /-- QBFLY (R179). -/
  | qbfly (h : Head) (d : BitVec 8) (a : Src) (b : Src) (c : Src) (f : Fmt) (qm : BitVec 2)
  /-- QIBFLY (R179). -/
  | qibfly (h : Head) (d : BitVec 8) (a : Src) (b : Src) (c : Src) (f : Fmt) (qm : BitVec 2)
  /-- HPERM (R182). -/
  | hperm (h : Head) (d : Dst) (a : Src) (b : Src) (f : Fmt) (seg : BitVec 3)
  /-- HAUTO (R183). -/
  | hauto (h : Head) (d : Dst) (a : Src) (b : Src) (f : Fmt) (qm : BitVec 2) (seg : BitVec 4)
  /-- MMA (R200). -/
  | mma (h : Head) (d : Src) (a : BitVec 8) (b : Src) (slot : BitVec 3) (keep : Bool) (f16 : Bool)
  /-- MMAI (R201). -/
  | mmai (h : Head) (d : Src) (a : BitVec 8) (b : Src) (slot : BitVec 3) (keep : Bool) (ua : Bool) (ub : Bool)
  /-- MMAG (R202). -/
  | mmag (h : Head) (d : Src) (a : BitVec 8) (b : Src) (slot : BitVec 3) (keep : Bool) (gq8 : Bool) (grp : BitVec 2)
  /-- MMAC (R203). -/
  | mmac (h : Head) (d : Src) (a : BitVec 8) (b : Src) (slot : BitVec 3) (keep : Bool)
  /-- ACCALLOC (R205). -/
  | accalloc (h : Head) (d : BitVec 6) (slot : BitVec 3)
  /-- ACCTRY (R205). -/
  | acctry (h : Head) (d : BitVec 6) (slot : BitVec 3) (pn : BitVec 4)
  /-- ACCFREE (R206). -/
  | accfree (h : Head) (d : Src) (slot : BitVec 3)
  /-- ACCZERO (R206). -/
  | acczero (h : Head) (d : Src) (slot : BitVec 3)
  /-- ACCLD (R208). -/
  | accld (h : Head) (d : Src) (a : BitVec 6) (off : BitVec 14) (slot : BitVec 3) (tag : Fmt)
  /-- ACCST (R208). -/
  | accst (h : Head) (d : Src) (a : BitVec 6) (off : BitVec 14) (slot : BitVec 3)
  /-- MREAD (R209). -/
  | mread (h : Head) (d : BitVec 8) (a : Src) (slot : BitVec 3) (half : Bool) (g : BitVec 3)
  /-- LDS (R227). -/
  | lds (h : Head) (d : Dst) (a : Src) (off : BitVec 14) (f : Fmt)
  /-- STS (R227). -/
  | sts (h : Head) (d : Src) (a : Src) (off : BitVec 14)
  /-- LDSFE (R228). -/
  | ldsfe (h : Head) (d : Dst) (a : Src) (off : BitVec 14) (f : Fmt)
  /-- STSFE (R228). -/
  | stsfe (h : Head) (d : Src) (a : Src) (off : BitVec 14)
  /-- SFE (R229). -/
  | sfe (h : Head) (a : Src) (off : BitVec 14) (full : Bool)
  /-- TLOOK (R231). -/
  | tlook (h : Head) (d : Dst) (a : Src) (region : BitVec 4) (pn : BitVec 4)
  /-- TSET (R231). -/
  | tset (h : Head) (a : Src) (b : Src) (region : BitVec 4)
  /-- TINV (R231). -/
  | tinv (h : Head) (b : Src) (region : BitVec 4)
  /-- RACQ (R234). -/
  | racq (h : Head) (d : BitVec 6) (a : Src) (pn : BitVec 4)
  /-- RPUB (R232). -/
  | rpub (h : Head) (a : Src) (b : Src)
  /-- RTAKE (R234). -/
  | rtake (h : Head) (d : BitVec 6) (a : Src) (pn : BitVec 4)
  /-- RREL (R232). -/
  | rrel (h : Head) (a : Src) (b : Src)
  /-- BARINIT (R236). -/
  | barinit (h : Head) (a : Src) (b : Src)
  /-- BARARR (R236). -/
  | bararr (h : Head) (d : Dst) (a : Src) (b : Src)
  /-- BARWAIT (R236). -/
  | barwait (h : Head) (a : Src) (b : Src)
  /-- LD (R251). -/
  | ld (h : Head) (d : Dst) (a : Src) (off : BitVec 14) (slot : BitVec 3) (f : Fmt) (acq : Bool) (scope : BitVec 3)
  /-- ST (R251). -/
  | st (h : Head) (d : Src) (a : Src) (off : BitVec 14) (slot : BitVec 3) (rel : Bool) (scope : BitVec 3)
  /-- ATOM (R255). -/
  | atom (h : Head) (d : Dst) (a : Src) (b : Src) (c : Src) (slot : BitVec 3) (op : BitVec 4)
  /-- REDMS (R256). -/
  | redms (h : Head) (a : Src) (b : Src) (f : Fmt) (ui : Bool) (op : BitVec 2)
  /-- PREF (R253). -/
  | pref (h : Head) (a : Src) (off : BitVec 14) (level : BitVec 2)
  /-- FENCE (R258). -/
  | fence (h : Head) (k : BitVec 3) (scope : BitVec 3) (classes : BitVec 5)
  /-- WAITF (R258). -/
  | waitf (h : Head) (k : BitVec 3)
  /-- WAITV (R260). -/
  | waitv (h : Head) (d : Dst) (a : Src) (b : Src) (c : Src) (scope : BitVec 3)
  /-- WAKEV (R261). -/
  | wakev (h : Head) (d : Dst) (a : Src) (b : Src) (slot : BitVec 3) (scope : BitVec 3)
  /-- COPY (R273). -/
  | copy (h : Head) (d : Src) (a : BitVec 6) (b : Src) (slot : BitVec 3) (map : BitVec 5) (s2g : Bool) (ring : Bool) (cf : BitVec 4) (bar : Bool)
  /-- COPYL (R276). -/
  | copyl (h : Head) (d : Src) (a : Src) (b : Src) (c : Src) (slot : BitVec 3) (dir : BitVec 2) (bar : Bool)
  /-- CMAP (R275). -/
  | cmap (h : Head) (a : BitVec 6) (off : BitVec 14) (slot : BitVec 3) (map : BitVec 5)
  /-- STGPOST (R282). -/
  | stgpost (h : Head) (d : Dst) (a : Src) (b : Src) (slot : BitVec 3)
  /-- STGADV (R283). -/
  | stgadv (h : Head) (a : Src) (b : Src) (fin : Bool)
  /-- NPOST (R393). -/
  | npost (h : Head) (d : Dst) (a : Src) (b : Src) (slot : BitVec 3)
  /-- NCQW (R394). -/
  | ncqw (h : Head) (d : Dst) (a : Src) (b : Src) (scope : BitVec 3) (t : BitVec 5)
  /-- LAUNCH (R352). -/
  | launch (h : Head) (d : Dst) (a : Src) (b : Src) (slot : BitVec 3)
  /-- RNGSET (R302). -/
  | rngset (h : Head) (a : BitVec 6) (b : Src) (slot : BitVec 3) (n : BitVec 4)
  /-- ATINV (R303). -/
  | atinv (h : Head) (a : Src) (b : Src) (slot : BitVec 3) (mode : BitVec 2)
  /-- PGQ (R305). -/
  | pgq (h : Head) (d : Dst) (a : Src) (b : Src) (slot : BitVec 3)
  /-- ECREATE (R316). -/
  | ecreate (h : Head) (d : BitVec 6) (a : Src) (slot : BitVec 3)
  /-- EADD (R317). -/
  | eadd (h : Head) (d : BitVec 6) (a : Src) (slot : BitVec 3)
  /-- EADD_DEV (R327). -/
  | eaddDev (h : Head) (d : BitVec 6) (a : Src) (slot : BitVec 3)
  /-- EINIT (R318). -/
  | einit (h : Head) (d : BitVec 6) (a : Src) (slot : BitVec 3)
  /-- EENTER (R320). -/
  | eenter (h : Head) (d : BitVec 6) (a : Src) (b : Src)
  /-- EEXIT (R321). -/
  | eexit (h : Head)
  /-- ESEAL (R323). -/
  | eseal (h : Head) (d : BitVec 6) (a : BitVec 6) (slot : BitVec 3)
  /-- EUNSEAL (R323). -/
  | eunseal (h : Head) (d : BitVec 6) (a : BitVec 6) (slot : BitVec 3)
  /-- EREPORT (R324). -/
  | ereport (h : Head) (d : BitVec 6) (a : Src) (b : Src) (slot : BitVec 3)
  /-- EDESTROY (R325). -/
  | edestroy (h : Head) (d : BitVec 6) (a : Src) (slot : BitVec 3)
  /-- CHARTLD_COMMIT (R54). -/
  | chartldCommit (op : Nat)
  /-- RUN_SLOT_FILL (R78). -/
  | runSlotFill (core : Nat) (part : Nat)
  /-- STARVATION_PROMOTE (R78). -/
  | starvationPromote (core : Nat) (part : Nat)
  /-- WAIT_SET_LATE_SPLIT (R68). -/
  | waitSetLateSplit (ply : Nat) (course : Nat)
  /-- HANDLER_TAKE (R359). -/
  | handlerTake (ply : Nat)
  /-- TRAP_RECORD_WRITE (R362). -/
  | trapRecordWrite (ply : Nat) (course : Nat)
  /-- TRAP_RESPONSE (R363). -/
  | trapResponse (rec : Nat)
  /-- SLICE_EXPIRY (R367). -/
  | sliceExpiry (ply : Nat)
  /-- PLY_SAVE (R367). -/
  | plySave (ply : Nat)
  /-- FORCED_FULL_SAVE (R367). -/
  | forcedFullSave (ply : Nat)
  /-- SKEIN_SAVE (R225). -/
  | skeinSave (skein : Nat)
  /-- PLY_RESTORE (R368). -/
  | plyRestore (ply : Nat) (pl : Placement)
  /-- SKEIN_RESTORE (R421). -/
  | skeinRestore (skein : Nat) (core : Nat)
  /-- MEMORY_REPLY (R251). -/
  | memoryReply (op : Nat) (fibre : Nat) (via : Via)
  /-- MEMORY_SIDE_ATOMIC (R255). -/
  | memorySideAtomic (op : Nat) (fibre : Nat)
  /-- MEMORY_SIDE_REDUCE (R257). -/
  | memorySideReduce (op : Nat) (fibre : Nat)
  /-- WAITV_TIMEOUT (R260). -/
  | waitvTimeout (ply : Nat) (fibre : Nat)
  /-- NCQW_TIMEOUT (R394). -/
  | ncqwTimeout (ply : Nat) (course : Nat)
  /-- WFI_TIMEOUT (R366). -/
  | wfiTimeout (ply : Nat)
  /-- HUB_CORE_START (R366). -/
  | hubCoreStart (pkg : Nat) (core : Nat)
  /-- PAIR_OP_BEGIN (R187). -/
  | pairOpBegin (pair : Nat) (op : Nat)
  /-- PAIR_OP_RETIRE (R204). -/
  | pairOpRetire (pair : Nat) (op : Nat)
  /-- ACCALLOC_SETTLE (R205). -/
  | accallocSettle (pair : Nat)
  /-- ACC_TRANSFER_COMPLETE (R208). -/
  | accTransferComplete (pair : Nat) (op : Nat)
  /-- PAIR_OP_TIMEOUT (R213). -/
  | pairOpTimeout (pair : Nat)
  /-- PAIR_RESET (R213). -/
  | pairReset (pair : Nat)
  /-- PAIR_RESET_COMPLETE (R213). -/
  | pairResetComplete (pair : Nat)
  /-- RING_ACQUIRE_SERVE (R232). -/
  | ringAcquireServe (skein : Nat) (ring : Nat)
  /-- RING_TAKE_SERVE (R234). -/
  | ringTakeServe (skein : Nat) (ring : Nat)
  /-- COPY_ENGINE_START (R274). -/
  | copyEngineStart (op : Nat)
  /-- ENGINE_PAGE_RESUME (R274). -/
  | enginePageResume (op : Nat)
  /-- ENGINE_BARRIER_ARRIVE (R274). -/
  | engineBarrierArrive (op : Nat)
  /-- COPY_COMPLETE (R274). -/
  | copyComplete (op : Nat)
  /-- CMAP_COMPLETE (R275). -/
  | cmapComplete (op : Nat)
  /-- HUB_COPY_DOORBELL (R278). -/
  | hubCopyDoorbell (enc : Nat) (queue : Nat) (tail : Nat)
  /-- HUB_COPY_DESCRIPTOR (R278). -/
  | hubCopyDescriptor (enc : Nat) (queue : Nat)
  /-- HUB_COPY_COMPLETE (R278). -/
  | hubCopyComplete (op : Nat)
  /-- STGPOST_SETTLE (R282). -/
  | stgpostSettle (op : Nat)
  /-- STAGE_BLOCK_REQUEST (R280). -/
  | stageBlockRequest (enc : Nat) (stream : Nat)
  /-- STAGE_BLOCK_COMPLETE (R280). -/
  | stageBlockComplete (enc : Nat) (stream : Nat) (gen : Nat) (block : Nat) (data : Option (List (BitVec 8)))
  /-- STAGE_LEASE_REVOKE (R281). -/
  | stageLeaseRevoke (enc : Nat) (stream : Nat)
  /-- STAGE_DRAIN_TIMEOUT (R281). -/
  | stageDrainTimeout (enc : Nat) (stream : Nat)
  /-- MONITOR_SETTLE (R314). -/
  | monitorSettle (op : Nat)
  /-- RNGSET_UPDATE (R302). -/
  | rngsetUpdate (op : Nat)
  /-- ATINV_DROP (R303). -/
  | atinvDrop (op : Nat)
  /-- PGQ_REPLY (R305). -/
  | pgqReply (op : Nat)
  /-- PROMOTION_2MIB (R300). -/
  | promotion2mib (die : Nat) (asid : Nat) (ia : Nat)
  /-- PROMOTION_1GIB (R299). -/
  | promotion1gib (die : Nat) (asid : Nat) (ia : Nat)
  /-- KICK (R329). -/
  | kick (op : Nat) (fibre : Nat)
  /-- QBASE_WRITE (R329). -/
  | qbaseWrite (op : Nat) (fibre : Nat)
  /-- QCFG_WRITE (R329). -/
  | qcfgWrite (op : Nat) (fibre : Nat)
  /-- LAUNCH_START (R332). -/
  | launchStart (enc : Nat) (queue : Nat)
  /-- SKEIN_ADMIT (R337). -/
  | skeinAdmit (enc : Nat) (queue : Nat) (core : Nat) (pls : List Placement)
  /-- LAUNCH_COMPLETE (R339). -/
  | launchComplete (enc : Nat) (queue : Nat)
  /-- QUEUE_LEVEL_RISE (R336). -/
  | queueLevelRise (enc : Nat) (queue : Nat)
  /-- ADMISSION_RECLAIM (R338). -/
  | admissionReclaim (enc : Nat) (queue : Nat)
  /-- ADMIT_LIMIT_UPDATE (R337). -/
  | admitLimitUpdate (core : Nat) (limit : Nat)
  /-- SPECULATION_START (R342). -/
  | speculationStart (enc : Nat) (queue : Nat)
  /-- SPECULATION_CLAIM (R345). -/
  | speculationClaim (enc : Nat) (queue : Nat)
  /-- GAUGE_OVERRUN (R348). -/
  | gaugeOverrun (ply : Nat)
  /-- GAUGE_HANG_TIMEOUT (R348). -/
  | gaugeHangTimeout (ply : Nat)
  /-- PEER_LOSS (R375). -/
  | peerLoss (kind : Nat) (aper : Nat) (other : Nat)
  /-- FABRIC_READ (R377). -/
  | fabricRead (msg : Nat)
  /-- FABRIC_WRITE (R377). -/
  | fabricWrite (msg : Nat)
  /-- FABRIC_ATOMIC (R377). -/
  | fabricAtomic (msg : Nat)
  /-- FABRIC_ARITHMETIC (R377). -/
  | fabricArithmetic (msg : Nat)
  /-- FABRIC_PROBE (R377). -/
  | fabricProbe (msg : Nat)
  /-- FABRIC_WAIT_ENTER (R377). -/
  | fabricWaitEnter (msg : Nat)
  /-- FABRIC_WAKE (R377). -/
  | fabricWake (msg : Nat)
  /-- FABRIC_READ_RESPONSE (R377). -/
  | fabricReadResponse (msg : Nat)
  /-- FABRIC_WRITE_ACK (R377). -/
  | fabricWriteAck (msg : Nat)
  /-- FABRIC_ATOMIC_RESPONSE (R377). -/
  | fabricAtomicResponse (msg : Nat)
  /-- FABRIC_ARITHMETIC_ACK (R377). -/
  | fabricArithmeticAck (msg : Nat)
  /-- FABRIC_PROBE_RESPONSE (R377). -/
  | fabricProbeResponse (msg : Nat)
  /-- FABRIC_WAIT_RESPONSE (R377). -/
  | fabricWaitResponse (msg : Nat)
  /-- FABRIC_FAULT_RESPONSE (R377). -/
  | fabricFaultResponse (msg : Nat)
  /-- UCIE_FLIT_RECEIVE (R378). -/
  | ucieFlitReceive (flit : Nat) (ok : Bool)
  /-- SCALEUP_FLIT_RECEIVE (R382). -/
  | scaleupFlitReceive (flit : Nat) (ok : Bool)
  /-- UE_WRITE (R388). -/
  | ueWrite (req : Nat)
  /-- UE_READ (R388). -/
  | ueRead (req : Nat)
  /-- UE_WINSET (R388). -/
  | ueWinset (req : Nat)
  /-- UE_KEYSET (R388). -/
  | ueKeyset (req : Nat)
  /-- NET_PACKET_RECEIVE (R389). -/
  | netPacketReceive (pkg : Nat) (pkt : NetPacket)
  /-- NET_READ_REQUEST_RECEIVE (R388). -/
  | netReadRequestReceive (pkg : Nat) (pkt : NetPacket)
  /-- NET_SACK_TIMER (R389). -/
  | netSackTimer (pkg : Nat) (rx : Nat)
  /-- NET_ACK_RECEIVE (R390). -/
  | netAckReceive (req : Nat) (pkts : List Nat)
  /-- NET_NACK_RECEIVE (R390). -/
  | netNackReceive (req : Nat) (pkt : Nat) (error : Bool)
  /-- NET_RETRANSMIT_TIMEOUT (R390). -/
  | netRetransmitTimeout (req : Nat) (pkt : Nat)
  /-- NET_REQUEST_END (R391). -/
  | netRequestEnd (req : Nat)
  /-- PARTITION_CREATE (R397). -/
  | partitionCreate (pkg : Nat) (part : Nat) (req : PartReq)
  /-- PARTITION_GROW (R397). -/
  | partitionGrow (pkg : Nat) (part : Nat) (req : PartReq)
  /-- PARTITION_SHRINK (R397). -/
  | partitionShrink (pkg : Nat) (part : Nat) (dies : List Nat)
  /-- PARTITION_DESTROY (R397). -/
  | partitionDestroy (pkg : Nat) (part : Nat)
  /-- BUDGET_SET (R401). -/
  | budgetSet (pkg : Nat) (budget : Budget)
  /-- TRAP_RING_REGISTER (R362). -/
  | trapRingRegister (pkg : Nat) (part : Nat) (va : Nat) (log2 : Nat)
  /-- LEVEL_CEILING_SET (R329). -/
  | levelCeilingSet (enc : Nat) (level : Nat)
  /-- PORT_MTU_SET (R386). -/
  | portMtuSet (pkg : Nat) (port : Nat) (mtu : Nat)
  /-- JOB_ID_SET (R386). -/
  | jobIdSet (pkg : Nat) (enc : Nat) (job : Nat)
  /-- FIRMWARE_UPDATE (R406). -/
  | firmwareUpdate (pkg : Nat) (version : Nat) (image : List (BitVec 8)) (sig : List (BitVec 8))
  /-- FEATURES_OK (R398). -/
  | featuresOk (pkg : Nat) (fn : Nat) (feats : BitVec 64)
  /-- NOTIFY_REQUEST (R399). -/
  | notifyRequest (pkg : Nat) (fn : Nat) (rd : List (BitVec 8)) (wlen : Nat)
  /-- BUDGET_PERIOD (R402). -/
  | budgetPeriod (pkg : Nat)
  /-- TENSION_REPORT (R404). -/
  | tensionReport (enc : Nat)
  /-- MARGIN_TEST (R405). -/
  | marginTest (pkg : Nat) (core : Nat) (pass : Bool)
  /-- HEALTH_CONFIRM (R406). -/
  | healthConfirm (pkg : Nat)
  /-- FIRMWARE_WATCHDOG (R406). -/
  | firmwareWatchdog (pkg : Nat)
  /-- PACKAGE_RESET (R285). -/
  | packageReset (pkg : Nat)
  /-- SCRUB (R263). -/
  | scrub (die : Nat) (pa : Nat)
  /-- PCIE_INGRESS_WRITE (R263). -/
  | pcieIngressWrite (pkg : Nat) (asid : Nat) (va : Nat) (data : List (BitVec 8))
  /-- TDISP_TLP_RECEIVE (R327). -/
  | tdispTlpReceive (pkg : Nat) (tlp : Tlp)
  /-- TDISP_INTERFACE_EXIT (R327). -/
  | tdispInterfaceExit (pkg : Nat) (link : Nat) (slot : Nat)
  /-- GET_VERSION (R326). -/
  | getVersion (pkg : Nat) (chan : Nat)
  /-- GET_CAPABILITIES (R326). -/
  | getCapabilities (pkg : Nat) (chan : Nat)
  /-- NEGOTIATE_ALGORITHMS (R326). -/
  | negotiateAlgorithms (pkg : Nat) (chan : Nat) (algs : List (BitVec 8))
  /-- GET_DIGESTS (R326). -/
  | getDigests (pkg : Nat) (chan : Nat)
  /-- GET_CERTIFICATE (R326). -/
  | getCertificate (pkg : Nat) (chan : Nat) (slot : Nat) (off : Nat) (len : Nat)
  /-- CHALLENGE (R326). -/
  | challenge (pkg : Nat) (chan : Nat) (nonce : List (BitVec 8))
  /-- GET_MEASUREMENTS (R326). -/
  | getMeasurements (pkg : Nat) (chan : Nat) (index : Nat) (nonce : List (BitVec 8))
  /-- KEY_EXCHANGE (R326). -/
  | keyExchange (pkg : Nat) (chan : Nat) (exch : List (BitVec 8))
  /-- FINISH (R326). -/
  | finish (pkg : Nat) (chan : Nat) (session : Nat) (mac : List (BitVec 8))
  /-- HEARTBEAT (R326). -/
  | heartbeat (pkg : Nat) (chan : Nat) (session : Nat)
  /-- KEY_UPDATE (R326). -/
  | keyUpdate (pkg : Nat) (chan : Nat) (session : Nat) (op : Nat)
  /-- END_SESSION (R326). -/
  | endSession (pkg : Nat) (chan : Nat) (session : Nat)
  /-- PLY_CTL_WRITE (R105). -/
  | plyCtlWrite (ply : Nat) (course : Nat) (val : BitVec 64)
  /-- TVEC_WRITE (R357). -/
  | tvecWrite (ply : Nat) (course : Nat) (val : BitVec 64)
  /-- SLICE_CTL_WRITE (R358): by a course of a ply, or by an admin request, of no course (R398). -/
  | sliceCtlWrite (ply : SliceWriter) (course : Nat) (val : BitVec 64)
  /-- CONTROL_REGISTER_WRITE (R356). -/
  | controlRegisterWrite (ply : Nat) (course : Nat) (csr : Nat) (val : BitVec 64)
  /-- HUB_THREAD_SLICE_EXPIRY (R366). -/
  | hubThreadSliceExpiry (ply : Nat)
  /-- PCIE_EGRESS (R263). -/
  | pcieEgress (pkg : Nat) (asid : Nat) (va : Nat) (len : Nat)
  /-- RETIRED_UNIT (R403). -/
  | retiredUnit (pkg : Nat) (kind : Nat) (aper : Nat) (unit : Nat)
  deriving DecidableEq, Repr

end Sys2Proof
end

