-- ==== Sys2Proof/WellFormed.lean ====
section
/-! DEFINITION.  Which syntax the encodings admit: the limits of every field that R18, R21 to R23 and the
entries state and that do not depend on the state of the machine. -/

namespace Sys2Proof

/-- Integer formats, codes 1 to 5 (R112). -/
def Fmt.isInt : Fmt → Bool
  | .i64 | .i32 | .i16 | .i8 | .i4 => true
  | _ => false

/-- Formats of fmin, fmax, fabs, fcmp, fdiv and fsqrt (R146). -/
def Fmt.isFlt4 : Fmt → Bool
  | .f64 | .f32 | .f16 | .bf16 => true
  | _ => false

/-- Formats of fadd, fsub, fmul, fma and fneg (R146). -/
def Fmt.isFlt5 : Fmt → Bool
  | .f64 | .f32 | .f16 | .bf16 | .cf32 => true
  | _ => false

/-- Formats of fdot (R152). -/
def Fmt.isHalf : Fmt → Bool
  | .f16 | .bf16 => true
  | _ => false

/-- Formats of the special functions (R153). -/
def Fmt.isSpec : Fmt → Bool
  | .f32 | .f16 | .bf16 => true
  | _ => false

/-- Destination formats of pack (R157). -/
def Fmt.isPackDst : Fmt → Bool
  | .i32 | .i16 | .i8 | .i4 | .f32 | .f16 | .bf16 => true
  | _ => false

/-- Source formats of unpack (R158). -/
def Fmt.isUnpackSrc : Fmt → Bool
  | .i32 | .i16 | .i8 | .i4 | .f32 | .f16 | .bf16 | .gq8 | .gq4 => true
  | _ => false

/-- Formats of lreduce and lscan (R161). -/
def Fmt.isRed : Fmt → Bool
  | .i64 | .i32 | .i16 | .i8 | .i4 | .f64 | .f32 | .f16 | .bf16 => true
  | _ => false

/-- Modular formats (R173). -/
def Fmt.isQ : Fmt → Bool
  | .q64 | .q32 => true
  | _ => false

/-- Formats of hperm (R182). -/
def Fmt.isHperm : Fmt → Bool
  | .i8 | .i4 | .gq8 | .gq4 | .poison => false
  | _ => true

/-- Any format code: a tag other than 15 (R131). -/
def Fmt.isData : Fmt → Bool
  | .poison => false
  | _ => true

/-- Block tags that accld names (R207). -/
def Fmt.isAccTag : Fmt → Bool
  | .raw | .i32 | .f32 | .cf32 => true
  | _ => false

/-- Formats of redms (R256). -/
def Fmt.isRedms : Fmt → Bool
  | .i64 | .i32 | .f64 | .f32 | .bf16 => true
  | _ => false

/-- Bits of a sub-element (R106). -/
def Fmt.width : Fmt → Nat
  | .raw | .i64 | .f64 | .cf32 | .q64 | .poison => 64
  | .i32 | .f32 | .q32 => 32
  | .i16 | .f16 | .bf16 => 16
  | .i8 | .gq8 => 8
  | .i4 | .gq4 => 4

/-- Sub-elements of a register (R106); Raw counts as one (R159). -/
def Fmt.subs : Fmt → Nat
  | .raw | .i64 | .f64 | .cf32 | .q64 | .poison => 1
  | .i32 | .f32 | .q32 => 2
  | .i16 | .f16 | .bf16 => 4
  | .i8 | .gq8 => 8
  | .i4 | .gq4 => 16

/-- The integer format of the same sub-element width (R143). -/
def Fmt.index : Fmt → Fmt
  | .raw | .i64 | .f64 | .cf32 | .q64 | .poison => .i64
  | .i32 | .f32 | .q32 => .i32
  | .i16 | .f16 | .bf16 => .i16
  | .i8 | .gq8 => .i8
  | .i4 | .gq4 => .i4

/-- The bit pattern a bitwise instruction reads its constants as (R139). -/
def Fmt.bits (f : Fmt) : Fmt := f.index

/-- The source format of pack for a destination format (R157). -/
def Fmt.packSrc : Fmt → Fmt
  | .i32 => .i64
  | .i16 => .i32
  | .i8 => .i16
  | .i4 => .i8
  | .f32 => .f64
  | .f16 | .bf16 => .f32
  | f => f

/-- The integer format qred reads (R178). -/
def Fmt.qint : Fmt → Fmt
  | .q64 => .i64
  | _ => .i32

/-- The legal pairs of cvt, destination then source (R155). -/
def cvtPair : Fmt → Fmt → Bool
  | .i64, .f64 | .f64, .i64 | .f64, .f64 => true
  | .i32, .f32 | .f32, .i32 | .f32, .f32 => true
  | .i16, .f16 | .f16, .i16 | .i16, .bf16 | .bf16, .i16 => true
  | .f16, .bf16 | .bf16, .f16 | .f16, .f16 | .bf16, .bf16 => true
  | _, _ => false

/-- Whether a constant has a place in a sub-element of the format (R23). -/
def Fmt.fits (f : Fmt) (ui : Bool) (v : Int) : Bool :=
  match f with
  | .i64 | .i32 | .i16 | .i8 | .i4 =>
    if ui then 0 ≤ v && v < 2 ^ f.width else -(2 ^ (f.width - 1)) ≤ v && v < 2 ^ (f.width - 1)
  | .q64 | .q32 => 0 ≤ v
  | .gq8 => 0 ≤ v && v < 256
  | .gq4 => 0 ≤ v && v < 16
  | .poison => false
  | _ => true

/-- An inline constant fits; every other operand has nothing to fit (R23). -/
def Src.fits (s : Src) (f : Fmt) (ui : Bool) : Bool :=
  match s with
  | .imm k => f.fits ui k.toInt
  | _ => true

/-- A source code of a long instruction (R22). -/
def Src.wfLong : Src → Bool
  | .tmp n => n != 0
  | .special k => k.toNat < 12
  | _ => true

/-- A source code other than a special source. -/
def Src.wfNoSpecial : Src → Bool
  | .tmp n => n != 0
  | .special _ => false
  | _ => true

/-- A uniform source: an s register, an inline constant or the zero code. -/
def Src.isUniform : Src → Bool
  | .s _ | .imm _ | .zero => true
  | _ => false

/-- R57: a source that is uniform across the ply: a uniform source, or a special source whose value does not differ among
its fibres (R24: %ply, %skein, %hank, %cone, %pkg, %cycle, %core, %part, %width). -/
def Src.isPlyUniform : Src → Bool
  | .special k => 3 ≤ k.toNat && k.toNat ≤ 11
  | a => a.isUniform

/-- The data operand of a store: a register or zero (R226, R250). -/
def Src.isData : Src → Bool
  | .v _ | .s _ | .zero => true
  | _ => false

/-- A source code of a base word (R17). -/
def Src.wfBase : Src → Bool
  | .v n => n.toNat < 112
  | .s n => n.toNat < 8
  | .tmp n => n != 0
  | .zero => true
  | _ => false

/-- A source that is a register or a distance temporary (R132). -/
def Src.isReg : Src → Bool
  | .v _ | .s _ | .tmp _ => true
  | _ => false

def Dst.isSome : Dst → Bool
  | .none => false
  | _ => true

/-- A v register or code 327. -/
def Dst.isVN : Dst → Bool
  | .s _ => false
  | _ => true

/-- An s register or code 327. -/
def Dst.isSN : Dst → Bool
  | .v _ => false
  | _ => true

/-- The head of a base word (R13, R16). -/
def Head.isBase (h : Head) : Bool := h.st.toNat < 4 && h.g == 0

/-- The instructions an encoding exists for; events are always well formed. -/
def Instr.wf : Instr → Bool
  | .nop h => h.isBase
  | .pfx _ sat _ _ _ _ => (sat != 3)
  | .chartWord _ _ _ _ => true
  | .bind h _ => h.isBase && !h.ch
  | .ifence h => h.isBase
  | .rcv h => h.isBase
  | .fend h => h.isBase
  | .yield h => h.isBase
  | .exit h => h.isBase
  | .movBase h _ a => h.isBase && a.wfBase
  | .movsBase h _ a => h.isBase && a.wfBase
  | .taggetBase h _ a => h.isBase && a.wfBase
  | .tagsetBase h _ a _ => h.isBase && a.wfBase
  | .addBase h _ a b => h.isBase && a.wfBase && b.wfBase
  | .subBase h _ a b => h.isBase && a.wfBase && b.wfBase
  | .mulBase h _ a b => h.isBase && a.wfBase && b.wfBase
  | .mulhiIBase h _ a b => h.isBase && a.wfBase && b.wfBase
  | .mulhiUiBase h _ a b => h.isBase && a.wfBase && b.wfBase
  | .minIBase h _ a b => h.isBase && a.wfBase && b.wfBase
  | .minUiBase h _ a b => h.isBase && a.wfBase && b.wfBase
  | .maxIBase h _ a b => h.isBase && a.wfBase && b.wfBase
  | .maxUiBase h _ a b => h.isBase && a.wfBase && b.wfBase
  | .andBase h _ a b => h.isBase && a.wfBase && b.wfBase
  | .orBase h _ a b => h.isBase && a.wfBase && b.wfBase
  | .xorBase h _ a b => h.isBase && a.wfBase && b.wfBase
  | .shlBase h _ a b => h.isBase && a.wfBase && b.wfBase
  | .shrBase h _ a b => h.isBase && a.wfBase && b.wfBase
  | .sarBase h _ a b => h.isBase && a.wfBase && b.wfBase
  | .rotBase h _ a b => h.isBase && a.wfBase && b.wfBase
  | .faddBase h _ a b => h.isBase && a.wfBase && b.wfBase && (a.isReg || b.isReg)
  | .fsubBase h _ a b => h.isBase && a.wfBase && b.wfBase && (a.isReg || b.isReg)
  | .fmulBase h _ a b => h.isBase && a.wfBase && b.wfBase && (a.isReg || b.isReg)
  | .fminBase h _ a b => h.isBase && a.wfBase && b.wfBase && (a.isReg || b.isReg)
  | .fmaxBase h _ a b => h.isBase && a.wfBase && b.wfBase && (a.isReg || b.isReg)
  | .ldsBase h _ a b => h.isBase && a.wfBase && b.wfBase
  | .stsBase h _ a b => h.isBase && a.wfBase && b.wfBase
  | .ldBase h _ a b => h.isBase && a.wfBase && b.wfBase
  | .stBase h _ a b => h.isBase && a.wfBase && b.wfBase
  | .qaddBase h _ a b => h.isBase && a.wfBase && b.wfBase && (a.isReg || b.isReg)
  | .qsubBase h _ a b => h.isBase && a.wfBase && b.wfBase && (a.isReg || b.isReg)
  | .qmulBase h _ a b => h.isBase && a.wfBase && b.wfBase && (a.isReg || b.isReg)
  | .chartld _ a _ _ blk => (a.toNat ≤ 63) && (blk.toNat < 9)
  | .chartrd _ d a _ => (d.toNat % 2 == 0) && a.isPlyUniform
  | .bindBr h _ _ => !h.ch
  | .bindBc h _ _ _ => !h.ch && (h.g == 0)
  | .bindCall h d _ _ => !h.ch && d.isSome
  | .bindRet h r _ => !h.ch && r.isSome
  | .bindJmp h r _ _ => !h.ch && r.isSome
  | .fork _ d a _ => d.isSN && a.isUniform
  | .elect _ d pn => d.isSN && (pn != 0)
  | .vote _ d _ mode pn => d.isSN && ((mode != 2 || pn == 0) && (d.isSome || pn != 0))
  | .phase _ n => (n.toNat < 256)
  | .sysc _ n => (n.toNat < 8192)
  | .trap _ n => (n.toNat < 8192)
  | .eret _ a mode => a.isUniform && ((mode == 2 || a == .zero))
  | .csrr _ d csr => d.isSome && (csr.toNat < 13)
  | .csrw _ a csr => a.isUniform && (csr.toNat < 13)
  | .csrx _ _ a csr op => a.isUniform && (csr.toNat < 13) && (op.toNat < 3)
  | .halt _ => true
  | .wfi _ a => a.isUniform
  | .mov _ d a => d.isVN && a.wfLong
  | .movi _ d mode _ => (mode != 3 || d.isSome)
  | .movs _ _ a => a.wfLong
  | .tagset _ _ a _ => a.wfLong
  | .tagsetFl _ a => a.wfLong
  | .tagget _ _ a => a.wfLong
  | .taggetFl _ _ => true
  | .add _ d a b f ui => d.isVN && a.wfLong && b.wfLong && f.isInt && a.fits f ui && b.fits f ui
  | .sub _ d a b f ui => d.isVN && a.wfLong && b.wfLong && f.isInt && a.fits f ui && b.fits f ui
  | .mul _ d a b f ui => d.isVN && a.wfLong && b.wfLong && f.isInt && a.fits f ui && b.fits f ui
  | .mulhi _ d a b f ui => d.isVN && a.wfLong && b.wfLong && f.isInt && a.fits f ui && b.fits f ui
  | .mad _ d a b c f ui => d.isVN && a.wfLong && b.wfLong && c.wfLong && f.isInt && a.fits f ui && b.fits f ui && c.fits f ui
  | .div _ d a b f ui => d.isVN && a.wfLong && b.wfLong && f.isInt && a.fits f ui && b.fits f ui
  | .rem _ d a b f ui => d.isVN && a.wfLong && b.wfLong && f.isInt && a.fits f ui && b.fits f ui
  | .min _ d a b f ui => d.isVN && a.wfLong && b.wfLong && f.isInt && a.fits f ui && b.fits f ui
  | .max _ d a b f ui => d.isVN && a.wfLong && b.wfLong && f.isInt && a.fits f ui && b.fits f ui
  | .abs _ d a f => d.isVN && a.wfLong && f.isInt && a.fits f false
  | .neg _ d a f => d.isVN && a.wfLong && f.isInt && a.fits f false
  | .and _ d a b f => d.isVN && a.wfLong && b.wfLong && f.isData && a.fits (f.bits) false && b.fits (f.bits) false
  | .or _ d a b f => d.isVN && a.wfLong && b.wfLong && f.isData && a.fits (f.bits) false && b.fits (f.bits) false
  | .xor _ d a b f => d.isVN && a.wfLong && b.wfLong && f.isData && a.fits (f.bits) false && b.fits (f.bits) false
  | .andn _ d a b f => d.isVN && a.wfLong && b.wfLong && f.isData && a.fits (f.bits) false && b.fits (f.bits) false
  | .not _ d a f => d.isVN && a.wfLong && f.isData && a.fits (f.bits) false
  | .shl _ d a b f => d.isVN && a.wfLong && b.wfLong && f.isInt && a.fits f false && b.fits f false
  | .shr _ d a b f => d.isVN && a.wfLong && b.wfLong && f.isInt && a.fits f true && b.fits f false
  | .sar _ d a b f => d.isVN && a.wfLong && b.wfLong && f.isInt && a.fits f false && b.fits f false
  | .rot _ d a b f => d.isVN && a.wfLong && b.wfLong && f.isInt && a.fits f false && b.fits f false
  | .clz _ d a f => d.isVN && a.wfLong && f.isInt && a.fits f false
  | .popc _ d a f => d.isVN && a.wfLong && f.isInt && a.fits f false
  | .cmp _ d a b f ui cond pn _ => d.isVN && a.wfLong && b.wfLong && f.isInt && (cond.toNat < 6) && ((d.isSome || pn != 0)) && a.fits f ui && b.fits f ui
  | .sel _ d a b c f => d.isVN && a.wfLong && b.wfLong && c.wfLong && f.isData && a.fits f false && b.fits f false && c.fits (f.index) false
  | .addi _ d a _ f ui => d.isVN && a.wfLong && f.isInt && a.fits f ui
  | .pand _ pd _ _ _ _ => (pd != 0)
  | .por _ pd _ _ _ _ => (pd != 0)
  | .pxor _ pd _ _ _ _ => (pd != 0)
  | .pnot _ pd _ _ => (pd != 0)
  | .pget _ _ => true
  | .pset _ a _ => a.wfLong
  | .fadd _ d a b f _ => d.isVN && a.wfLong && b.wfLong && f.isFlt5
  | .fsub _ d a b f _ => d.isVN && a.wfLong && b.wfLong && f.isFlt5
  | .fmul _ d a b f _ => d.isVN && a.wfLong && b.wfLong && f.isFlt5
  | .fma _ d a b c f => d.isVN && a.wfLong && b.wfLong && c.wfLong && f.isFlt5
  | .fmin _ d a b f => d.isVN && a.wfLong && b.wfLong && f.isFlt4
  | .fmax _ d a b f => d.isVN && a.wfLong && b.wfLong && f.isFlt4
  | .fabs _ d a f => d.isVN && a.wfLong && f.isFlt4
  | .fneg _ d a f => d.isVN && a.wfLong && f.isFlt5
  | .fcmp _ d a b f _ pn _ => d.isVN && a.wfLong && b.wfLong && f.isFlt4 && ((d.isSome || pn != 0))
  | .fdiv _ d a b f _ => d.isVN && a.wfLong && b.wfLong && f.isFlt4
  | .fsqrt _ d a f _ => d.isVN && a.wfLong && f.isFlt4
  | .fdot _ d a b c f => d.isVN && a.wfLong && b.wfLong && c.wfLong && f.isHalf
  | .rcp _ d a f => d.isVN && a.wfLong && f.isSpec
  | .rsqrt _ d a f => d.isVN && a.wfLong && f.isSpec
  | .exp2 _ d a f => d.isVN && a.wfLong && f.isSpec
  | .log2 _ d a f => d.isVN && a.wfLong && f.isSpec
  | .sin _ d a f => d.isVN && a.wfLong && f.isSpec
  | .cos _ d a f => d.isVN && a.wfLong && f.isSpec
  | .tanh _ d a f => d.isVN && a.wfLong && f.isSpec
  | .cvt _ d a f ui _ sf => d.isVN && a.wfLong && ((cvtPair f sf && (!ui || f.isInt || sf.isInt))) && a.fits sf ui
  | .pack _ d a b f ui rnd => d.isVN && a.wfLong && b.wfLong && f.isPackDst && ((if f.isInt then rnd == .inherit else !ui)) && a.fits (f.packSrc) ui && b.fits (f.packSrc) ui
  | .unpack _ d a f ui _ => d.isVN && a.wfLong && f.isUnpackSrc && ((!ui || f.isInt)) && a.fits f ui
  | .shfl _ d a b f mode seg => d.isVN && a.wfLong && b.wfLong && f.isData && (mode.toNat < 4) && (seg.toNat < 11) && ((if mode == 0 then f.subs ≤ 4 else b.isUniform)) && a.fits f false && (mode != 0 || b.fits f.index false)
  | .bcast _ d a b f seg => d.isVN && a.wfLong && b.isUniform && f.isData && (seg.toNat < 11) && a.fits f false
  | .lreduce _ d a f ui op seg rnd => d.isVN && a.wfLong && f.isRed && (op.toNat < 6) && (seg.toNat < 11) && ((if f.isInt then rnd == .inherit else op.toNat ≤ 2 && !ui)) && a.fits f ui
  | .lscan _ d a f ui op seg _ rnd => d.isVN && a.wfLong && f.isRed && (op.toNat < 6) && (seg.toNat < 11) && ((if f.isInt then rnd == .inherit else op.toNat ≤ 2 && !ui)) && a.fits f ui
  | .swiz _ d a f _ => d.isVN && a.wfLong && f.isData && a.fits f false
  | .qset _ a f _ => a.isUniform && f.isQ
  | .qadd _ d a b f _ => d.isVN && a.wfLong && b.wfLong && f.isQ && a.fits f false && b.fits f false
  | .qsub _ d a b f _ => d.isVN && a.wfLong && b.wfLong && f.isQ && a.fits f false && b.fits f false
  | .qmul _ d a b f _ => d.isVN && a.wfLong && b.wfLong && f.isQ && a.fits f false && b.fits f false
  | .qmac _ d a b c f _ => d.isVN && a.wfLong && b.wfLong && c.wfLong && f.isQ && a.fits f false && b.fits f false && c.fits f false
  | .qred _ d a f ui _ => d.isVN && a.wfLong && f.isQ && a.fits (f.qint) ui
  | .qbfly _ d a b c f _ => (d.toNat % 2 == 0) && a.wfLong && b.wfLong && c.wfLong && f.isQ && a.fits f false && b.fits f false && c.fits f false
  | .qibfly _ d a b c f _ => (d.toNat % 2 == 0) && a.wfLong && b.wfLong && c.wfLong && f.isQ && a.fits f false && b.fits f false && c.fits f false
  | .hperm _ d a b f _ => d.isVN && a.wfLong && b.wfLong && f.isHperm && a.fits f false && b.fits (f.index) false
  | .hauto _ d a b f _ seg => d.isVN && a.wfLong && b.isUniform && f.isQ && (seg.toNat < 11) && a.fits f false
  | .mma _ d _ b _ _ _ => d.isUniform && b.isUniform
  | .mmai _ d _ b _ _ _ _ => d.isUniform && b.isUniform
  | .mmag _ d _ b _ _ _ grp => d.isUniform && b.isUniform && (grp.toNat < 3)
  | .mmac _ d _ b _ _ => d.isUniform && b.isUniform
  | .accalloc _ _ _ => true
  | .acctry _ _ _ _ => true
  | .accfree _ d _ => d.isUniform
  | .acczero _ d _ => d.isUniform
  | .accld _ d a _ _ tag => d.isUniform && (a.toNat ≤ 63) && tag.isAccTag
  | .accst _ d a _ _ => d.isUniform && (a.toNat ≤ 63)
  | .mread _ _ a _ _ _ => a.isUniform
  | .lds _ d a _ f => d.isVN && a.wfNoSpecial && f.isData
  | .sts _ d a _ => d.isData && a.wfNoSpecial
  | .ldsfe _ d a _ f => d.isVN && a.wfNoSpecial && f.isData
  | .stsfe _ d a _ => d.isData && a.wfNoSpecial
  | .sfe _ a _ _ => a.wfNoSpecial
  | .tlook _ d a _ _ => d.isVN && a.wfLong
  | .tset _ a b _ => a.wfLong && b.wfLong
  | .tinv _ b _ => b.wfLong
  | .racq _ _ a _ => a.isUniform
  | .rpub _ a b => a.isUniform && b.isUniform
  | .rtake _ _ a _ => a.isUniform
  | .rrel _ a b => a.isUniform && b.isUniform
  | .barinit _ a b => a.isUniform && b.isUniform
  | .bararr _ d a b => d.isSN && a.isUniform && b.isUniform
  | .barwait _ a b => a.isUniform && b.isUniform
  | .ld _ d a _ _ f acq scope => d.isVN && a.wfNoSpecial && f.isData && (scope.toNat < 7) && ((acq || scope == 0))
  | .st _ d a _ _ rel scope => d.isData && a.wfNoSpecial && (scope.toNat < 7) && ((rel || scope == 0))
  | .atom _ d a b c _ op => d.isVN && a.wfNoSpecial && b.wfLong && c.wfLong && (op.toNat < 11) && ((op == 10 || c == .zero))
  | .redms _ a b f ui op => a.wfNoSpecial && b.wfLong && f.isRedms && (op.toNat < 3) && ((!ui || (f.isInt && op != 0))) && b.fits f ui
  | .pref _ a _ level => a.wfNoSpecial && (level.toNat < 2)
  | .fence _ _ scope classes => (scope.toNat < 7) && (classes != 0)
  | .waitf _ _ => true
  | .waitv _ d a b c scope => d.isVN && a.wfNoSpecial && b.wfLong && c.wfLong && (scope.toNat < 7)
  | .wakev _ d a b _ scope => d.isVN && a.wfNoSpecial && b.wfLong && (scope.toNat < 7)
  | .copy _ d a b _ _ _ _ cf bar => d.isUniform && (a.toNat ≤ 50) && b.isUniform && (cf.toNat < 10) && ((bar || b == .zero))
  | .copyl _ d a b c _ _ bar => d.isUniform && a.isUniform && b.isUniform && c.isUniform && ((bar || c == .zero))
  | .cmap _ a _ _ _ => (a.toNat ≤ 63)
  | .stgpost _ d a b _ => d.isSN && a.isUniform && b.isUniform
  | .stgadv _ a b _ => a.isUniform && b.isUniform
  | .npost _ d a b _ => d.isSN && a.isUniform && b.isUniform
  | .ncqw _ d a b scope _ => d.isSN && a.isUniform && b.isUniform && (scope.toNat < 7)
  | .launch _ d a b _ => d.isSN && a.isUniform && b.isUniform
  | .rngset _ a b _ _ => (a.toNat ≤ 61) && b.isUniform
  | .atinv _ a b _ mode => a.isUniform && b.isUniform && (mode.toNat < 3) && (((mode == 0 || a == .zero) && (mode != 2 || b == .zero)))
  | .pgq _ d a b _ => d.isVN && a.wfNoSpecial && b.isUniform
  | .ecreate _ _ a _ => a.isUniform
  | .eadd _ _ a _ => a.isUniform
  | .eaddDev _ _ a _ => a.isUniform
  | .einit _ _ a _ => a.isUniform
  | .eenter _ _ a b => a.isUniform && b.isUniform
  | .eexit _ => true
  | .eseal _ _ a _ => (a.toNat ≤ 60)
  | .eunseal _ _ a _ => (a.toNat ≤ 61)
  | .ereport _ _ a b _ => a.isUniform && b.isUniform
  | .edestroy _ _ a _ => a.isUniform
  | .chartldCommit .. => true
  | .runSlotFill .. => true
  | .starvationPromote .. => true
  | .waitSetLateSplit .. => true
  | .handlerTake .. => true
  | .trapRecordWrite .. => true
  | .trapResponse .. => true
  | .sliceExpiry .. => true
  | .plySave .. => true
  | .forcedFullSave .. => true
  | .skeinSave .. => true
  | .plyRestore .. => true
  | .skeinRestore .. => true
  | .memoryReply .. => true
  | .memorySideAtomic .. => true
  | .memorySideReduce .. => true
  | .waitvTimeout .. => true
  | .ncqwTimeout .. => true
  | .wfiTimeout .. => true
  | .hubCoreStart .. => true
  | .pairOpBegin .. => true
  | .pairOpRetire .. => true
  | .accallocSettle .. => true
  | .accTransferComplete .. => true
  | .pairOpTimeout .. => true
  | .pairReset .. => true
  | .pairResetComplete .. => true
  | .ringAcquireServe .. => true
  | .ringTakeServe .. => true
  | .copyEngineStart .. => true
  | .enginePageResume .. => true
  | .engineBarrierArrive .. => true
  | .copyComplete .. => true
  | .cmapComplete .. => true
  | .hubCopyDoorbell .. => true
  | .hubCopyDescriptor .. => true
  | .hubCopyComplete .. => true
  | .stgpostSettle .. => true
  | .stageBlockRequest .. => true
  | .stageBlockComplete .. => true
  | .stageLeaseRevoke .. => true
  | .stageDrainTimeout .. => true
  | .monitorSettle .. => true
  | .rngsetUpdate .. => true
  | .atinvDrop .. => true
  | .pgqReply .. => true
  | .promotion2mib .. => true
  | .promotion1gib .. => true
  | .kick .. => true
  | .qbaseWrite .. => true
  | .qcfgWrite .. => true
  | .launchStart .. => true
  | .skeinAdmit .. => true
  | .launchComplete .. => true
  | .queueLevelRise .. => true
  | .admissionReclaim .. => true
  | .admitLimitUpdate .. => true
  | .speculationStart .. => true
  | .speculationClaim .. => true
  | .gaugeOverrun .. => true
  | .gaugeHangTimeout .. => true
  | .peerLoss .. => true
  | .fabricRead .. => true
  | .fabricWrite .. => true
  | .fabricAtomic .. => true
  | .fabricArithmetic .. => true
  | .fabricProbe .. => true
  | .fabricWaitEnter .. => true
  | .fabricWake .. => true
  | .fabricReadResponse .. => true
  | .fabricWriteAck .. => true
  | .fabricAtomicResponse .. => true
  | .fabricArithmeticAck .. => true
  | .fabricProbeResponse .. => true
  | .fabricWaitResponse .. => true
  | .fabricFaultResponse .. => true
  | .ucieFlitReceive .. => true
  | .scaleupFlitReceive .. => true
  | .ueWrite .. => true
  | .ueRead .. => true
  | .ueWinset .. => true
  | .ueKeyset .. => true
  | .netPacketReceive .. => true
  | .netReadRequestReceive .. => true
  | .netSackTimer .. => true
  | .netAckReceive .. => true
  | .netNackReceive .. => true
  | .netRetransmitTimeout .. => true
  | .netRequestEnd .. => true
  | .partitionCreate .. => true
  | .partitionGrow .. => true
  | .partitionShrink .. => true
  | .partitionDestroy .. => true
  | .budgetSet .. => true
  | .trapRingRegister .. => true
  | .levelCeilingSet .. => true
  | .portMtuSet .. => true
  | .jobIdSet .. => true
  | .firmwareUpdate .. => true
  | .featuresOk .. => true
  | .notifyRequest .. => true
  | .budgetPeriod .. => true
  | .tensionReport .. => true
  | .marginTest .. => true
  | .healthConfirm .. => true
  | .firmwareWatchdog .. => true
  | .packageReset .. => true
  | .scrub .. => true
  | .pcieIngressWrite .. => true
  | .tdispTlpReceive .. => true
  | .tdispInterfaceExit .. => true
  | .getVersion .. => true
  | .getCapabilities .. => true
  | .negotiateAlgorithms .. => true
  | .getDigests .. => true
  | .getCertificate .. => true
  | .challenge .. => true
  | .getMeasurements .. => true
  | .keyExchange .. => true
  | .finish .. => true
  | .heartbeat .. => true
  | .keyUpdate .. => true
  | .endSession .. => true
  | .plyCtlWrite .. => true
  | .tvecWrite .. => true
  | .sliceCtlWrite .. => true
  | .controlRegisterWrite .. => true
  | .hubThreadSliceExpiry .. => true
  | .pcieEgress .. => true
  | .retiredUnit .. => true

end Sys2Proof
end

