-- ==== Sys2Proof/Decode.lean ====
section
/-! DEFINITION.  Decoding, total on any words and rejecting by name, and the encoder.  A rejected word raises
cause 0x01 when it is executed (R6): the step does that.  Limits that depend on the state (the window, the
level, the role) are checked where the instruction issues. -/

namespace Sys2Proof

/-- Why a word is no instruction.  Every reason is cause 0x01 (R6, R21, R22, R23, R25). -/
inductive Reject where
  | opcode     -- an opcode that R59 and R60 do not list
  | field      -- a field value that the entry does not list
  | operand    -- an operand code that is not legal there
  | constant   -- an inline constant that does not fit its format
  | truncated  -- fewer bytes than the instruction has
  deriving DecidableEq, Repr

def need (b : Bool) (r : Reject) : Except Reject Unit := if b then .ok () else .error r

/-- A tag from its four bits (R106). -/
def Fmt.ofCode (c : BitVec 4) : Fmt :=
  match c.toNat with
  | 0 => .raw | 1 => .i64 | 2 => .i32 | 3 => .i16 | 4 => .i8 | 5 => .i4 | 6 => .f64 | 7 => .f32
  | 8 => .f16 | 9 => .bf16 | 10 => .cf32 | 11 => .q64 | 12 => .q32 | 13 => .gq8 | 14 => .gq4 | _ => .poison

/-- The four bits of a tag (R106). -/
def Fmt.code : Fmt → BitVec 4
  | .raw => 0 | .i64 => 1 | .i32 => 2 | .i16 => 3 | .i8 => 4 | .i4 => 5 | .f64 => 6 | .f32 => 7
  | .f16 => 8 | .bf16 => 9 | .cf32 => 10 | .q64 => 11 | .q32 => 12 | .gq8 => 13 | .gq4 => 14 | .poison => 15

/-- A rounding field (R25, R146). -/
def decRnd (c : BitVec 3) : Except Reject Rnd :=
  match c.toNat with
  | 0 => .ok .inherit | 1 => .ok .rne | 2 => .ok .rz | 3 => .ok .ru | 4 => .ok .rd | 5 => .ok .rna
  | _ => .error .field

def Rnd.code : Rnd → BitVec 3
  | .inherit => 0 | .rne => 1 | .rz => 2 | .ru => 3 | .rd => 4 | .rna => 5

/-- The 9-bit code of an s register (R22). -/
def codeS (n : BitVec 6) : BitVec 9 := 0b100#3 ++ n

/-- The source codes of a long instruction (R22, R24). -/
def decSrc (c : BitVec 9) : Except Reject Src :=
  if c.toNat < 256 then .ok (.v (c.setWidth 8))
  else if c.toNat < 320 then .ok (.s (c.setWidth 6))
  else if c.toNat < 327 then .ok (.tmp (c.setWidth 3 + 1))
  else if c.toNat = 327 then .ok .zero
  else if c.toNat < 340 then .ok (.special ((c - 328).setWidth 4))
  else if c.toNat < 384 then .error .operand
  else .ok (.imm (c.setWidth 7 ^^^ 64))

/-- The 9-bit code of a source (R22). -/
def Src.code : Src → BitVec 9
  | .v n => n.setWidth 9
  | .s n => codeS n
  | .tmp n => 319 + n.setWidth 9
  | .zero => 327
  | .special k => 328 + k.setWidth 9
  | .imm k => 0b11#2 ++ (k ^^^ 64)

/-- The 9-bit code of a destination (R22). -/
def Dst.code : Dst → BitVec 9
  | .v n => n.setWidth 9
  | .s n => codeS n
  | .none => 327

/-- The 7-bit source codes of a base word (R17). -/
def decSrcBase (c : BitVec 7) : Src :=
  if c.toNat < 112 then .v (c.setWidth 8)
  else if c.toNat < 119 then .tmp (c.setWidth 3 + 1)
  else if c.toNat = 119 then .zero
  else .s (c.setWidth 3 |>.setWidth 6)

/-- The 7-bit code of a source in a base word (R17); a source that has none takes the zero code. -/
def Src.codeBase : Src → BitVec 7
  | .v n => n.setWidth 7
  | .s n => 0b1111#4 ++ n.setWidth 3
  | .tmp n => 111 + n.setWidth 7
  | _ => 119

/-- A destination that is a register or code 327 (R22). -/
def decDst (c : BitVec 9) : Except Reject Dst :=
  if c.toNat < 256 then .ok (.v (c.setWidth 8))
  else if c.toNat < 320 then .ok (.s (c.setWidth 6))
  else if c.toNat = 327 then .ok .none
  else .error .operand

def decVN (c : BitVec 9) : Except Reject Dst := do
  let d ← decDst c
  need d.isVN .operand
  return d

def decSN (c : BitVec 9) : Except Reject Dst := do
  let d ← decDst c
  need d.isSN .operand
  return d

def decVS (c : BitVec 9) : Except Reject Dst := do
  let d ← decDst c
  need d.isSome .operand
  return d

def decV (c : BitVec 9) : Except Reject (BitVec 8) :=
  if c.toNat < 256 then .ok (c.setWidth 8) else .error .operand

def decS (c : BitVec 9) : Except Reject (BitVec 6) :=
  if 256 ≤ c.toNat ∧ c.toNat < 320 then .ok (c.setWidth 6) else .error .operand

def decSMax (k : Nat) (c : BitVec 9) : Except Reject (BitVec 6) := do
  let n ← decS c
  need (n.toNat ≤ k) .operand
  return n

def decSEven (c : BitVec 9) : Except Reject (BitVec 6) := do
  let n ← decS c
  need (n.toNat % 2 == 0) .operand
  return n

def decVEven (c : BitVec 9) : Except Reject (BitVec 8) := do
  let n ← decV c
  need (n.toNat % 2 == 0) .operand
  return n

def decSrcNS (c : BitVec 9) : Except Reject Src := do
  let s ← decSrc c
  need s.wfNoSpecial .operand
  return s

def decUni (c : BitVec 9) : Except Reject Src := do
  let s ← decSrc c
  need s.isUniform .operand
  return s

def decData (c : BitVec 9) : Except Reject Src := do
  let s ← decSrc c
  need s.isData .operand
  return s

/-- The four layouts of a long instruction (R20). -/
inductive Layout where
  | l3 | lm | li | lw
  deriving DecidableEq, Repr

/-- The fields of a long instruction, layout apart; a field the layout lacks is zero. -/
structure Raw where
  d : BitVec 9
  a : BitVec 9
  b : BitVec 9
  c : BitVec 9
  i : BitVec 14
  m : BitVec 16
  deriving DecidableEq, Repr

def Raw.none : Raw := { d := 0, a := 0, b := 0, c := 0, i := 0, m := 0 }

/-- Where the layouts place W2 and W1.X (R20).  LW is decoded from its words directly. -/
def Raw.unpack (l : Layout) (w1 w2 : BitVec 32) : Raw :=
  let d := w2.extractLsb' 23 9
  let a := w2.extractLsb' 14 9
  let b := w2.extractLsb' 5 9
  let x := w1.extractLsb' 0 11
  match l with
  | .l3 => { d, a, b, c := x.extractLsb' 2 9, i := 0,
             m := (x.extractLsb' 0 2 ++ w2.extractLsb' 0 5).setWidth 16 }
  | .lm => { d, a, b, c := 0, i := 0, m := x ++ w2.extractLsb' 0 5 }
  | .li => { d, a, b := 0, c := 0, i := w2.extractLsb' 0 14, m := x.setWidth 16 }
  | .lw => { d := x.extractLsb' 2 9, a := 0, b := 0, c := 0, i := 0, m := (x.extractLsb' 0 2).setWidth 16 }

/-- The head of a long instruction (R13, R19). -/
def headOf (w1 : BitVec 32) : Head :=
  { ch := w1.getLsbD 29, st := w1.extractLsb' 11 2 ++ w1.extractLsb' 27 2, g := w1.extractLsb' 13 5 }

/-- R53: long opcode 0x001, layout LI. -/
def Dec.chartld (h : Head) (r : Raw) : Except Reject Instr := do
  need (r.d == 327) .field
  let a ← decSMax 63 r.a
  let off := r.i
  let slot := r.m.extractLsb' 0 3
  let blk := r.m.extractLsb' 3 4
  need (blk.toNat < 9) .field
  need (r.m &&& 0xff80 == 0) .field
  return .chartld h a off slot blk

/-- R57: long opcode 0x002, layout LI. -/
def Dec.chartrd (h : Head) (r : Raw) : Except Reject Instr := do
  let d ← decSEven r.d
  let a ← decSrc r.a
  need a.isPlyUniform .operand
  let off := r.i
  need (r.m &&& 0xffff == 0) .field
  return .chartrd h d a off

/-- R89: long opcode 0x010, layout LI. -/
def Dec.fork (h : Head) (r : Raw) : Except Reject Instr := do
  let d ← decSN r.d
  let a ← decUni r.a
  let off := r.i
  need (r.m &&& 0xffff == 0) .field
  return .fork h d a off

/-- R94: long opcode 0x011, layout LM. -/
def Dec.elect (h : Head) (r : Raw) : Except Reject Instr := do
  let d ← decSN r.d
  need (r.a == 327) .field
  need (r.b == 327) .field
  let pn := r.m.extractLsb' 0 4
  need (pn != 0) .field
  need (r.m &&& 0xfff0 == 0) .field
  return .elect h d pn

/-- R95: long opcode 0x012, layout LM. -/
def Dec.vote (h : Head) (r : Raw) : Except Reject Instr := do
  let d ← decSN r.d
  need (r.a == 327) .field
  need (r.b == 327) .field
  let pk := r.m.extractLsb' 0 4
  let mode := r.m.extractLsb' 4 2
  let pn := r.m.extractLsb' 6 4
  need (r.m &&& 0xfc00 == 0) .field
  need ((mode != 2 || pn == 0) && (d.isSome || pn != 0)) .field
  return .vote h d pk mode pn

/-- R96: long opcode 0x013, layout LI. -/
def Dec.phase (h : Head) (r : Raw) : Except Reject Instr := do
  need (r.d == 327) .field
  need (r.a == 327) .field
  let n := r.i
  need (n.toNat < 256) .field
  need (r.m &&& 0xffff == 0) .field
  return .phase h n

/-- R97: long opcode 0x014, layout LI. -/
def Dec.sysc (h : Head) (r : Raw) : Except Reject Instr := do
  need (r.d == 327) .field
  need (r.a == 327) .field
  let n := r.i
  need (n.toNat < 8192) .field
  need (r.m &&& 0xffff == 0) .field
  return .sysc h n

/-- R365: long opcode 0x018, layout LI. -/
def Dec.trap (h : Head) (r : Raw) : Except Reject Instr := do
  need (r.d == 327) .field
  need (r.a == 327) .field
  let n := r.i
  need (n.toNat < 8192) .field
  need (r.m &&& 0xffff == 0) .field
  return .trap h n

/-- R364: long opcode 0x019, layout LM. -/
def Dec.eret (h : Head) (r : Raw) : Except Reject Instr := do
  need (r.d == 327) .field
  let a ← decUni r.a
  need (r.b == 327) .field
  let mode := r.m.extractLsb' 0 2
  need (r.m &&& 0xfffc == 0) .field
  need ((mode == 2 || a == .zero)) .field
  return .eret h a mode

/-- R365: long opcode 0x01A, layout LI. -/
def Dec.csrr (h : Head) (r : Raw) : Except Reject Instr := do
  let d ← decVS r.d
  need (r.a == 327) .field
  let csr := r.i
  need (csr.toNat < 13) .field
  need (r.m &&& 0xffff == 0) .field
  return .csrr h d csr

/-- R365: long opcode 0x01B, layout LI. -/
def Dec.csrw (h : Head) (r : Raw) : Except Reject Instr := do
  need (r.d == 327) .field
  let a ← decUni r.a
  let csr := r.i
  need (csr.toNat < 13) .field
  need (r.m &&& 0xffff == 0) .field
  return .csrw h a csr

/-- R365: long opcode 0x01C, layout LI. -/
def Dec.csrx (h : Head) (r : Raw) : Except Reject Instr := do
  let d ← decDst r.d
  let a ← decUni r.a
  let csr := r.i
  need (csr.toNat < 13) .field
  let op := r.m.extractLsb' 0 2
  need (op.toNat < 3) .field
  need (r.m &&& 0xfffc == 0) .field
  return .csrx h d a csr op

/-- R366: long opcode 0x01D, layout LM. -/
def Dec.halt (h : Head) (r : Raw) : Except Reject Instr := do
  need (r.d == 327) .field
  need (r.a == 327) .field
  need (r.b == 327) .field
  need (r.m &&& 0xffff == 0) .field
  return .halt h

/-- R366: long opcode 0x01E, layout LM. -/
def Dec.wfi (h : Head) (r : Raw) : Except Reject Instr := do
  need (r.d == 327) .field
  let a ← decUni r.a
  need (r.b == 327) .field
  need (r.m &&& 0xffff == 0) .field
  return .wfi h a

/-- R123: long opcode 0x020, layout LM. -/
def Dec.mov (h : Head) (r : Raw) : Except Reject Instr := do
  let d ← decVN r.d
  let a ← decSrc r.a
  need (r.b == 327) .field
  need (r.m &&& 0xffff == 0) .field
  return .mov h d a

/-- R124: long opcode 0x022, layout LM. -/
def Dec.movs (h : Head) (r : Raw) : Except Reject Instr := do
  let d ← decS r.d
  let a ← decSrc r.a
  need (r.b == 327) .field
  need (r.m &&& 0xffff == 0) .field
  return .movs h d a

/-- R126: long opcode 0x023, layout LM. -/
def Dec.tagset (h : Head) (r : Raw) : Except Reject Instr := do
  let d ← decDst r.d
  let a ← decSrc r.a
  need (r.b == 327) .field
  let tag := Fmt.ofCode (r.m.extractLsb' 0 4)
  need (r.m &&& 0xfff0 == 0) .field
  return .tagset h d a tag

/-- R127: long opcode 0x023, layout LM. -/
def Dec.tagsetFl (h : Head) (r : Raw) : Except Reject Instr := do
  need (r.d == 327) .field
  let a ← decSrc r.a
  need (r.b == 327) .field
  need (r.m &&& 0xffdf == 0) .field
  return .tagsetFl h a

/-- R128: long opcode 0x024, layout LM. -/
def Dec.tagget (h : Head) (r : Raw) : Except Reject Instr := do
  let d ← decDst r.d
  let a ← decSrc r.a
  need (r.b == 327) .field
  need (r.m &&& 0xffff == 0) .field
  return .tagget h d a

/-- R128: long opcode 0x024, layout LM. -/
def Dec.taggetFl (h : Head) (r : Raw) : Except Reject Instr := do
  let d ← decDst r.d
  need (r.a == 327) .field
  need (r.b == 327) .field
  need (r.m &&& 0xffdf == 0) .field
  return .taggetFl h d

/-- R135: long opcode 0x040, layout LM. -/
def Dec.add (h : Head) (r : Raw) : Except Reject Instr := do
  let d ← decVN r.d
  let a ← decSrc r.a
  let b ← decSrc r.b
  let f := Fmt.ofCode (r.m.extractLsb' 0 4)
  need f.isInt .field
  let ui := r.m.getLsbD 4
  need (r.m &&& 0xffe0 == 0) .field
  need (a.fits f ui && b.fits f ui) .constant
  return .add h d a b f ui

/-- R135: long opcode 0x041, layout LM. -/
def Dec.sub (h : Head) (r : Raw) : Except Reject Instr := do
  let d ← decVN r.d
  let a ← decSrc r.a
  let b ← decSrc r.b
  let f := Fmt.ofCode (r.m.extractLsb' 0 4)
  need f.isInt .field
  let ui := r.m.getLsbD 4
  need (r.m &&& 0xffe0 == 0) .field
  need (a.fits f ui && b.fits f ui) .constant
  return .sub h d a b f ui

/-- R135: long opcode 0x042, layout LM. -/
def Dec.mul (h : Head) (r : Raw) : Except Reject Instr := do
  let d ← decVN r.d
  let a ← decSrc r.a
  let b ← decSrc r.b
  let f := Fmt.ofCode (r.m.extractLsb' 0 4)
  need f.isInt .field
  let ui := r.m.getLsbD 4
  need (r.m &&& 0xffe0 == 0) .field
  need (a.fits f ui && b.fits f ui) .constant
  return .mul h d a b f ui

/-- R135: long opcode 0x043, layout LM. -/
def Dec.mulhi (h : Head) (r : Raw) : Except Reject Instr := do
  let d ← decVN r.d
  let a ← decSrc r.a
  let b ← decSrc r.b
  let f := Fmt.ofCode (r.m.extractLsb' 0 4)
  need f.isInt .field
  let ui := r.m.getLsbD 4
  need (r.m &&& 0xffe0 == 0) .field
  need (a.fits f ui && b.fits f ui) .constant
  return .mulhi h d a b f ui

/-- R135: long opcode 0x044, layout L3. -/
def Dec.mad (h : Head) (r : Raw) : Except Reject Instr := do
  let d ← decVN r.d
  let a ← decSrc r.a
  let b ← decSrc r.b
  let c ← decSrc r.c
  let f := Fmt.ofCode (r.m.extractLsb' 0 4)
  need f.isInt .field
  let ui := r.m.getLsbD 4
  need (r.m &&& 0xffe0 == 0) .field
  need (a.fits f ui && b.fits f ui && c.fits f ui) .constant
  return .mad h d a b c f ui

/-- R137: long opcode 0x045, layout LM. -/
def Dec.div (h : Head) (r : Raw) : Except Reject Instr := do
  let d ← decVN r.d
  let a ← decSrc r.a
  let b ← decSrc r.b
  let f := Fmt.ofCode (r.m.extractLsb' 0 4)
  need f.isInt .field
  let ui := r.m.getLsbD 4
  need (r.m &&& 0xffe0 == 0) .field
  need (a.fits f ui && b.fits f ui) .constant
  return .div h d a b f ui

/-- R137: long opcode 0x046, layout LM. -/
def Dec.rem (h : Head) (r : Raw) : Except Reject Instr := do
  let d ← decVN r.d
  let a ← decSrc r.a
  let b ← decSrc r.b
  let f := Fmt.ofCode (r.m.extractLsb' 0 4)
  need f.isInt .field
  let ui := r.m.getLsbD 4
  need (r.m &&& 0xffe0 == 0) .field
  need (a.fits f ui && b.fits f ui) .constant
  return .rem h d a b f ui

/-- R135: long opcode 0x047, layout LM. -/
def Dec.min (h : Head) (r : Raw) : Except Reject Instr := do
  let d ← decVN r.d
  let a ← decSrc r.a
  let b ← decSrc r.b
  let f := Fmt.ofCode (r.m.extractLsb' 0 4)
  need f.isInt .field
  let ui := r.m.getLsbD 4
  need (r.m &&& 0xffe0 == 0) .field
  need (a.fits f ui && b.fits f ui) .constant
  return .min h d a b f ui

/-- R135: long opcode 0x048, layout LM. -/
def Dec.max (h : Head) (r : Raw) : Except Reject Instr := do
  let d ← decVN r.d
  let a ← decSrc r.a
  let b ← decSrc r.b
  let f := Fmt.ofCode (r.m.extractLsb' 0 4)
  need f.isInt .field
  let ui := r.m.getLsbD 4
  need (r.m &&& 0xffe0 == 0) .field
  need (a.fits f ui && b.fits f ui) .constant
  return .max h d a b f ui

/-- R135: long opcode 0x049, layout LM. -/
def Dec.abs (h : Head) (r : Raw) : Except Reject Instr := do
  let d ← decVN r.d
  let a ← decSrc r.a
  need (r.b == 327) .field
  let f := Fmt.ofCode (r.m.extractLsb' 0 4)
  need f.isInt .field
  need (r.m &&& 0xfff0 == 0) .field
  need (a.fits f false) .constant
  return .abs h d a f

/-- R135: long opcode 0x04A, layout LM. -/
def Dec.neg (h : Head) (r : Raw) : Except Reject Instr := do
  let d ← decVN r.d
  let a ← decSrc r.a
  need (r.b == 327) .field
  let f := Fmt.ofCode (r.m.extractLsb' 0 4)
  need f.isInt .field
  need (r.m &&& 0xfff0 == 0) .field
  need (a.fits f false) .constant
  return .neg h d a f

/-- R139: long opcode 0x04B, layout LM. -/
def Dec.and (h : Head) (r : Raw) : Except Reject Instr := do
  let d ← decVN r.d
  let a ← decSrc r.a
  let b ← decSrc r.b
  let f := Fmt.ofCode (r.m.extractLsb' 0 4)
  need f.isData .field
  need (r.m &&& 0xfff0 == 0) .field
  need (a.fits (f.bits) false && b.fits (f.bits) false) .constant
  return .and h d a b f

/-- R139: long opcode 0x04C, layout LM. -/
def Dec.or (h : Head) (r : Raw) : Except Reject Instr := do
  let d ← decVN r.d
  let a ← decSrc r.a
  let b ← decSrc r.b
  let f := Fmt.ofCode (r.m.extractLsb' 0 4)
  need f.isData .field
  need (r.m &&& 0xfff0 == 0) .field
  need (a.fits (f.bits) false && b.fits (f.bits) false) .constant
  return .or h d a b f

/-- R139: long opcode 0x04D, layout LM. -/
def Dec.xor (h : Head) (r : Raw) : Except Reject Instr := do
  let d ← decVN r.d
  let a ← decSrc r.a
  let b ← decSrc r.b
  let f := Fmt.ofCode (r.m.extractLsb' 0 4)
  need f.isData .field
  need (r.m &&& 0xfff0 == 0) .field
  need (a.fits (f.bits) false && b.fits (f.bits) false) .constant
  return .xor h d a b f

/-- R139: long opcode 0x04E, layout LM. -/
def Dec.andn (h : Head) (r : Raw) : Except Reject Instr := do
  let d ← decVN r.d
  let a ← decSrc r.a
  let b ← decSrc r.b
  let f := Fmt.ofCode (r.m.extractLsb' 0 4)
  need f.isData .field
  need (r.m &&& 0xfff0 == 0) .field
  need (a.fits (f.bits) false && b.fits (f.bits) false) .constant
  return .andn h d a b f

/-- R139: long opcode 0x04F, layout LM. -/
def Dec.not (h : Head) (r : Raw) : Except Reject Instr := do
  let d ← decVN r.d
  let a ← decSrc r.a
  need (r.b == 327) .field
  let f := Fmt.ofCode (r.m.extractLsb' 0 4)
  need f.isData .field
  need (r.m &&& 0xfff0 == 0) .field
  need (a.fits (f.bits) false) .constant
  return .not h d a f

/-- R140: long opcode 0x050, layout LM. -/
def Dec.shl (h : Head) (r : Raw) : Except Reject Instr := do
  let d ← decVN r.d
  let a ← decSrc r.a
  let b ← decSrc r.b
  let f := Fmt.ofCode (r.m.extractLsb' 0 4)
  need f.isInt .field
  need (r.m &&& 0xfff0 == 0) .field
  need (a.fits f false && b.fits f false) .constant
  return .shl h d a b f

/-- R140: long opcode 0x051, layout LM.  A is read .ui (R23).  An inline constant in the count B of any of the four shifts is judged
as a signed one: R140 reads it unsigned and does not call it a .ui operand of R23 (DESIGN CHOICE, log 63). -/
def Dec.shr (h : Head) (r : Raw) : Except Reject Instr := do
  let d ← decVN r.d
  let a ← decSrc r.a
  let b ← decSrc r.b
  let f := Fmt.ofCode (r.m.extractLsb' 0 4)
  need f.isInt .field
  need (r.m &&& 0xfff0 == 0) .field
  need (a.fits f true && b.fits f false) .constant
  return .shr h d a b f

/-- R140: long opcode 0x052, layout LM. -/
def Dec.sar (h : Head) (r : Raw) : Except Reject Instr := do
  let d ← decVN r.d
  let a ← decSrc r.a
  let b ← decSrc r.b
  let f := Fmt.ofCode (r.m.extractLsb' 0 4)
  need f.isInt .field
  need (r.m &&& 0xfff0 == 0) .field
  need (a.fits f false && b.fits f false) .constant
  return .sar h d a b f

/-- R140: long opcode 0x053, layout LM. -/
def Dec.rot (h : Head) (r : Raw) : Except Reject Instr := do
  let d ← decVN r.d
  let a ← decSrc r.a
  let b ← decSrc r.b
  let f := Fmt.ofCode (r.m.extractLsb' 0 4)
  need f.isInt .field
  need (r.m &&& 0xfff0 == 0) .field
  need (a.fits f false && b.fits f false) .constant
  return .rot h d a b f

/-- R141: long opcode 0x054, layout LM. -/
def Dec.clz (h : Head) (r : Raw) : Except Reject Instr := do
  let d ← decVN r.d
  let a ← decSrc r.a
  need (r.b == 327) .field
  let f := Fmt.ofCode (r.m.extractLsb' 0 4)
  need f.isInt .field
  need (r.m &&& 0xfff0 == 0) .field
  need (a.fits f false) .constant
  return .clz h d a f

/-- R141: long opcode 0x055, layout LM. -/
def Dec.popc (h : Head) (r : Raw) : Except Reject Instr := do
  let d ← decVN r.d
  let a ← decSrc r.a
  need (r.b == 327) .field
  let f := Fmt.ofCode (r.m.extractLsb' 0 4)
  need f.isInt .field
  need (r.m &&& 0xfff0 == 0) .field
  need (a.fits f false) .constant
  return .popc h d a f

/-- R142: long opcode 0x056, layout LM. -/
def Dec.cmp (h : Head) (r : Raw) : Except Reject Instr := do
  let d ← decVN r.d
  let a ← decSrc r.a
  let b ← decSrc r.b
  let f := Fmt.ofCode (r.m.extractLsb' 0 4)
  need f.isInt .field
  let ui := r.m.getLsbD 4
  let cond := r.m.extractLsb' 5 3
  need (cond.toNat < 6) .field
  let pn := r.m.extractLsb' 8 4
  let any := r.m.getLsbD 12
  need (r.m &&& 0xe000 == 0) .field
  need ((d.isSome || pn != 0)) .field
  need (a.fits f ui && b.fits f ui) .constant
  return .cmp h d a b f ui cond pn any

/-- R143: long opcode 0x057, layout L3. -/
def Dec.sel (h : Head) (r : Raw) : Except Reject Instr := do
  let d ← decVN r.d
  let a ← decSrc r.a
  let b ← decSrc r.b
  let c ← decSrc r.c
  let f := Fmt.ofCode (r.m.extractLsb' 0 4)
  need f.isData .field
  need (r.m &&& 0xfff0 == 0) .field
  need (a.fits f false && b.fits f false && c.fits (f.index) false) .constant
  return .sel h d a b c f

/-- R135: long opcode 0x058, layout LI. -/
def Dec.addi (h : Head) (r : Raw) : Except Reject Instr := do
  let d ← decVN r.d
  let a ← decSrc r.a
  let imm := r.i
  let f := Fmt.ofCode (r.m.extractLsb' 0 4)
  need f.isInt .field
  let ui := r.m.getLsbD 4
  need (r.m &&& 0xffe0 == 0) .field
  need (a.fits f ui) .constant
  return .addi h d a imm f ui

/-- R144: long opcode 0x060, layout LM. -/
def Dec.pand (h : Head) (r : Raw) : Except Reject Instr := do
  need (r.d == 327) .field
  need (r.a == 327) .field
  need (r.b == 327) .field
  let pd := r.m.extractLsb' 0 4
  need (pd != 0) .field
  let pa := r.m.extractLsb' 4 4
  let pb := r.m.extractLsb' 8 4
  let na := r.m.getLsbD 12
  let nb := r.m.getLsbD 13
  need (r.m &&& 0xc000 == 0) .field
  return .pand h pd pa pb na nb

/-- R144: long opcode 0x061, layout LM. -/
def Dec.por (h : Head) (r : Raw) : Except Reject Instr := do
  need (r.d == 327) .field
  need (r.a == 327) .field
  need (r.b == 327) .field
  let pd := r.m.extractLsb' 0 4
  need (pd != 0) .field
  let pa := r.m.extractLsb' 4 4
  let pb := r.m.extractLsb' 8 4
  let na := r.m.getLsbD 12
  let nb := r.m.getLsbD 13
  need (r.m &&& 0xc000 == 0) .field
  return .por h pd pa pb na nb

/-- R144: long opcode 0x062, layout LM. -/
def Dec.pxor (h : Head) (r : Raw) : Except Reject Instr := do
  need (r.d == 327) .field
  need (r.a == 327) .field
  need (r.b == 327) .field
  let pd := r.m.extractLsb' 0 4
  need (pd != 0) .field
  let pa := r.m.extractLsb' 4 4
  let pb := r.m.extractLsb' 8 4
  let na := r.m.getLsbD 12
  let nb := r.m.getLsbD 13
  need (r.m &&& 0xc000 == 0) .field
  return .pxor h pd pa pb na nb

/-- R144: long opcode 0x063, layout LM. -/
def Dec.pnot (h : Head) (r : Raw) : Except Reject Instr := do
  need (r.d == 327) .field
  need (r.a == 327) .field
  need (r.b == 327) .field
  let pd := r.m.extractLsb' 0 4
  need (pd != 0) .field
  let pa := r.m.extractLsb' 4 4
  let na := r.m.getLsbD 12
  need (r.m &&& 0xef00 == 0) .field
  return .pnot h pd pa na

/-- R145: long opcode 0x064, layout LM. -/
def Dec.pget (h : Head) (r : Raw) : Except Reject Instr := do
  let d ← decV r.d
  need (r.a == 327) .field
  need (r.b == 327) .field
  need (r.m &&& 0xffff == 0) .field
  return .pget h d

/-- R145: long opcode 0x065, layout LM. -/
def Dec.pset (h : Head) (r : Raw) : Except Reject Instr := do
  need (r.d == 327) .field
  let a ← decSrc r.a
  need (r.b == 327) .field
  let mask := r.m.extractLsb' 1 15
  need (r.m &&& 0x1 == 0) .field
  return .pset h a mask

/-- R146: long opcode 0x080, layout LM. -/
def Dec.fadd (h : Head) (r : Raw) : Except Reject Instr := do
  let d ← decVN r.d
  let a ← decSrc r.a
  let b ← decSrc r.b
  let f := Fmt.ofCode (r.m.extractLsb' 0 4)
  need f.isFlt5 .field
  let rnd ← decRnd (r.m.extractLsb' 5 3)
  need (r.m &&& 0xff10 == 0) .field
  return .fadd h d a b f rnd

/-- R146: long opcode 0x081, layout LM. -/
def Dec.fsub (h : Head) (r : Raw) : Except Reject Instr := do
  let d ← decVN r.d
  let a ← decSrc r.a
  let b ← decSrc r.b
  let f := Fmt.ofCode (r.m.extractLsb' 0 4)
  need f.isFlt5 .field
  let rnd ← decRnd (r.m.extractLsb' 5 3)
  need (r.m &&& 0xff10 == 0) .field
  return .fsub h d a b f rnd

/-- R146: long opcode 0x082, layout LM. -/
def Dec.fmul (h : Head) (r : Raw) : Except Reject Instr := do
  let d ← decVN r.d
  let a ← decSrc r.a
  let b ← decSrc r.b
  let f := Fmt.ofCode (r.m.extractLsb' 0 4)
  need f.isFlt5 .field
  let rnd ← decRnd (r.m.extractLsb' 5 3)
  need (r.m &&& 0xff10 == 0) .field
  return .fmul h d a b f rnd

/-- R146: long opcode 0x083, layout L3. -/
def Dec.fma (h : Head) (r : Raw) : Except Reject Instr := do
  let d ← decVN r.d
  let a ← decSrc r.a
  let b ← decSrc r.b
  let c ← decSrc r.c
  let f := Fmt.ofCode (r.m.extractLsb' 0 4)
  need f.isFlt5 .field
  need (r.m &&& 0xfff0 == 0) .field
  return .fma h d a b c f

/-- R146: long opcode 0x084, layout LM. -/
def Dec.fmin (h : Head) (r : Raw) : Except Reject Instr := do
  let d ← decVN r.d
  let a ← decSrc r.a
  let b ← decSrc r.b
  let f := Fmt.ofCode (r.m.extractLsb' 0 4)
  need f.isFlt4 .field
  need (r.m &&& 0xfff0 == 0) .field
  return .fmin h d a b f

/-- R146: long opcode 0x085, layout LM. -/
def Dec.fmax (h : Head) (r : Raw) : Except Reject Instr := do
  let d ← decVN r.d
  let a ← decSrc r.a
  let b ← decSrc r.b
  let f := Fmt.ofCode (r.m.extractLsb' 0 4)
  need f.isFlt4 .field
  need (r.m &&& 0xfff0 == 0) .field
  return .fmax h d a b f

/-- R146: long opcode 0x086, layout LM. -/
def Dec.fabs (h : Head) (r : Raw) : Except Reject Instr := do
  let d ← decVN r.d
  let a ← decSrc r.a
  need (r.b == 327) .field
  let f := Fmt.ofCode (r.m.extractLsb' 0 4)
  need f.isFlt4 .field
  need (r.m &&& 0xfff0 == 0) .field
  return .fabs h d a f

/-- R146: long opcode 0x087, layout LM. -/
def Dec.fneg (h : Head) (r : Raw) : Except Reject Instr := do
  let d ← decVN r.d
  let a ← decSrc r.a
  need (r.b == 327) .field
  let f := Fmt.ofCode (r.m.extractLsb' 0 4)
  need f.isFlt5 .field
  need (r.m &&& 0xfff0 == 0) .field
  return .fneg h d a f

/-- R151: long opcode 0x088, layout LM. -/
def Dec.fcmp (h : Head) (r : Raw) : Except Reject Instr := do
  let d ← decVN r.d
  let a ← decSrc r.a
  let b ← decSrc r.b
  let f := Fmt.ofCode (r.m.extractLsb' 0 4)
  need f.isFlt4 .field
  let cond := r.m.extractLsb' 5 3
  let pn := r.m.extractLsb' 8 4
  let any := r.m.getLsbD 12
  need (r.m &&& 0xe010 == 0) .field
  need ((d.isSome || pn != 0)) .field
  return .fcmp h d a b f cond pn any

/-- R146: long opcode 0x089, layout LM. -/
def Dec.fdiv (h : Head) (r : Raw) : Except Reject Instr := do
  let d ← decVN r.d
  let a ← decSrc r.a
  let b ← decSrc r.b
  let f := Fmt.ofCode (r.m.extractLsb' 0 4)
  need f.isFlt4 .field
  let rnd ← decRnd (r.m.extractLsb' 5 3)
  need (r.m &&& 0xff10 == 0) .field
  return .fdiv h d a b f rnd

/-- R146: long opcode 0x08A, layout LM. -/
def Dec.fsqrt (h : Head) (r : Raw) : Except Reject Instr := do
  let d ← decVN r.d
  let a ← decSrc r.a
  need (r.b == 327) .field
  let f := Fmt.ofCode (r.m.extractLsb' 0 4)
  need f.isFlt4 .field
  let rnd ← decRnd (r.m.extractLsb' 5 3)
  need (r.m &&& 0xff10 == 0) .field
  return .fsqrt h d a f rnd

/-- R152: long opcode 0x08B, layout L3. -/
def Dec.fdot (h : Head) (r : Raw) : Except Reject Instr := do
  let d ← decVN r.d
  let a ← decSrc r.a
  let b ← decSrc r.b
  let c ← decSrc r.c
  let f := Fmt.ofCode (r.m.extractLsb' 0 4)
  need f.isHalf .field
  need (r.m &&& 0xfff0 == 0) .field
  return .fdot h d a b c f

/-- R153: long opcode 0x090, layout LM. -/
def Dec.rcp (h : Head) (r : Raw) : Except Reject Instr := do
  let d ← decVN r.d
  let a ← decSrc r.a
  need (r.b == 327) .field
  let f := Fmt.ofCode (r.m.extractLsb' 0 4)
  need f.isSpec .field
  need (r.m &&& 0xfff0 == 0) .field
  return .rcp h d a f

/-- R153: long opcode 0x091, layout LM. -/
def Dec.rsqrt (h : Head) (r : Raw) : Except Reject Instr := do
  let d ← decVN r.d
  let a ← decSrc r.a
  need (r.b == 327) .field
  let f := Fmt.ofCode (r.m.extractLsb' 0 4)
  need f.isSpec .field
  need (r.m &&& 0xfff0 == 0) .field
  return .rsqrt h d a f

/-- R153: long opcode 0x092, layout LM. -/
def Dec.exp2 (h : Head) (r : Raw) : Except Reject Instr := do
  let d ← decVN r.d
  let a ← decSrc r.a
  need (r.b == 327) .field
  let f := Fmt.ofCode (r.m.extractLsb' 0 4)
  need f.isSpec .field
  need (r.m &&& 0xfff0 == 0) .field
  return .exp2 h d a f

/-- R153: long opcode 0x093, layout LM. -/
def Dec.log2 (h : Head) (r : Raw) : Except Reject Instr := do
  let d ← decVN r.d
  let a ← decSrc r.a
  need (r.b == 327) .field
  let f := Fmt.ofCode (r.m.extractLsb' 0 4)
  need f.isSpec .field
  need (r.m &&& 0xfff0 == 0) .field
  return .log2 h d a f

/-- R153: long opcode 0x094, layout LM. -/
def Dec.sin (h : Head) (r : Raw) : Except Reject Instr := do
  let d ← decVN r.d
  let a ← decSrc r.a
  need (r.b == 327) .field
  let f := Fmt.ofCode (r.m.extractLsb' 0 4)
  need f.isSpec .field
  need (r.m &&& 0xfff0 == 0) .field
  return .sin h d a f

/-- R153: long opcode 0x095, layout LM. -/
def Dec.cos (h : Head) (r : Raw) : Except Reject Instr := do
  let d ← decVN r.d
  let a ← decSrc r.a
  need (r.b == 327) .field
  let f := Fmt.ofCode (r.m.extractLsb' 0 4)
  need f.isSpec .field
  need (r.m &&& 0xfff0 == 0) .field
  return .cos h d a f

/-- R153: long opcode 0x096, layout LM. -/
def Dec.tanh (h : Head) (r : Raw) : Except Reject Instr := do
  let d ← decVN r.d
  let a ← decSrc r.a
  need (r.b == 327) .field
  let f := Fmt.ofCode (r.m.extractLsb' 0 4)
  need f.isSpec .field
  need (r.m &&& 0xfff0 == 0) .field
  return .tanh h d a f

/-- R155: long opcode 0x0A0, layout LM. -/
def Dec.cvt (h : Head) (r : Raw) : Except Reject Instr := do
  let d ← decVN r.d
  let a ← decSrc r.a
  need (r.b == 327) .field
  let f := Fmt.ofCode (r.m.extractLsb' 0 4)
  let ui := r.m.getLsbD 4
  let rnd ← decRnd (r.m.extractLsb' 5 3)
  let sf := Fmt.ofCode (r.m.extractLsb' 8 4)
  need (r.m &&& 0xf000 == 0) .field
  need ((cvtPair f sf && (!ui || f.isInt || sf.isInt))) .field
  need (a.fits sf ui) .constant
  return .cvt h d a f ui rnd sf

/-- R157: long opcode 0x0A1, layout LM. -/
def Dec.pack (h : Head) (r : Raw) : Except Reject Instr := do
  let d ← decVN r.d
  let a ← decSrc r.a
  let b ← decSrc r.b
  let f := Fmt.ofCode (r.m.extractLsb' 0 4)
  need f.isPackDst .field
  let ui := r.m.getLsbD 4
  let rnd ← decRnd (r.m.extractLsb' 5 3)
  need (r.m &&& 0xff00 == 0) .field
  need ((if f.isInt then rnd == .inherit else !ui)) .field
  need (a.fits (f.packSrc) ui && b.fits (f.packSrc) ui) .constant
  return .pack h d a b f ui rnd

/-- R158: long opcode 0x0A2, layout LM. -/
def Dec.unpack (h : Head) (r : Raw) : Except Reject Instr := do
  let d ← decVN r.d
  let a ← decSrc r.a
  need (r.b == 327) .field
  let f := Fmt.ofCode (r.m.extractLsb' 0 4)
  need f.isUnpackSrc .field
  let ui := r.m.getLsbD 4
  let hi := r.m.getLsbD 5
  need (r.m &&& 0xffc0 == 0) .field
  need ((!ui || f.isInt)) .field
  need (a.fits f ui) .constant
  return .unpack h d a f ui hi

/-- R161: long opcode 0x0A8, layout LM.  An inline constant in B is judged as a signed one in mode idx and not at all in the
other modes nor in BCAST, a negative one being read as 2^64 less its magnitude: R162 reads B unsigned and does not call it a
.ui operand of R23 (DESIGN CHOICE, log 64). -/
def Dec.shfl (h : Head) (r : Raw) : Except Reject Instr := do
  let d ← decVN r.d
  let a ← decSrc r.a
  let b ← decSrc r.b
  let f := Fmt.ofCode (r.m.extractLsb' 0 4)
  need f.isData .field
  let mode := r.m.extractLsb' 5 3
  need (mode.toNat < 4) .field
  let seg := r.m.extractLsb' 8 4
  need (seg.toNat < 11) .field
  need (r.m &&& 0xf010 == 0) .field
  need ((if mode == 0 then f.subs ≤ 4 else b.isUniform)) .field
  need (a.fits f false && (mode != 0 || b.fits f.index false)) .constant
  return .shfl h d a b f mode seg

/-- R161: long opcode 0x0A9, layout LM. -/
def Dec.bcast (h : Head) (r : Raw) : Except Reject Instr := do
  let d ← decVN r.d
  let a ← decSrc r.a
  let b ← decUni r.b
  let f := Fmt.ofCode (r.m.extractLsb' 0 4)
  need f.isData .field
  let seg := r.m.extractLsb' 8 4
  need (seg.toNat < 11) .field
  need (r.m &&& 0xf0f0 == 0) .field
  need (a.fits f false) .constant
  return .bcast h d a b f seg

/-- R161: long opcode 0x0AA, layout LM. -/
def Dec.lreduce (h : Head) (r : Raw) : Except Reject Instr := do
  let d ← decVN r.d
  let a ← decSrc r.a
  need (r.b == 327) .field
  let f := Fmt.ofCode (r.m.extractLsb' 0 4)
  need f.isRed .field
  let ui := r.m.getLsbD 4
  let op := r.m.extractLsb' 5 3
  need (op.toNat < 6) .field
  let seg := r.m.extractLsb' 8 4
  need (seg.toNat < 11) .field
  let rnd ← decRnd (r.m.extractLsb' 13 3)
  need (r.m &&& 0x1000 == 0) .field
  need ((if f.isInt then rnd == .inherit else op.toNat ≤ 2 && !ui)) .field
  need (a.fits f ui) .constant
  return .lreduce h d a f ui op seg rnd

/-- R161: long opcode 0x0AB, layout LM. -/
def Dec.lscan (h : Head) (r : Raw) : Except Reject Instr := do
  let d ← decVN r.d
  let a ← decSrc r.a
  need (r.b == 327) .field
  let f := Fmt.ofCode (r.m.extractLsb' 0 4)
  need f.isRed .field
  let ui := r.m.getLsbD 4
  let op := r.m.extractLsb' 5 3
  need (op.toNat < 6) .field
  let seg := r.m.extractLsb' 8 4
  need (seg.toNat < 11) .field
  let excl := r.m.getLsbD 12
  let rnd ← decRnd (r.m.extractLsb' 13 3)
  need (r.m &&& 0x0 == 0) .field
  need ((if f.isInt then rnd == .inherit else op.toNat ≤ 2 && !ui)) .field
  need (a.fits f ui) .constant
  return .lscan h d a f ui op seg excl rnd

/-- R161: long opcode 0x0AC, layout LM. -/
def Dec.swiz (h : Head) (r : Raw) : Except Reject Instr := do
  let d ← decVN r.d
  let a ← decSrc r.a
  need (r.b == 327) .field
  let f := Fmt.ofCode (r.m.extractLsb' 0 4)
  need f.isData .field
  let pat := r.m.extractLsb' 5 8
  need (r.m &&& 0xe010 == 0) .field
  need (a.fits f false) .constant
  return .swiz h d a f pat

/-- R176: long opcode 0x0C0, layout LM. -/
def Dec.qset (h : Head) (r : Raw) : Except Reject Instr := do
  need (r.d == 327) .field
  let a ← decUni r.a
  need (r.b == 327) .field
  let f := Fmt.ofCode (r.m.extractLsb' 0 4)
  need f.isQ .field
  let qm := r.m.extractLsb' 5 2
  need (r.m &&& 0xff90 == 0) .field
  return .qset h a f qm

/-- R172: long opcode 0x0C1, layout LM. -/
def Dec.qadd (h : Head) (r : Raw) : Except Reject Instr := do
  let d ← decVN r.d
  let a ← decSrc r.a
  let b ← decSrc r.b
  let f := Fmt.ofCode (r.m.extractLsb' 0 4)
  need f.isQ .field
  let qm := r.m.extractLsb' 5 2
  need (r.m &&& 0xff90 == 0) .field
  need (a.fits f false && b.fits f false) .constant
  return .qadd h d a b f qm

/-- R172: long opcode 0x0C2, layout LM. -/
def Dec.qsub (h : Head) (r : Raw) : Except Reject Instr := do
  let d ← decVN r.d
  let a ← decSrc r.a
  let b ← decSrc r.b
  let f := Fmt.ofCode (r.m.extractLsb' 0 4)
  need f.isQ .field
  let qm := r.m.extractLsb' 5 2
  need (r.m &&& 0xff90 == 0) .field
  need (a.fits f false && b.fits f false) .constant
  return .qsub h d a b f qm

/-- R172: long opcode 0x0C3, layout LM. -/
def Dec.qmul (h : Head) (r : Raw) : Except Reject Instr := do
  let d ← decVN r.d
  let a ← decSrc r.a
  let b ← decSrc r.b
  let f := Fmt.ofCode (r.m.extractLsb' 0 4)
  need f.isQ .field
  let qm := r.m.extractLsb' 5 2
  need (r.m &&& 0xff90 == 0) .field
  need (a.fits f false && b.fits f false) .constant
  return .qmul h d a b f qm

/-- R172: long opcode 0x0C4, layout L3. -/
def Dec.qmac (h : Head) (r : Raw) : Except Reject Instr := do
  let d ← decVN r.d
  let a ← decSrc r.a
  let b ← decSrc r.b
  let c ← decSrc r.c
  let f := Fmt.ofCode (r.m.extractLsb' 0 4)
  need f.isQ .field
  let qm := r.m.extractLsb' 5 2
  need (r.m &&& 0xff90 == 0) .field
  need (a.fits f false && b.fits f false && c.fits f false) .constant
  return .qmac h d a b c f qm

/-- R178: long opcode 0x0C5, layout LM. -/
def Dec.qred (h : Head) (r : Raw) : Except Reject Instr := do
  let d ← decVN r.d
  let a ← decSrc r.a
  need (r.b == 327) .field
  let f := Fmt.ofCode (r.m.extractLsb' 0 4)
  need f.isQ .field
  let ui := r.m.getLsbD 4
  let qm := r.m.extractLsb' 5 2
  need (r.m &&& 0xff80 == 0) .field
  need (a.fits (f.qint) ui) .constant
  return .qred h d a f ui qm

/-- R179: long opcode 0x0C6, layout L3. -/
def Dec.qbfly (h : Head) (r : Raw) : Except Reject Instr := do
  let d ← decVEven r.d
  let a ← decSrc r.a
  let b ← decSrc r.b
  let c ← decSrc r.c
  let f := Fmt.ofCode (r.m.extractLsb' 0 4)
  need f.isQ .field
  let qm := r.m.extractLsb' 5 2
  need (r.m &&& 0xff90 == 0) .field
  need (a.fits f false && b.fits f false && c.fits f false) .constant
  return .qbfly h d a b c f qm

/-- R179: long opcode 0x0C7, layout L3. -/
def Dec.qibfly (h : Head) (r : Raw) : Except Reject Instr := do
  let d ← decVEven r.d
  let a ← decSrc r.a
  let b ← decSrc r.b
  let c ← decSrc r.c
  let f := Fmt.ofCode (r.m.extractLsb' 0 4)
  need f.isQ .field
  let qm := r.m.extractLsb' 5 2
  need (r.m &&& 0xff90 == 0) .field
  need (a.fits f false && b.fits f false && c.fits f false) .constant
  return .qibfly h d a b c f qm

/-- R182: long opcode 0x0C8, layout L3.  An inline constant in the index operand B is judged as a signed one: R182 reads it
unsigned and does not call it a .ui operand of R23 (DESIGN CHOICE, log 64). -/
def Dec.hperm (h : Head) (r : Raw) : Except Reject Instr := do
  let d ← decVN r.d
  let a ← decSrc r.a
  let b ← decSrc r.b
  need (r.c == 327) .field
  let f := Fmt.ofCode (r.m.extractLsb' 0 4)
  need f.isHperm .field
  let seg := r.m.extractLsb' 4 3
  need (r.m &&& 0xff80 == 0) .field
  need (a.fits f false && b.fits (f.index) false) .constant
  return .hperm h d a b f seg

/-- R183: long opcode 0x0C9, layout LM. -/
def Dec.hauto (h : Head) (r : Raw) : Except Reject Instr := do
  let d ← decVN r.d
  let a ← decSrc r.a
  let b ← decUni r.b
  let f := Fmt.ofCode (r.m.extractLsb' 0 4)
  need f.isQ .field
  let qm := r.m.extractLsb' 5 2
  let seg := r.m.extractLsb' 7 4
  need (seg.toNat < 11) .field
  need (r.m &&& 0xf810 == 0) .field
  need (a.fits f false) .constant
  return .hauto h d a b f qm seg

/-- R197: long opcode 0x0E0, layout LM. -/
def Dec.mma (h : Head) (r : Raw) : Except Reject Instr := do
  let d ← decUni r.d
  let a ← decV r.a
  let b ← decUni r.b
  let slot := r.m.extractLsb' 0 3
  let keep := r.m.getLsbD 3
  let f16 := r.m.getLsbD 4
  need (r.m &&& 0xffe0 == 0) .field
  return .mma h d a b slot keep f16

/-- R197: long opcode 0x0E1, layout LM. -/
def Dec.mmai (h : Head) (r : Raw) : Except Reject Instr := do
  let d ← decUni r.d
  let a ← decV r.a
  let b ← decUni r.b
  let slot := r.m.extractLsb' 0 3
  let keep := r.m.getLsbD 3
  let ua := r.m.getLsbD 4
  let ub := r.m.getLsbD 5
  need (r.m &&& 0xffc0 == 0) .field
  return .mmai h d a b slot keep ua ub

/-- R197: long opcode 0x0E2, layout LM. -/
def Dec.mmag (h : Head) (r : Raw) : Except Reject Instr := do
  let d ← decUni r.d
  let a ← decV r.a
  let b ← decUni r.b
  let slot := r.m.extractLsb' 0 3
  let keep := r.m.getLsbD 3
  let gq8 := r.m.getLsbD 4
  let grp := r.m.extractLsb' 5 2
  need (grp.toNat < 3) .field
  need (r.m &&& 0xff80 == 0) .field
  return .mmag h d a b slot keep gq8 grp

/-- R197: long opcode 0x0E3, layout LM. -/
def Dec.mmac (h : Head) (r : Raw) : Except Reject Instr := do
  let d ← decUni r.d
  let a ← decV r.a
  let b ← decUni r.b
  let slot := r.m.extractLsb' 0 3
  let keep := r.m.getLsbD 3
  need (r.m &&& 0xfff0 == 0) .field
  return .mmac h d a b slot keep

/-- R205: long opcode 0x0E8, layout LM. -/
def Dec.accalloc (h : Head) (r : Raw) : Except Reject Instr := do
  let d ← decS r.d
  need (r.a == 327) .field
  need (r.b == 327) .field
  let slot := r.m.extractLsb' 0 3
  need (r.m &&& 0xfff8 == 0) .field
  return .accalloc h d slot

/-- R205: long opcode 0x0E9, layout LM. -/
def Dec.acctry (h : Head) (r : Raw) : Except Reject Instr := do
  let d ← decS r.d
  need (r.a == 327) .field
  need (r.b == 327) .field
  let slot := r.m.extractLsb' 0 3
  let pn := r.m.extractLsb' 3 4
  need (r.m &&& 0xff80 == 0) .field
  return .acctry h d slot pn

/-- R206: long opcode 0x0EA, layout LM. -/
def Dec.accfree (h : Head) (r : Raw) : Except Reject Instr := do
  let d ← decUni r.d
  need (r.a == 327) .field
  need (r.b == 327) .field
  let slot := r.m.extractLsb' 0 3
  need (r.m &&& 0xfff8 == 0) .field
  return .accfree h d slot

/-- R206: long opcode 0x0EB, layout LM. -/
def Dec.acczero (h : Head) (r : Raw) : Except Reject Instr := do
  let d ← decUni r.d
  need (r.a == 327) .field
  need (r.b == 327) .field
  let slot := r.m.extractLsb' 0 3
  need (r.m &&& 0xfff8 == 0) .field
  return .acczero h d slot

/-- R207: long opcode 0x0EC, layout LI. -/
def Dec.accld (h : Head) (r : Raw) : Except Reject Instr := do
  let d ← decUni r.d
  let a ← decSMax 63 r.a
  let off := r.i
  let slot := r.m.extractLsb' 0 3
  let tag := Fmt.ofCode (r.m.extractLsb' 3 4)
  need tag.isAccTag .field
  need (r.m &&& 0xff80 == 0) .field
  return .accld h d a off slot tag

/-- R207: long opcode 0x0ED, layout LI. -/
def Dec.accst (h : Head) (r : Raw) : Except Reject Instr := do
  let d ← decUni r.d
  let a ← decSMax 63 r.a
  let off := r.i
  let slot := r.m.extractLsb' 0 3
  need (r.m &&& 0xfff8 == 0) .field
  return .accst h d a off slot

/-- R209: long opcode 0x0EE, layout LM. -/
def Dec.mread (h : Head) (r : Raw) : Except Reject Instr := do
  let d ← decV r.d
  let a ← decUni r.a
  need (r.b == 327) .field
  let slot := r.m.extractLsb' 0 3
  let half := r.m.getLsbD 3
  let g := r.m.extractLsb' 4 3
  need (r.m &&& 0xff80 == 0) .field
  return .mread h d a slot half g

/-- R226: long opcode 0x100, layout LI. -/
def Dec.lds (h : Head) (r : Raw) : Except Reject Instr := do
  let d ← decVN r.d
  let a ← decSrcNS r.a
  let off := r.i
  let f := Fmt.ofCode (r.m.extractLsb' 0 4)
  need f.isData .field
  need (r.m &&& 0xfff0 == 0) .field
  return .lds h d a off f

/-- R226: long opcode 0x101, layout LI. -/
def Dec.sts (h : Head) (r : Raw) : Except Reject Instr := do
  let d ← decData r.d
  let a ← decSrcNS r.a
  let off := r.i
  need (r.m &&& 0xffff == 0) .field
  return .sts h d a off

/-- R226: long opcode 0x102, layout LI. -/
def Dec.ldsfe (h : Head) (r : Raw) : Except Reject Instr := do
  let d ← decVN r.d
  let a ← decSrcNS r.a
  let off := r.i
  let f := Fmt.ofCode (r.m.extractLsb' 0 4)
  need f.isData .field
  need (r.m &&& 0xfff0 == 0) .field
  return .ldsfe h d a off f

/-- R226: long opcode 0x103, layout LI. -/
def Dec.stsfe (h : Head) (r : Raw) : Except Reject Instr := do
  let d ← decData r.d
  let a ← decSrcNS r.a
  let off := r.i
  need (r.m &&& 0xffff == 0) .field
  return .stsfe h d a off

/-- R226: long opcode 0x104, layout LI. -/
def Dec.sfe (h : Head) (r : Raw) : Except Reject Instr := do
  need (r.d == 327) .field
  let a ← decSrcNS r.a
  let off := r.i
  let full := r.m.getLsbD 0
  need (r.m &&& 0xfffe == 0) .field
  return .sfe h a off full

/-- R231: long opcode 0x108, layout LM. -/
def Dec.tlook (h : Head) (r : Raw) : Except Reject Instr := do
  let d ← decVN r.d
  let a ← decSrc r.a
  need (r.b == 327) .field
  let region := r.m.extractLsb' 0 4
  let pn := r.m.extractLsb' 4 4
  need (r.m &&& 0xff00 == 0) .field
  return .tlook h d a region pn

/-- R231: long opcode 0x109, layout LM. -/
def Dec.tset (h : Head) (r : Raw) : Except Reject Instr := do
  need (r.d == 327) .field
  let a ← decSrc r.a
  let b ← decSrc r.b
  let region := r.m.extractLsb' 0 4
  need (r.m &&& 0xfff0 == 0) .field
  return .tset h a b region

/-- R231: long opcode 0x10A, layout LM. -/
def Dec.tinv (h : Head) (r : Raw) : Except Reject Instr := do
  need (r.d == 327) .field
  need (r.a == 327) .field
  let b ← decSrc r.b
  let region := r.m.extractLsb' 0 4
  need (r.m &&& 0xfff0 == 0) .field
  return .tinv h b region

/-- R233: long opcode 0x110, layout LM. -/
def Dec.racq (h : Head) (r : Raw) : Except Reject Instr := do
  let d ← decS r.d
  let a ← decUni r.a
  need (r.b == 327) .field
  let pn := r.m.extractLsb' 0 4
  need (r.m &&& 0xfff0 == 0) .field
  return .racq h d a pn

/-- R233: long opcode 0x111, layout LM. -/
def Dec.rpub (h : Head) (r : Raw) : Except Reject Instr := do
  need (r.d == 327) .field
  let a ← decUni r.a
  let b ← decUni r.b
  need (r.m &&& 0xffff == 0) .field
  return .rpub h a b

/-- R233: long opcode 0x112, layout LM. -/
def Dec.rtake (h : Head) (r : Raw) : Except Reject Instr := do
  let d ← decS r.d
  let a ← decUni r.a
  need (r.b == 327) .field
  let pn := r.m.extractLsb' 0 4
  need (r.m &&& 0xfff0 == 0) .field
  return .rtake h d a pn

/-- R233: long opcode 0x113, layout LM. -/
def Dec.rrel (h : Head) (r : Raw) : Except Reject Instr := do
  need (r.d == 327) .field
  let a ← decUni r.a
  let b ← decUni r.b
  need (r.m &&& 0xffff == 0) .field
  return .rrel h a b

/-- R235: long opcode 0x118, layout LM. -/
def Dec.barinit (h : Head) (r : Raw) : Except Reject Instr := do
  need (r.d == 327) .field
  let a ← decUni r.a
  let b ← decUni r.b
  need (r.m &&& 0xffff == 0) .field
  return .barinit h a b

/-- R235: long opcode 0x119, layout LM. -/
def Dec.bararr (h : Head) (r : Raw) : Except Reject Instr := do
  let d ← decSN r.d
  let a ← decUni r.a
  let b ← decUni r.b
  need (r.m &&& 0xffff == 0) .field
  return .bararr h d a b

/-- R235: long opcode 0x11A, layout LM. -/
def Dec.barwait (h : Head) (r : Raw) : Except Reject Instr := do
  need (r.d == 327) .field
  let a ← decUni r.a
  let b ← decUni r.b
  need (r.m &&& 0xffff == 0) .field
  return .barwait h a b

/-- R250: long opcode 0x120, layout LI. -/
def Dec.ld (h : Head) (r : Raw) : Except Reject Instr := do
  let d ← decVN r.d
  let a ← decSrcNS r.a
  let off := r.i
  let slot := r.m.extractLsb' 0 3
  let f := Fmt.ofCode (r.m.extractLsb' 3 4)
  need f.isData .field
  let acq := r.m.getLsbD 7
  let scope := r.m.extractLsb' 8 3
  need (scope.toNat < 7) .field
  need (r.m &&& 0xf800 == 0) .field
  need ((acq || scope == 0)) .field
  return .ld h d a off slot f acq scope

/-- R250: long opcode 0x121, layout LI. -/
def Dec.st (h : Head) (r : Raw) : Except Reject Instr := do
  let d ← decData r.d
  let a ← decSrcNS r.a
  let off := r.i
  let slot := r.m.extractLsb' 0 3
  let rel := r.m.getLsbD 7
  let scope := r.m.extractLsb' 8 3
  need (scope.toNat < 7) .field
  need (r.m &&& 0xf878 == 0) .field
  need ((rel || scope == 0)) .field
  return .st h d a off slot rel scope

/-- R254: long opcode 0x122, layout L3. -/
def Dec.atom (h : Head) (r : Raw) : Except Reject Instr := do
  let d ← decVN r.d
  let a ← decSrcNS r.a
  let b ← decSrc r.b
  let c ← decSrc r.c
  let slot := r.m.extractLsb' 0 3
  let op := r.m.extractLsb' 3 4
  need (op.toNat < 11) .field
  need (r.m &&& 0xff80 == 0) .field
  need ((op == 10 || c == .zero)) .field
  return .atom h d a b c slot op

/-- R256: long opcode 0x123, layout LM. -/
def Dec.redms (h : Head) (r : Raw) : Except Reject Instr := do
  need (r.d == 327) .field
  let a ← decSrcNS r.a
  let b ← decSrc r.b
  let f := Fmt.ofCode (r.m.extractLsb' 0 4)
  need f.isRedms .field
  let ui := r.m.getLsbD 4
  let op := r.m.extractLsb' 5 2
  need (op.toNat < 3) .field
  need (r.m &&& 0xff80 == 0) .field
  need ((!ui || (f.isInt && op != 0))) .field
  need (b.fits f ui) .constant
  return .redms h a b f ui op

/-- R250: long opcode 0x124, layout LI. -/
def Dec.pref (h : Head) (r : Raw) : Except Reject Instr := do
  need (r.d == 327) .field
  let a ← decSrcNS r.a
  let off := r.i
  let level := r.m.extractLsb' 0 2
  need (level.toNat < 2) .field
  need (r.m &&& 0xfffc == 0) .field
  return .pref h a off level

/-- R258: long opcode 0x128, layout LM. -/
def Dec.fence (h : Head) (r : Raw) : Except Reject Instr := do
  need (r.d == 327) .field
  need (r.a == 327) .field
  need (r.b == 327) .field
  let k := r.m.extractLsb' 0 3
  let scope := r.m.extractLsb' 3 3
  need (scope.toNat < 7) .field
  let classes := r.m.extractLsb' 6 5
  need (classes != 0) .field
  need (r.m &&& 0xf800 == 0) .field
  return .fence h k scope classes

/-- R258: long opcode 0x129, layout LM. -/
def Dec.waitf (h : Head) (r : Raw) : Except Reject Instr := do
  need (r.d == 327) .field
  need (r.a == 327) .field
  need (r.b == 327) .field
  let k := r.m.extractLsb' 0 3
  need (r.m &&& 0xfff8 == 0) .field
  return .waitf h k

/-- R260: long opcode 0x12A, layout L3. -/
def Dec.waitv (h : Head) (r : Raw) : Except Reject Instr := do
  let d ← decVN r.d
  let a ← decSrcNS r.a
  let b ← decSrc r.b
  let c ← decSrc r.c
  let scope := r.m.extractLsb' 0 3
  need (scope.toNat < 7) .field
  need (r.m &&& 0xfff8 == 0) .field
  return .waitv h d a b c scope

/-- R261: long opcode 0x12B, layout LM. -/
def Dec.wakev (h : Head) (r : Raw) : Except Reject Instr := do
  let d ← decVN r.d
  let a ← decSrcNS r.a
  let b ← decSrc r.b
  let slot := r.m.extractLsb' 0 3
  let scope := r.m.extractLsb' 3 3
  need (scope.toNat < 7) .field
  need (r.m &&& 0xffc0 == 0) .field
  return .wakev h d a b slot scope

/-- R273: long opcode 0x140, layout LM. -/
def Dec.copy (h : Head) (r : Raw) : Except Reject Instr := do
  let d ← decUni r.d
  let a ← decSMax 50 r.a
  let b ← decUni r.b
  let slot := r.m.extractLsb' 0 3
  let map := r.m.extractLsb' 3 5
  let s2g := r.m.getLsbD 8
  let ring := r.m.getLsbD 9
  let cf := r.m.extractLsb' 10 4
  need (cf.toNat < 10) .field
  let bar := r.m.getLsbD 14
  need (r.m &&& 0x8000 == 0) .field
  need ((bar || b == .zero)) .field
  return .copy h d a b slot map s2g ring cf bar

/-- R276: long opcode 0x141, layout L3. -/
def Dec.copyl (h : Head) (r : Raw) : Except Reject Instr := do
  let d ← decUni r.d
  let a ← decUni r.a
  let b ← decUni r.b
  let c ← decUni r.c
  let slot := r.m.extractLsb' 0 3
  let dir := r.m.extractLsb' 3 2
  let bar := r.m.getLsbD 5
  need (r.m &&& 0xffc0 == 0) .field
  need ((bar || c == .zero)) .field
  return .copyl h d a b c slot dir bar

/-- R275: long opcode 0x142, layout LI. -/
def Dec.cmap (h : Head) (r : Raw) : Except Reject Instr := do
  need (r.d == 327) .field
  let a ← decSMax 63 r.a
  let off := r.i
  let slot := r.m.extractLsb' 0 3
  let map := r.m.extractLsb' 3 5
  need (r.m &&& 0xff00 == 0) .field
  return .cmap h a off slot map

/-- R282: long opcode 0x148, layout LM. -/
def Dec.stgpost (h : Head) (r : Raw) : Except Reject Instr := do
  let d ← decSN r.d
  let a ← decUni r.a
  let b ← decUni r.b
  let slot := r.m.extractLsb' 0 3
  need (r.m &&& 0xfff8 == 0) .field
  return .stgpost h d a b slot

/-- R283: long opcode 0x149, layout LM. -/
def Dec.stgadv (h : Head) (r : Raw) : Except Reject Instr := do
  need (r.d == 327) .field
  let a ← decUni r.a
  let b ← decUni r.b
  let fin := r.m.getLsbD 0
  need (r.m &&& 0xfffe == 0) .field
  return .stgadv h a b fin

/-- R392: long opcode 0x150, layout LM. -/
def Dec.npost (h : Head) (r : Raw) : Except Reject Instr := do
  let d ← decSN r.d
  let a ← decUni r.a
  let b ← decUni r.b
  let slot := r.m.extractLsb' 0 3
  need (r.m &&& 0xfff8 == 0) .field
  return .npost h d a b slot

/-- R394: long opcode 0x151, layout LM. -/
def Dec.ncqw (h : Head) (r : Raw) : Except Reject Instr := do
  let d ← decSN r.d
  let a ← decUni r.a
  let b ← decUni r.b
  let scope := r.m.extractLsb' 0 3
  need (scope.toNat < 7) .field
  let t := r.m.extractLsb' 3 5
  need (r.m &&& 0xff00 == 0) .field
  return .ncqw h d a b scope t

/-- R351: long opcode 0x158, layout LM. -/
def Dec.launch (h : Head) (r : Raw) : Except Reject Instr := do
  let d ← decSN r.d
  let a ← decUni r.a
  let b ← decUni r.b
  let slot := r.m.extractLsb' 0 3
  need (r.m &&& 0xfff8 == 0) .field
  return .launch h d a b slot

/-- R302: long opcode 0x160, layout LM. -/
def Dec.rngset (h : Head) (r : Raw) : Except Reject Instr := do
  need (r.d == 327) .field
  let a ← decSMax 61 r.a
  let b ← decUni r.b
  let slot := r.m.extractLsb' 0 3
  let n := r.m.extractLsb' 3 4
  need (r.m &&& 0xff80 == 0) .field
  return .rngset h a b slot n

/-- R303: long opcode 0x161, layout LM. -/
def Dec.atinv (h : Head) (r : Raw) : Except Reject Instr := do
  need (r.d == 327) .field
  let a ← decUni r.a
  let b ← decUni r.b
  let slot := r.m.extractLsb' 0 3
  let mode := r.m.extractLsb' 3 2
  need (mode.toNat < 3) .field
  need (r.m &&& 0xffe0 == 0) .field
  need (((mode == 0 || a == .zero) && (mode != 2 || b == .zero))) .field
  return .atinv h a b slot mode

/-- R305: long opcode 0x162, layout LM. -/
def Dec.pgq (h : Head) (r : Raw) : Except Reject Instr := do
  let d ← decVN r.d
  let a ← decSrcNS r.a
  let b ← decUni r.b
  let slot := r.m.extractLsb' 0 3
  need (r.m &&& 0xfff8 == 0) .field
  return .pgq h d a b slot

/-- R313: long opcode 0x168, layout LM. -/
def Dec.ecreate (h : Head) (r : Raw) : Except Reject Instr := do
  let d ← decS r.d
  let a ← decUni r.a
  need (r.b == 327) .field
  let slot := r.m.extractLsb' 0 3
  need (r.m &&& 0xfff8 == 0) .field
  return .ecreate h d a slot

/-- R313: long opcode 0x169, layout LM. -/
def Dec.eadd (h : Head) (r : Raw) : Except Reject Instr := do
  let d ← decS r.d
  let a ← decUni r.a
  need (r.b == 327) .field
  let slot := r.m.extractLsb' 0 3
  need (r.m &&& 0xfff8 == 0) .field
  return .eadd h d a slot

/-- R313: long opcode 0x169, layout LM. -/
def Dec.eaddDev (h : Head) (r : Raw) : Except Reject Instr := do
  let d ← decS r.d
  let a ← decUni r.a
  need (r.b == 327) .field
  let slot := r.m.extractLsb' 0 3
  need (r.m &&& 0xfff0 == 0) .field
  return .eaddDev h d a slot

/-- R313: long opcode 0x16A, layout LM. -/
def Dec.einit (h : Head) (r : Raw) : Except Reject Instr := do
  let d ← decS r.d
  let a ← decUni r.a
  need (r.b == 327) .field
  let slot := r.m.extractLsb' 0 3
  need (r.m &&& 0xfff8 == 0) .field
  return .einit h d a slot

/-- R313: long opcode 0x16B, layout LM. -/
def Dec.eenter (h : Head) (r : Raw) : Except Reject Instr := do
  let d ← decS r.d
  let a ← decUni r.a
  let b ← decUni r.b
  need (r.m &&& 0xffff == 0) .field
  return .eenter h d a b

/-- R313: long opcode 0x16C, layout LM. -/
def Dec.eexit (h : Head) (r : Raw) : Except Reject Instr := do
  need (r.d == 327) .field
  need (r.a == 327) .field
  need (r.b == 327) .field
  need (r.m &&& 0xffff == 0) .field
  return .eexit h

/-- R313: long opcode 0x16D, layout LM. -/
def Dec.eseal (h : Head) (r : Raw) : Except Reject Instr := do
  let d ← decS r.d
  let a ← decSMax 60 r.a
  need (r.b == 327) .field
  let slot := r.m.extractLsb' 0 3
  need (r.m &&& 0xfff8 == 0) .field
  return .eseal h d a slot

/-- R313: long opcode 0x16E, layout LM. -/
def Dec.eunseal (h : Head) (r : Raw) : Except Reject Instr := do
  let d ← decS r.d
  let a ← decSMax 61 r.a
  need (r.b == 327) .field
  let slot := r.m.extractLsb' 0 3
  need (r.m &&& 0xfff8 == 0) .field
  return .eunseal h d a slot

/-- R313: long opcode 0x16F, layout LM. -/
def Dec.ereport (h : Head) (r : Raw) : Except Reject Instr := do
  let d ← decS r.d
  let a ← decUni r.a
  let b ← decUni r.b
  let slot := r.m.extractLsb' 0 3
  need (r.m &&& 0xfff8 == 0) .field
  return .ereport h d a b slot

/-- R313: long opcode 0x170, layout LM. -/
def Dec.edestroy (h : Head) (r : Raw) : Except Reject Instr := do
  let d ← decS r.d
  let a ← decUni r.a
  need (r.b == 327) .field
  let slot := r.m.extractLsb' 0 3
  need (r.m &&& 0xfff8 == 0) .field
  return .edestroy h d a slot

/-- What the branching binds share: M is 00 and the chain bit is 0 (R14, R34). -/
def Dec.bindField (h : Head) (w1 : BitVec 32) : Except Reject Unit := do
  need (!h.ch) .field
  need (w1.extractLsb' 0 2 == 0) .field

/-- R34: bind.br. -/
def Dec.bindBr (h : Head) (w1 w2 : BitVec 32) : Except Reject Instr := do
  Dec.bindField h w1
  need (w1.extractLsb' 2 9 == 327) .field
  return .bindBr h (w2.extractLsb' 24 8) (w2.extractLsb' 0 24)

/-- R34: bind.bc. -/
def Dec.bindBc (h : Head) (w1 w2 : BitVec 32) : Except Reject Instr := do
  Dec.bindField h w1
  need (h.g == 0) .field
  let n ← decS (w1.extractLsb' 2 9)
  return .bindBc h n (w2.extractLsb' 24 8) (w2.extractLsb' 0 24)

/-- R34: bind.call. -/
def Dec.bindCall (h : Head) (w1 w2 : BitVec 32) : Except Reject Instr := do
  Dec.bindField h w1
  let d ← decVS (w1.extractLsb' 2 9)
  return .bindCall h d (w2.extractLsb' 24 8) (w2.extractLsb' 0 24)

/-- R34: bind.ret. -/
def Dec.bindRet (h : Head) (w1 w2 : BitVec 32) : Except Reject Instr := do
  Dec.bindField h w1
  let r ← decVS (w1.extractLsb' 2 9)
  need (w2.extractLsb' 0 24 == 0) .field
  return .bindRet h r (w2.extractLsb' 24 8)

/-- R34: bind.jmp. -/
def Dec.bindJmp (h : Head) (w1 w2 : BitVec 32) : Except Reject Instr := do
  Dec.bindField h w1
  let r ← decVS (w1.extractLsb' 2 9)
  return .bindJmp h r (w2.extractLsb' 24 8) (w2.extractLsb' 0 24)

/-- R125: movi. -/
def Dec.movi (h : Head) (w1 w2 : BitVec 32) : Except Reject Instr := do
  let d ← decDst (w1.extractLsb' 2 9)
  let mode := w1.extractLsb' 0 2
  need (mode != 3 || d.isSome) .field
  return .movi h d mode w2

/-- The head of a base word (R16). -/
def headBase (w : BitVec 32) : Head := { ch := w.getLsbD 29, st := (w.extractLsb' 27 2).setWidth 4, g := 0 }

/-- A base word whose D, A and B must be zero (R51, R58, R88, R91, R93). -/
def decBare (c : Head → Instr) (w : BitVec 32) : Except Reject Instr := do
  need (w.extractLsb' 0 20 == 0) .field
  return c (headBase w)

/-- R33: the plain bind. -/
def decBind (w : BitVec 32) : Except Reject Instr := do
  need (!w.getLsbD 29) .field
  need (w.extractLsb' 0 12 == 0) .field
  return .bind (headBase w) (w.extractLsb' 12 8)

/-- A base word with one source, whose B must be 119 (R123, R124, R128). -/
def decOneSrc (c : Head → BitVec 6 → Src → Instr) (w : BitVec 32) : Except Reject Instr := do
  need (w.extractLsb' 0 7 == 119) .field
  return c (headBase w) (w.extractLsb' 14 6) (decSrcBase (w.extractLsb' 7 7))

/-- R126: the base tagset. -/
def decTagsetBase (w : BitVec 32) : Except Reject Instr := do
  need (w.extractLsb' 4 3 == 0) .field
  return .tagsetBase (headBase w) (w.extractLsb' 14 6) (decSrcBase (w.extractLsb' 7 7))
    (Fmt.ofCode (w.extractLsb' 0 4))

/-- A base word with two sources (R16). -/
def decTwoSrc (c : Head → BitVec 6 → Src → Src → Instr) (w : BitVec 32) : Except Reject Instr :=
  .ok (c (headBase w) (w.extractLsb' 14 6) (decSrcBase (w.extractLsb' 7 7)) (decSrcBase (w.extractLsb' 0 7)))

/-- A base word that takes its format from its sources and has no default for it (R132, R174). -/
def decTwoReg (c : Head → BitVec 6 → Src → Src → Instr) (w : BitVec 32) : Except Reject Instr := do
  let a := decSrcBase (w.extractLsb' 7 7)
  let b := decSrcBase (w.extractLsb' 0 7)
  need (a.isReg || b.isReg) .field
  return c (headBase w) (w.extractLsb' 14 6) a b

/-- The long opcode map (R60): every opcode not listed is rejected. -/
def decodeLong (w1 w2 : BitVec 32) : Except Reject Instr :=
  let h := headOf w1
  match (w1.extractLsb' 18 9).toNat with
  | 0x001 => Dec.chartld h (Raw.unpack .li w1 w2)
  | 0x002 => Dec.chartrd h (Raw.unpack .li w1 w2)
  | 0x008 => Dec.bindBr h w1 w2
  | 0x009 => Dec.bindBc h w1 w2
  | 0x00A => Dec.bindCall h w1 w2
  | 0x00B => Dec.bindRet h w1 w2
  | 0x00C => Dec.bindJmp h w1 w2
  | 0x010 => Dec.fork h (Raw.unpack .li w1 w2)
  | 0x011 => Dec.elect h (Raw.unpack .lm w1 w2)
  | 0x012 => Dec.vote h (Raw.unpack .lm w1 w2)
  | 0x013 => Dec.phase h (Raw.unpack .li w1 w2)
  | 0x014 => Dec.sysc h (Raw.unpack .li w1 w2)
  | 0x018 => Dec.trap h (Raw.unpack .li w1 w2)
  | 0x019 => Dec.eret h (Raw.unpack .lm w1 w2)
  | 0x01A => Dec.csrr h (Raw.unpack .li w1 w2)
  | 0x01B => Dec.csrw h (Raw.unpack .li w1 w2)
  | 0x01C => Dec.csrx h (Raw.unpack .li w1 w2)
  | 0x01D => Dec.halt h (Raw.unpack .lm w1 w2)
  | 0x01E => Dec.wfi h (Raw.unpack .lm w1 w2)
  | 0x020 => Dec.mov h (Raw.unpack .lm w1 w2)
  | 0x021 => Dec.movi h w1 w2
  | 0x022 => Dec.movs h (Raw.unpack .lm w1 w2)
  | 0x023 => if (Raw.unpack .lm w1 w2).m.getLsbD 5 then Dec.tagsetFl h (Raw.unpack .lm w1 w2) else Dec.tagset h (Raw.unpack .lm w1 w2)
  | 0x024 => if (Raw.unpack .lm w1 w2).m.getLsbD 5 then Dec.taggetFl h (Raw.unpack .lm w1 w2) else Dec.tagget h (Raw.unpack .lm w1 w2)
  | 0x040 => Dec.add h (Raw.unpack .lm w1 w2)
  | 0x041 => Dec.sub h (Raw.unpack .lm w1 w2)
  | 0x042 => Dec.mul h (Raw.unpack .lm w1 w2)
  | 0x043 => Dec.mulhi h (Raw.unpack .lm w1 w2)
  | 0x044 => Dec.mad h (Raw.unpack .l3 w1 w2)
  | 0x045 => Dec.div h (Raw.unpack .lm w1 w2)
  | 0x046 => Dec.rem h (Raw.unpack .lm w1 w2)
  | 0x047 => Dec.min h (Raw.unpack .lm w1 w2)
  | 0x048 => Dec.max h (Raw.unpack .lm w1 w2)
  | 0x049 => Dec.abs h (Raw.unpack .lm w1 w2)
  | 0x04A => Dec.neg h (Raw.unpack .lm w1 w2)
  | 0x04B => Dec.and h (Raw.unpack .lm w1 w2)
  | 0x04C => Dec.or h (Raw.unpack .lm w1 w2)
  | 0x04D => Dec.xor h (Raw.unpack .lm w1 w2)
  | 0x04E => Dec.andn h (Raw.unpack .lm w1 w2)
  | 0x04F => Dec.not h (Raw.unpack .lm w1 w2)
  | 0x050 => Dec.shl h (Raw.unpack .lm w1 w2)
  | 0x051 => Dec.shr h (Raw.unpack .lm w1 w2)
  | 0x052 => Dec.sar h (Raw.unpack .lm w1 w2)
  | 0x053 => Dec.rot h (Raw.unpack .lm w1 w2)
  | 0x054 => Dec.clz h (Raw.unpack .lm w1 w2)
  | 0x055 => Dec.popc h (Raw.unpack .lm w1 w2)
  | 0x056 => Dec.cmp h (Raw.unpack .lm w1 w2)
  | 0x057 => Dec.sel h (Raw.unpack .l3 w1 w2)
  | 0x058 => Dec.addi h (Raw.unpack .li w1 w2)
  | 0x060 => Dec.pand h (Raw.unpack .lm w1 w2)
  | 0x061 => Dec.por h (Raw.unpack .lm w1 w2)
  | 0x062 => Dec.pxor h (Raw.unpack .lm w1 w2)
  | 0x063 => Dec.pnot h (Raw.unpack .lm w1 w2)
  | 0x064 => Dec.pget h (Raw.unpack .lm w1 w2)
  | 0x065 => Dec.pset h (Raw.unpack .lm w1 w2)
  | 0x080 => Dec.fadd h (Raw.unpack .lm w1 w2)
  | 0x081 => Dec.fsub h (Raw.unpack .lm w1 w2)
  | 0x082 => Dec.fmul h (Raw.unpack .lm w1 w2)
  | 0x083 => Dec.fma h (Raw.unpack .l3 w1 w2)
  | 0x084 => Dec.fmin h (Raw.unpack .lm w1 w2)
  | 0x085 => Dec.fmax h (Raw.unpack .lm w1 w2)
  | 0x086 => Dec.fabs h (Raw.unpack .lm w1 w2)
  | 0x087 => Dec.fneg h (Raw.unpack .lm w1 w2)
  | 0x088 => Dec.fcmp h (Raw.unpack .lm w1 w2)
  | 0x089 => Dec.fdiv h (Raw.unpack .lm w1 w2)
  | 0x08A => Dec.fsqrt h (Raw.unpack .lm w1 w2)
  | 0x08B => Dec.fdot h (Raw.unpack .l3 w1 w2)
  | 0x090 => Dec.rcp h (Raw.unpack .lm w1 w2)
  | 0x091 => Dec.rsqrt h (Raw.unpack .lm w1 w2)
  | 0x092 => Dec.exp2 h (Raw.unpack .lm w1 w2)
  | 0x093 => Dec.log2 h (Raw.unpack .lm w1 w2)
  | 0x094 => Dec.sin h (Raw.unpack .lm w1 w2)
  | 0x095 => Dec.cos h (Raw.unpack .lm w1 w2)
  | 0x096 => Dec.tanh h (Raw.unpack .lm w1 w2)
  | 0x0A0 => Dec.cvt h (Raw.unpack .lm w1 w2)
  | 0x0A1 => Dec.pack h (Raw.unpack .lm w1 w2)
  | 0x0A2 => Dec.unpack h (Raw.unpack .lm w1 w2)
  | 0x0A8 => Dec.shfl h (Raw.unpack .lm w1 w2)
  | 0x0A9 => Dec.bcast h (Raw.unpack .lm w1 w2)
  | 0x0AA => Dec.lreduce h (Raw.unpack .lm w1 w2)
  | 0x0AB => Dec.lscan h (Raw.unpack .lm w1 w2)
  | 0x0AC => Dec.swiz h (Raw.unpack .lm w1 w2)
  | 0x0C0 => Dec.qset h (Raw.unpack .lm w1 w2)
  | 0x0C1 => Dec.qadd h (Raw.unpack .lm w1 w2)
  | 0x0C2 => Dec.qsub h (Raw.unpack .lm w1 w2)
  | 0x0C3 => Dec.qmul h (Raw.unpack .lm w1 w2)
  | 0x0C4 => Dec.qmac h (Raw.unpack .l3 w1 w2)
  | 0x0C5 => Dec.qred h (Raw.unpack .lm w1 w2)
  | 0x0C6 => Dec.qbfly h (Raw.unpack .l3 w1 w2)
  | 0x0C7 => Dec.qibfly h (Raw.unpack .l3 w1 w2)
  | 0x0C8 => Dec.hperm h (Raw.unpack .l3 w1 w2)
  | 0x0C9 => Dec.hauto h (Raw.unpack .lm w1 w2)
  | 0x0E0 => Dec.mma h (Raw.unpack .lm w1 w2)
  | 0x0E1 => Dec.mmai h (Raw.unpack .lm w1 w2)
  | 0x0E2 => Dec.mmag h (Raw.unpack .lm w1 w2)
  | 0x0E3 => Dec.mmac h (Raw.unpack .lm w1 w2)
  | 0x0E8 => Dec.accalloc h (Raw.unpack .lm w1 w2)
  | 0x0E9 => Dec.acctry h (Raw.unpack .lm w1 w2)
  | 0x0EA => Dec.accfree h (Raw.unpack .lm w1 w2)
  | 0x0EB => Dec.acczero h (Raw.unpack .lm w1 w2)
  | 0x0EC => Dec.accld h (Raw.unpack .li w1 w2)
  | 0x0ED => Dec.accst h (Raw.unpack .li w1 w2)
  | 0x0EE => Dec.mread h (Raw.unpack .lm w1 w2)
  | 0x100 => Dec.lds h (Raw.unpack .li w1 w2)
  | 0x101 => Dec.sts h (Raw.unpack .li w1 w2)
  | 0x102 => Dec.ldsfe h (Raw.unpack .li w1 w2)
  | 0x103 => Dec.stsfe h (Raw.unpack .li w1 w2)
  | 0x104 => Dec.sfe h (Raw.unpack .li w1 w2)
  | 0x108 => Dec.tlook h (Raw.unpack .lm w1 w2)
  | 0x109 => Dec.tset h (Raw.unpack .lm w1 w2)
  | 0x10A => Dec.tinv h (Raw.unpack .lm w1 w2)
  | 0x110 => Dec.racq h (Raw.unpack .lm w1 w2)
  | 0x111 => Dec.rpub h (Raw.unpack .lm w1 w2)
  | 0x112 => Dec.rtake h (Raw.unpack .lm w1 w2)
  | 0x113 => Dec.rrel h (Raw.unpack .lm w1 w2)
  | 0x118 => Dec.barinit h (Raw.unpack .lm w1 w2)
  | 0x119 => Dec.bararr h (Raw.unpack .lm w1 w2)
  | 0x11A => Dec.barwait h (Raw.unpack .lm w1 w2)
  | 0x120 => Dec.ld h (Raw.unpack .li w1 w2)
  | 0x121 => Dec.st h (Raw.unpack .li w1 w2)
  | 0x122 => Dec.atom h (Raw.unpack .l3 w1 w2)
  | 0x123 => Dec.redms h (Raw.unpack .lm w1 w2)
  | 0x124 => Dec.pref h (Raw.unpack .li w1 w2)
  | 0x128 => Dec.fence h (Raw.unpack .lm w1 w2)
  | 0x129 => Dec.waitf h (Raw.unpack .lm w1 w2)
  | 0x12A => Dec.waitv h (Raw.unpack .l3 w1 w2)
  | 0x12B => Dec.wakev h (Raw.unpack .lm w1 w2)
  | 0x140 => Dec.copy h (Raw.unpack .lm w1 w2)
  | 0x141 => Dec.copyl h (Raw.unpack .l3 w1 w2)
  | 0x142 => Dec.cmap h (Raw.unpack .li w1 w2)
  | 0x148 => Dec.stgpost h (Raw.unpack .lm w1 w2)
  | 0x149 => Dec.stgadv h (Raw.unpack .lm w1 w2)
  | 0x150 => Dec.npost h (Raw.unpack .lm w1 w2)
  | 0x151 => Dec.ncqw h (Raw.unpack .lm w1 w2)
  | 0x158 => Dec.launch h (Raw.unpack .lm w1 w2)
  | 0x160 => Dec.rngset h (Raw.unpack .lm w1 w2)
  | 0x161 => Dec.atinv h (Raw.unpack .lm w1 w2)
  | 0x162 => Dec.pgq h (Raw.unpack .lm w1 w2)
  | 0x168 => Dec.ecreate h (Raw.unpack .lm w1 w2)
  | 0x169 => if (Raw.unpack .lm w1 w2).m.getLsbD 3 then Dec.eaddDev h (Raw.unpack .lm w1 w2) else Dec.eadd h (Raw.unpack .lm w1 w2)
  | 0x16A => Dec.einit h (Raw.unpack .lm w1 w2)
  | 0x16B => Dec.eenter h (Raw.unpack .lm w1 w2)
  | 0x16C => Dec.eexit h (Raw.unpack .lm w1 w2)
  | 0x16D => Dec.eseal h (Raw.unpack .lm w1 w2)
  | 0x16E => Dec.eunseal h (Raw.unpack .lm w1 w2)
  | 0x16F => Dec.ereport h (Raw.unpack .lm w1 w2)
  | 0x170 => Dec.edestroy h (Raw.unpack .lm w1 w2)
  | _ => .error .opcode

/-- The base opcode map (R59): every opcode not listed is rejected. -/
def decodeBase (w : BitVec 32) : Except Reject Instr :=
  match (w.extractLsb' 20 7).toNat with
  | 0x00 => decBare .nop w
  | 0x01 => decBind w
  | 0x02 => decBare .ifence w
  | 0x03 => decBare .rcv w
  | 0x04 => decBare .fend w
  | 0x05 => decBare .yield w
  | 0x06 => decBare .exit w
  | 0x08 => decOneSrc .movBase w
  | 0x09 => decOneSrc .movsBase w
  | 0x0A => decOneSrc .taggetBase w
  | 0x0B => decTagsetBase w
  | 0x10 => decTwoSrc .addBase w
  | 0x11 => decTwoSrc .subBase w
  | 0x12 => decTwoSrc .mulBase w
  | 0x13 => decTwoSrc .mulhiIBase w
  | 0x14 => decTwoSrc .mulhiUiBase w
  | 0x15 => decTwoSrc .minIBase w
  | 0x16 => decTwoSrc .minUiBase w
  | 0x17 => decTwoSrc .maxIBase w
  | 0x18 => decTwoSrc .maxUiBase w
  | 0x19 => decTwoSrc .andBase w
  | 0x1A => decTwoSrc .orBase w
  | 0x1B => decTwoSrc .xorBase w
  | 0x1C => decTwoSrc .shlBase w
  | 0x1D => decTwoSrc .shrBase w
  | 0x1E => decTwoSrc .sarBase w
  | 0x1F => decTwoSrc .rotBase w
  | 0x20 => decTwoReg .faddBase w
  | 0x21 => decTwoReg .fsubBase w
  | 0x22 => decTwoReg .fmulBase w
  | 0x23 => decTwoReg .fminBase w
  | 0x24 => decTwoReg .fmaxBase w
  | 0x28 => decTwoSrc .ldsBase w
  | 0x29 => decTwoSrc .stsBase w
  | 0x2A => decTwoSrc .ldBase w
  | 0x2B => decTwoSrc .stBase w
  | 0x30 => decTwoReg .qaddBase w
  | 0x31 => decTwoReg .qsubBase w
  | 0x32 => decTwoReg .qmulBase w
  | _ => .error .opcode

/-- R25: the prefix word. -/
def decodePrefix (w : BitVec 32) : Except Reject Instr := do
  need (!w.getLsbD 29) .field
  let rnd ← decRnd (w.extractLsb' 26 3)
  let sat := w.extractLsb' 24 2
  need (sat != 3) .field
  need (w.extractLsb' 0 16 == 0) .field
  return .pfx rnd sat (w.getLsbD 23) (w.getLsbD 22) (w.extractLsb' 17 5) (w.getLsbD 16)

/-- Bits [31:30] select the kind of a first word (R12). -/
def isLong (w1 : BitVec 32) : Bool := w1.extractLsb' 30 2 == 2

/-- The instruction of a first word and the word after it (R12); the second is read only by a long one. -/
def decodeWords (w1 w2 : BitVec 32) : Except Reject Instr :=
  match (w1.extractLsb' 30 2).toNat with
  | 0 => .ok (.chartWord (w1.getLsbD 29) (w1.extractLsb' 27 2) (w1.extractLsb' 19 8) (w1.extractLsb' 0 19))
  | 1 => decodeBase w1
  | 2 => decodeLong w1 w2
  | _ => decodePrefix w1

/-- A word from its bytes, least significant first (R4). -/
def word32 (b0 b1 b2 b3 : BitVec 8) : BitVec 32 := b3 ++ b2 ++ b1 ++ b0

/-- The instruction at the head of the bytes, and the bytes it takes. -/
def decodeBytes : List (BitVec 8) → Except Reject (Instr × Nat)
  | b0 :: b1 :: b2 :: b3 :: rest =>
    let w1 := word32 b0 b1 b2 b3
    if isLong w1 then
      match rest with
      | c0 :: c1 :: c2 :: c3 :: _ => (decodeWords w1 (word32 c0 c1 c2 c3)).map (·, 8)
      | _ => .error .truncated
    else (decodeWords w1 0).map (·, 4)
  | _ => .error .truncated

/-- The `n` low bytes of a number, least significant first. -/
def bytesOf : Nat → Nat → List (BitVec 8)
  | 0, _ => []
  | n + 1, w => BitVec.ofNat 8 w :: bytesOf n (w / 256)

/-- The instruction whose bits, as the opcode table numbers them, are `w`; bits above `nbits` are zero. -/
def decodeTableWord (nbits w : Nat) : Option Instr :=
  match decodeBytes (bytesOf 8 (w % 2 ^ nbits)) with
  | .ok (i, _) => some i
  | .error _ => none

def bit1 (b : Bool) : BitVec 1 := if b then 1 else 0

/-- A field of M at its place. -/
def fieldAt {n : Nat} (lo : Nat) (x : BitVec n) : BitVec 16 := x.setWidth 16 <<< lo

def bitAt (lo : Nat) (b : Bool) : BitVec 16 := fieldAt lo (bit1 b)

/-- W1 of a long instruction (R19). -/
def packW1 (h : Head) (op : BitVec 9) (x : BitVec 11) : BitVec 32 :=
  0b10#2 ++ bit1 h.ch ++ h.st.extractLsb' 0 2 ++ op ++ h.g ++ h.st.extractLsb' 2 2 ++ x

/-- The two words of a long instruction of layout L3, LM or LI (R20). -/
def packLong (l : Layout) (h : Head) (op : BitVec 9) (r : Raw) : List (BitVec 32) :=
  match l with
  | .l3 => [packW1 h op (r.c ++ r.m.extractLsb' 5 2), r.d ++ r.a ++ r.b ++ r.m.extractLsb' 0 5]
  | .lm => [packW1 h op (r.m.extractLsb' 5 11), r.d ++ r.a ++ r.b ++ r.m.extractLsb' 0 5]
  | .li => [packW1 h op (r.m.extractLsb' 0 11), r.d ++ r.a ++ r.i]
  | .lw => [packW1 h op (r.d ++ r.m.extractLsb' 0 2), 0]

/-- The two words of a long instruction of layout LW (R20, R34). -/
def packLW (h : Head) (op : BitVec 9) (d : BitVec 9) (m : BitVec 2) (i : BitVec 32) : List (BitVec 32) :=
  [packW1 h op (d ++ m), i]

/-- A base word (R16). -/
def packBase (h : Head) (op : BitVec 7) (d : BitVec 6) (a b : BitVec 7) : List (BitVec 32) :=
  [0b01#2 ++ bit1 h.ch ++ h.st.extractLsb' 0 2 ++ op ++ d ++ a ++ b]

/-- The words of an instruction, written from the same tables (R16, R19, R20, R25, R34, R43).  An event
has no words. -/
def encode : Instr → List (BitVec 32)
  | .nop h => packBase h 0x00 0 0 0
  | .pfx rnd sat ftz nox go gv => [(0b110#3 ++ rnd.code ++ sat ++ bit1 ftz ++ bit1 nox ++ go ++ bit1 gv ++ 0#16 : BitVec 32)]
  | .chartWord ch st ix f => [(0b00#2 ++ bit1 ch ++ st ++ ix ++ f : BitVec 32)]
  | .bind h wait => [(0b01#2 ++ bit1 h.ch ++ h.st.setWidth 2 ++ 0x01#7 ++ wait ++ 0#12 : BitVec 32)]
  | .ifence h => packBase h 0x02 0 0 0
  | .rcv h => packBase h 0x03 0 0 0
  | .fend h => packBase h 0x04 0 0 0
  | .yield h => packBase h 0x05 0 0 0
  | .exit h => packBase h 0x06 0 0 0
  | .movBase h d a => packBase h 0x08 d a.codeBase 119
  | .movsBase h d a => packBase h 0x09 d a.codeBase 119
  | .taggetBase h d a => packBase h 0x0A d a.codeBase 119
  | .tagsetBase h d a tag => packBase h 0x0B d a.codeBase (tag.code.setWidth 7)
  | .addBase h d a b => packBase h 0x10 d a.codeBase b.codeBase
  | .subBase h d a b => packBase h 0x11 d a.codeBase b.codeBase
  | .mulBase h d a b => packBase h 0x12 d a.codeBase b.codeBase
  | .mulhiIBase h d a b => packBase h 0x13 d a.codeBase b.codeBase
  | .mulhiUiBase h d a b => packBase h 0x14 d a.codeBase b.codeBase
  | .minIBase h d a b => packBase h 0x15 d a.codeBase b.codeBase
  | .minUiBase h d a b => packBase h 0x16 d a.codeBase b.codeBase
  | .maxIBase h d a b => packBase h 0x17 d a.codeBase b.codeBase
  | .maxUiBase h d a b => packBase h 0x18 d a.codeBase b.codeBase
  | .andBase h d a b => packBase h 0x19 d a.codeBase b.codeBase
  | .orBase h d a b => packBase h 0x1A d a.codeBase b.codeBase
  | .xorBase h d a b => packBase h 0x1B d a.codeBase b.codeBase
  | .shlBase h d a b => packBase h 0x1C d a.codeBase b.codeBase
  | .shrBase h d a b => packBase h 0x1D d a.codeBase b.codeBase
  | .sarBase h d a b => packBase h 0x1E d a.codeBase b.codeBase
  | .rotBase h d a b => packBase h 0x1F d a.codeBase b.codeBase
  | .faddBase h d a b => packBase h 0x20 d a.codeBase b.codeBase
  | .fsubBase h d a b => packBase h 0x21 d a.codeBase b.codeBase
  | .fmulBase h d a b => packBase h 0x22 d a.codeBase b.codeBase
  | .fminBase h d a b => packBase h 0x23 d a.codeBase b.codeBase
  | .fmaxBase h d a b => packBase h 0x24 d a.codeBase b.codeBase
  | .ldsBase h d a b => packBase h 0x28 d a.codeBase b.codeBase
  | .stsBase h d a b => packBase h 0x29 d a.codeBase b.codeBase
  | .ldBase h d a b => packBase h 0x2A d a.codeBase b.codeBase
  | .stBase h d a b => packBase h 0x2B d a.codeBase b.codeBase
  | .qaddBase h d a b => packBase h 0x30 d a.codeBase b.codeBase
  | .qsubBase h d a b => packBase h 0x31 d a.codeBase b.codeBase
  | .qmulBase h d a b => packBase h 0x32 d a.codeBase b.codeBase
  | .chartld h a off slot blk => packLong .li h 0x001 { Raw.none with d := 327, a := (codeS a), i := off, m := fieldAt 0 slot ||| fieldAt 3 blk }
  | .chartrd h d a off => packLong .li h 0x002 { Raw.none with d := (codeS d), a := a.code, i := off, m := 0 }
  | .bindBr h wait ofs => packLW h 0x008 327 0 (wait ++ ofs)
  | .bindBc h n wait ofs => packLW h 0x009 (codeS n) 0 (wait ++ ofs)
  | .bindCall h d wait ofs => packLW h 0x00A d.code 0 (wait ++ ofs)
  | .bindRet h r wait => packLW h 0x00B r.code 0 (wait ++ 0#24)
  | .bindJmp h r wait ofs => packLW h 0x00C r.code 0 (wait ++ ofs)
  | .fork h d a off => packLong .li h 0x010 { Raw.none with d := d.code, a := a.code, i := off, m := 0 }
  | .elect h d pn => packLong .lm h 0x011 { Raw.none with d := d.code, a := 327, b := 327, m := fieldAt 0 pn }
  | .vote h d pk mode pn => packLong .lm h 0x012 { Raw.none with d := d.code, a := 327, b := 327, m := fieldAt 0 pk ||| fieldAt 4 mode ||| fieldAt 6 pn }
  | .phase h n => packLong .li h 0x013 { Raw.none with d := 327, a := 327, i := n, m := 0 }
  | .sysc h n => packLong .li h 0x014 { Raw.none with d := 327, a := 327, i := n, m := 0 }
  | .trap h n => packLong .li h 0x018 { Raw.none with d := 327, a := 327, i := n, m := 0 }
  | .eret h a mode => packLong .lm h 0x019 { Raw.none with d := 327, a := a.code, b := 327, m := fieldAt 0 mode }
  | .csrr h d csr => packLong .li h 0x01A { Raw.none with d := d.code, a := 327, i := csr, m := 0 }
  | .csrw h a csr => packLong .li h 0x01B { Raw.none with d := 327, a := a.code, i := csr, m := 0 }
  | .csrx h d a csr op => packLong .li h 0x01C { Raw.none with d := d.code, a := a.code, i := csr, m := fieldAt 0 op }
  | .halt h => packLong .lm h 0x01D { Raw.none with d := 327, a := 327, b := 327, m := 0 }
  | .wfi h a => packLong .lm h 0x01E { Raw.none with d := 327, a := a.code, b := 327, m := 0 }
  | .mov h d a => packLong .lm h 0x020 { Raw.none with d := d.code, a := a.code, b := 327, m := 0 }
  | .movi h d mode imm => packLW h 0x021 d.code mode imm
  | .movs h d a => packLong .lm h 0x022 { Raw.none with d := (codeS d), a := a.code, b := 327, m := 0 }
  | .tagset h d a tag => packLong .lm h 0x023 { Raw.none with d := d.code, a := a.code, b := 327, m := fieldAt 0 tag.code }
  | .tagsetFl h a => packLong .lm h 0x023 { Raw.none with d := 327, a := a.code, b := 327, m := 0x20 }
  | .tagget h d a => packLong .lm h 0x024 { Raw.none with d := d.code, a := a.code, b := 327, m := 0 }
  | .taggetFl h d => packLong .lm h 0x024 { Raw.none with d := d.code, a := 327, b := 327, m := 0x20 }
  | .add h d a b f ui => packLong .lm h 0x040 { Raw.none with d := d.code, a := a.code, b := b.code, m := fieldAt 0 f.code ||| bitAt 4 ui }
  | .sub h d a b f ui => packLong .lm h 0x041 { Raw.none with d := d.code, a := a.code, b := b.code, m := fieldAt 0 f.code ||| bitAt 4 ui }
  | .mul h d a b f ui => packLong .lm h 0x042 { Raw.none with d := d.code, a := a.code, b := b.code, m := fieldAt 0 f.code ||| bitAt 4 ui }
  | .mulhi h d a b f ui => packLong .lm h 0x043 { Raw.none with d := d.code, a := a.code, b := b.code, m := fieldAt 0 f.code ||| bitAt 4 ui }
  | .mad h d a b c f ui => packLong .l3 h 0x044 { Raw.none with d := d.code, a := a.code, b := b.code, c := c.code, m := fieldAt 0 f.code ||| bitAt 4 ui }
  | .div h d a b f ui => packLong .lm h 0x045 { Raw.none with d := d.code, a := a.code, b := b.code, m := fieldAt 0 f.code ||| bitAt 4 ui }
  | .rem h d a b f ui => packLong .lm h 0x046 { Raw.none with d := d.code, a := a.code, b := b.code, m := fieldAt 0 f.code ||| bitAt 4 ui }
  | .min h d a b f ui => packLong .lm h 0x047 { Raw.none with d := d.code, a := a.code, b := b.code, m := fieldAt 0 f.code ||| bitAt 4 ui }
  | .max h d a b f ui => packLong .lm h 0x048 { Raw.none with d := d.code, a := a.code, b := b.code, m := fieldAt 0 f.code ||| bitAt 4 ui }
  | .abs h d a f => packLong .lm h 0x049 { Raw.none with d := d.code, a := a.code, b := 327, m := fieldAt 0 f.code }
  | .neg h d a f => packLong .lm h 0x04A { Raw.none with d := d.code, a := a.code, b := 327, m := fieldAt 0 f.code }
  | .and h d a b f => packLong .lm h 0x04B { Raw.none with d := d.code, a := a.code, b := b.code, m := fieldAt 0 f.code }
  | .or h d a b f => packLong .lm h 0x04C { Raw.none with d := d.code, a := a.code, b := b.code, m := fieldAt 0 f.code }
  | .xor h d a b f => packLong .lm h 0x04D { Raw.none with d := d.code, a := a.code, b := b.code, m := fieldAt 0 f.code }
  | .andn h d a b f => packLong .lm h 0x04E { Raw.none with d := d.code, a := a.code, b := b.code, m := fieldAt 0 f.code }
  | .not h d a f => packLong .lm h 0x04F { Raw.none with d := d.code, a := a.code, b := 327, m := fieldAt 0 f.code }
  | .shl h d a b f => packLong .lm h 0x050 { Raw.none with d := d.code, a := a.code, b := b.code, m := fieldAt 0 f.code }
  | .shr h d a b f => packLong .lm h 0x051 { Raw.none with d := d.code, a := a.code, b := b.code, m := fieldAt 0 f.code }
  | .sar h d a b f => packLong .lm h 0x052 { Raw.none with d := d.code, a := a.code, b := b.code, m := fieldAt 0 f.code }
  | .rot h d a b f => packLong .lm h 0x053 { Raw.none with d := d.code, a := a.code, b := b.code, m := fieldAt 0 f.code }
  | .clz h d a f => packLong .lm h 0x054 { Raw.none with d := d.code, a := a.code, b := 327, m := fieldAt 0 f.code }
  | .popc h d a f => packLong .lm h 0x055 { Raw.none with d := d.code, a := a.code, b := 327, m := fieldAt 0 f.code }
  | .cmp h d a b f ui cond pn any => packLong .lm h 0x056 { Raw.none with d := d.code, a := a.code, b := b.code, m := fieldAt 0 f.code ||| bitAt 4 ui ||| fieldAt 5 cond ||| fieldAt 8 pn ||| bitAt 12 any }
  | .sel h d a b c f => packLong .l3 h 0x057 { Raw.none with d := d.code, a := a.code, b := b.code, c := c.code, m := fieldAt 0 f.code }
  | .addi h d a imm f ui => packLong .li h 0x058 { Raw.none with d := d.code, a := a.code, i := imm, m := fieldAt 0 f.code ||| bitAt 4 ui }
  | .pand h pd pa pb na nb => packLong .lm h 0x060 { Raw.none with d := 327, a := 327, b := 327, m := fieldAt 0 pd ||| fieldAt 4 pa ||| fieldAt 8 pb ||| bitAt 12 na ||| bitAt 13 nb }
  | .por h pd pa pb na nb => packLong .lm h 0x061 { Raw.none with d := 327, a := 327, b := 327, m := fieldAt 0 pd ||| fieldAt 4 pa ||| fieldAt 8 pb ||| bitAt 12 na ||| bitAt 13 nb }
  | .pxor h pd pa pb na nb => packLong .lm h 0x062 { Raw.none with d := 327, a := 327, b := 327, m := fieldAt 0 pd ||| fieldAt 4 pa ||| fieldAt 8 pb ||| bitAt 12 na ||| bitAt 13 nb }
  | .pnot h pd pa na => packLong .lm h 0x063 { Raw.none with d := 327, a := 327, b := 327, m := fieldAt 0 pd ||| fieldAt 4 pa ||| bitAt 12 na }
  | .pget h d => packLong .lm h 0x064 { Raw.none with d := (d.setWidth 9), a := 327, b := 327, m := 0 }
  | .pset h a mask => packLong .lm h 0x065 { Raw.none with d := 327, a := a.code, b := 327, m := fieldAt 1 mask }
  | .fadd h d a b f rnd => packLong .lm h 0x080 { Raw.none with d := d.code, a := a.code, b := b.code, m := fieldAt 0 f.code ||| fieldAt 5 rnd.code }
  | .fsub h d a b f rnd => packLong .lm h 0x081 { Raw.none with d := d.code, a := a.code, b := b.code, m := fieldAt 0 f.code ||| fieldAt 5 rnd.code }
  | .fmul h d a b f rnd => packLong .lm h 0x082 { Raw.none with d := d.code, a := a.code, b := b.code, m := fieldAt 0 f.code ||| fieldAt 5 rnd.code }
  | .fma h d a b c f => packLong .l3 h 0x083 { Raw.none with d := d.code, a := a.code, b := b.code, c := c.code, m := fieldAt 0 f.code }
  | .fmin h d a b f => packLong .lm h 0x084 { Raw.none with d := d.code, a := a.code, b := b.code, m := fieldAt 0 f.code }
  | .fmax h d a b f => packLong .lm h 0x085 { Raw.none with d := d.code, a := a.code, b := b.code, m := fieldAt 0 f.code }
  | .fabs h d a f => packLong .lm h 0x086 { Raw.none with d := d.code, a := a.code, b := 327, m := fieldAt 0 f.code }
  | .fneg h d a f => packLong .lm h 0x087 { Raw.none with d := d.code, a := a.code, b := 327, m := fieldAt 0 f.code }
  | .fcmp h d a b f cond pn any => packLong .lm h 0x088 { Raw.none with d := d.code, a := a.code, b := b.code, m := fieldAt 0 f.code ||| fieldAt 5 cond ||| fieldAt 8 pn ||| bitAt 12 any }
  | .fdiv h d a b f rnd => packLong .lm h 0x089 { Raw.none with d := d.code, a := a.code, b := b.code, m := fieldAt 0 f.code ||| fieldAt 5 rnd.code }
  | .fsqrt h d a f rnd => packLong .lm h 0x08A { Raw.none with d := d.code, a := a.code, b := 327, m := fieldAt 0 f.code ||| fieldAt 5 rnd.code }
  | .fdot h d a b c f => packLong .l3 h 0x08B { Raw.none with d := d.code, a := a.code, b := b.code, c := c.code, m := fieldAt 0 f.code }
  | .rcp h d a f => packLong .lm h 0x090 { Raw.none with d := d.code, a := a.code, b := 327, m := fieldAt 0 f.code }
  | .rsqrt h d a f => packLong .lm h 0x091 { Raw.none with d := d.code, a := a.code, b := 327, m := fieldAt 0 f.code }
  | .exp2 h d a f => packLong .lm h 0x092 { Raw.none with d := d.code, a := a.code, b := 327, m := fieldAt 0 f.code }
  | .log2 h d a f => packLong .lm h 0x093 { Raw.none with d := d.code, a := a.code, b := 327, m := fieldAt 0 f.code }
  | .sin h d a f => packLong .lm h 0x094 { Raw.none with d := d.code, a := a.code, b := 327, m := fieldAt 0 f.code }
  | .cos h d a f => packLong .lm h 0x095 { Raw.none with d := d.code, a := a.code, b := 327, m := fieldAt 0 f.code }
  | .tanh h d a f => packLong .lm h 0x096 { Raw.none with d := d.code, a := a.code, b := 327, m := fieldAt 0 f.code }
  | .cvt h d a f ui rnd sf => packLong .lm h 0x0A0 { Raw.none with d := d.code, a := a.code, b := 327, m := fieldAt 0 f.code ||| bitAt 4 ui ||| fieldAt 5 rnd.code ||| fieldAt 8 sf.code }
  | .pack h d a b f ui rnd => packLong .lm h 0x0A1 { Raw.none with d := d.code, a := a.code, b := b.code, m := fieldAt 0 f.code ||| bitAt 4 ui ||| fieldAt 5 rnd.code }
  | .unpack h d a f ui hi => packLong .lm h 0x0A2 { Raw.none with d := d.code, a := a.code, b := 327, m := fieldAt 0 f.code ||| bitAt 4 ui ||| bitAt 5 hi }
  | .shfl h d a b f mode seg => packLong .lm h 0x0A8 { Raw.none with d := d.code, a := a.code, b := b.code, m := fieldAt 0 f.code ||| fieldAt 5 mode ||| fieldAt 8 seg }
  | .bcast h d a b f seg => packLong .lm h 0x0A9 { Raw.none with d := d.code, a := a.code, b := b.code, m := fieldAt 0 f.code ||| fieldAt 8 seg }
  | .lreduce h d a f ui op seg rnd => packLong .lm h 0x0AA { Raw.none with d := d.code, a := a.code, b := 327, m := fieldAt 0 f.code ||| bitAt 4 ui ||| fieldAt 5 op ||| fieldAt 8 seg ||| fieldAt 13 rnd.code }
  | .lscan h d a f ui op seg excl rnd => packLong .lm h 0x0AB { Raw.none with d := d.code, a := a.code, b := 327, m := fieldAt 0 f.code ||| bitAt 4 ui ||| fieldAt 5 op ||| fieldAt 8 seg ||| bitAt 12 excl ||| fieldAt 13 rnd.code }
  | .swiz h d a f pat => packLong .lm h 0x0AC { Raw.none with d := d.code, a := a.code, b := 327, m := fieldAt 0 f.code ||| fieldAt 5 pat }
  | .qset h a f qm => packLong .lm h 0x0C0 { Raw.none with d := 327, a := a.code, b := 327, m := fieldAt 0 f.code ||| fieldAt 5 qm }
  | .qadd h d a b f qm => packLong .lm h 0x0C1 { Raw.none with d := d.code, a := a.code, b := b.code, m := fieldAt 0 f.code ||| fieldAt 5 qm }
  | .qsub h d a b f qm => packLong .lm h 0x0C2 { Raw.none with d := d.code, a := a.code, b := b.code, m := fieldAt 0 f.code ||| fieldAt 5 qm }
  | .qmul h d a b f qm => packLong .lm h 0x0C3 { Raw.none with d := d.code, a := a.code, b := b.code, m := fieldAt 0 f.code ||| fieldAt 5 qm }
  | .qmac h d a b c f qm => packLong .l3 h 0x0C4 { Raw.none with d := d.code, a := a.code, b := b.code, c := c.code, m := fieldAt 0 f.code ||| fieldAt 5 qm }
  | .qred h d a f ui qm => packLong .lm h 0x0C5 { Raw.none with d := d.code, a := a.code, b := 327, m := fieldAt 0 f.code ||| bitAt 4 ui ||| fieldAt 5 qm }
  | .qbfly h d a b c f qm => packLong .l3 h 0x0C6 { Raw.none with d := (d.setWidth 9), a := a.code, b := b.code, c := c.code, m := fieldAt 0 f.code ||| fieldAt 5 qm }
  | .qibfly h d a b c f qm => packLong .l3 h 0x0C7 { Raw.none with d := (d.setWidth 9), a := a.code, b := b.code, c := c.code, m := fieldAt 0 f.code ||| fieldAt 5 qm }
  | .hperm h d a b f seg => packLong .l3 h 0x0C8 { Raw.none with d := d.code, a := a.code, b := b.code, c := 327, m := fieldAt 0 f.code ||| fieldAt 4 seg }
  | .hauto h d a b f qm seg => packLong .lm h 0x0C9 { Raw.none with d := d.code, a := a.code, b := b.code, m := fieldAt 0 f.code ||| fieldAt 5 qm ||| fieldAt 7 seg }
  | .mma h d a b slot keep f16 => packLong .lm h 0x0E0 { Raw.none with d := d.code, a := (a.setWidth 9), b := b.code, m := fieldAt 0 slot ||| bitAt 3 keep ||| bitAt 4 f16 }
  | .mmai h d a b slot keep ua ub => packLong .lm h 0x0E1 { Raw.none with d := d.code, a := (a.setWidth 9), b := b.code, m := fieldAt 0 slot ||| bitAt 3 keep ||| bitAt 4 ua ||| bitAt 5 ub }
  | .mmag h d a b slot keep gq8 grp => packLong .lm h 0x0E2 { Raw.none with d := d.code, a := (a.setWidth 9), b := b.code, m := fieldAt 0 slot ||| bitAt 3 keep ||| bitAt 4 gq8 ||| fieldAt 5 grp }
  | .mmac h d a b slot keep => packLong .lm h 0x0E3 { Raw.none with d := d.code, a := (a.setWidth 9), b := b.code, m := fieldAt 0 slot ||| bitAt 3 keep }
  | .accalloc h d slot => packLong .lm h 0x0E8 { Raw.none with d := (codeS d), a := 327, b := 327, m := fieldAt 0 slot }
  | .acctry h d slot pn => packLong .lm h 0x0E9 { Raw.none with d := (codeS d), a := 327, b := 327, m := fieldAt 0 slot ||| fieldAt 3 pn }
  | .accfree h d slot => packLong .lm h 0x0EA { Raw.none with d := d.code, a := 327, b := 327, m := fieldAt 0 slot }
  | .acczero h d slot => packLong .lm h 0x0EB { Raw.none with d := d.code, a := 327, b := 327, m := fieldAt 0 slot }
  | .accld h d a off slot tag => packLong .li h 0x0EC { Raw.none with d := d.code, a := (codeS a), i := off, m := fieldAt 0 slot ||| fieldAt 3 tag.code }
  | .accst h d a off slot => packLong .li h 0x0ED { Raw.none with d := d.code, a := (codeS a), i := off, m := fieldAt 0 slot }
  | .mread h d a slot half g => packLong .lm h 0x0EE { Raw.none with d := (d.setWidth 9), a := a.code, b := 327, m := fieldAt 0 slot ||| bitAt 3 half ||| fieldAt 4 g }
  | .lds h d a off f => packLong .li h 0x100 { Raw.none with d := d.code, a := a.code, i := off, m := fieldAt 0 f.code }
  | .sts h d a off => packLong .li h 0x101 { Raw.none with d := d.code, a := a.code, i := off, m := 0 }
  | .ldsfe h d a off f => packLong .li h 0x102 { Raw.none with d := d.code, a := a.code, i := off, m := fieldAt 0 f.code }
  | .stsfe h d a off => packLong .li h 0x103 { Raw.none with d := d.code, a := a.code, i := off, m := 0 }
  | .sfe h a off full => packLong .li h 0x104 { Raw.none with d := 327, a := a.code, i := off, m := bitAt 0 full }
  | .tlook h d a region pn => packLong .lm h 0x108 { Raw.none with d := d.code, a := a.code, b := 327, m := fieldAt 0 region ||| fieldAt 4 pn }
  | .tset h a b region => packLong .lm h 0x109 { Raw.none with d := 327, a := a.code, b := b.code, m := fieldAt 0 region }
  | .tinv h b region => packLong .lm h 0x10A { Raw.none with d := 327, a := 327, b := b.code, m := fieldAt 0 region }
  | .racq h d a pn => packLong .lm h 0x110 { Raw.none with d := (codeS d), a := a.code, b := 327, m := fieldAt 0 pn }
  | .rpub h a b => packLong .lm h 0x111 { Raw.none with d := 327, a := a.code, b := b.code, m := 0 }
  | .rtake h d a pn => packLong .lm h 0x112 { Raw.none with d := (codeS d), a := a.code, b := 327, m := fieldAt 0 pn }
  | .rrel h a b => packLong .lm h 0x113 { Raw.none with d := 327, a := a.code, b := b.code, m := 0 }
  | .barinit h a b => packLong .lm h 0x118 { Raw.none with d := 327, a := a.code, b := b.code, m := 0 }
  | .bararr h d a b => packLong .lm h 0x119 { Raw.none with d := d.code, a := a.code, b := b.code, m := 0 }
  | .barwait h a b => packLong .lm h 0x11A { Raw.none with d := 327, a := a.code, b := b.code, m := 0 }
  | .ld h d a off slot f acq scope => packLong .li h 0x120 { Raw.none with d := d.code, a := a.code, i := off, m := fieldAt 0 slot ||| fieldAt 3 f.code ||| bitAt 7 acq ||| fieldAt 8 scope }
  | .st h d a off slot rel scope => packLong .li h 0x121 { Raw.none with d := d.code, a := a.code, i := off, m := fieldAt 0 slot ||| bitAt 7 rel ||| fieldAt 8 scope }
  | .atom h d a b c slot op => packLong .l3 h 0x122 { Raw.none with d := d.code, a := a.code, b := b.code, c := c.code, m := fieldAt 0 slot ||| fieldAt 3 op }
  | .redms h a b f ui op => packLong .lm h 0x123 { Raw.none with d := 327, a := a.code, b := b.code, m := fieldAt 0 f.code ||| bitAt 4 ui ||| fieldAt 5 op }
  | .pref h a off level => packLong .li h 0x124 { Raw.none with d := 327, a := a.code, i := off, m := fieldAt 0 level }
  | .fence h k scope classes => packLong .lm h 0x128 { Raw.none with d := 327, a := 327, b := 327, m := fieldAt 0 k ||| fieldAt 3 scope ||| fieldAt 6 classes }
  | .waitf h k => packLong .lm h 0x129 { Raw.none with d := 327, a := 327, b := 327, m := fieldAt 0 k }
  | .waitv h d a b c scope => packLong .l3 h 0x12A { Raw.none with d := d.code, a := a.code, b := b.code, c := c.code, m := fieldAt 0 scope }
  | .wakev h d a b slot scope => packLong .lm h 0x12B { Raw.none with d := d.code, a := a.code, b := b.code, m := fieldAt 0 slot ||| fieldAt 3 scope }
  | .copy h d a b slot map s2g ring cf bar => packLong .lm h 0x140 { Raw.none with d := d.code, a := (codeS a), b := b.code, m := fieldAt 0 slot ||| fieldAt 3 map ||| bitAt 8 s2g ||| bitAt 9 ring ||| fieldAt 10 cf ||| bitAt 14 bar }
  | .copyl h d a b c slot dir bar => packLong .l3 h 0x141 { Raw.none with d := d.code, a := a.code, b := b.code, c := c.code, m := fieldAt 0 slot ||| fieldAt 3 dir ||| bitAt 5 bar }
  | .cmap h a off slot map => packLong .li h 0x142 { Raw.none with d := 327, a := (codeS a), i := off, m := fieldAt 0 slot ||| fieldAt 3 map }
  | .stgpost h d a b slot => packLong .lm h 0x148 { Raw.none with d := d.code, a := a.code, b := b.code, m := fieldAt 0 slot }
  | .stgadv h a b fin => packLong .lm h 0x149 { Raw.none with d := 327, a := a.code, b := b.code, m := bitAt 0 fin }
  | .npost h d a b slot => packLong .lm h 0x150 { Raw.none with d := d.code, a := a.code, b := b.code, m := fieldAt 0 slot }
  | .ncqw h d a b scope t => packLong .lm h 0x151 { Raw.none with d := d.code, a := a.code, b := b.code, m := fieldAt 0 scope ||| fieldAt 3 t }
  | .launch h d a b slot => packLong .lm h 0x158 { Raw.none with d := d.code, a := a.code, b := b.code, m := fieldAt 0 slot }
  | .rngset h a b slot n => packLong .lm h 0x160 { Raw.none with d := 327, a := (codeS a), b := b.code, m := fieldAt 0 slot ||| fieldAt 3 n }
  | .atinv h a b slot mode => packLong .lm h 0x161 { Raw.none with d := 327, a := a.code, b := b.code, m := fieldAt 0 slot ||| fieldAt 3 mode }
  | .pgq h d a b slot => packLong .lm h 0x162 { Raw.none with d := d.code, a := a.code, b := b.code, m := fieldAt 0 slot }
  | .ecreate h d a slot => packLong .lm h 0x168 { Raw.none with d := (codeS d), a := a.code, b := 327, m := fieldAt 0 slot }
  | .eadd h d a slot => packLong .lm h 0x169 { Raw.none with d := (codeS d), a := a.code, b := 327, m := fieldAt 0 slot }
  | .eaddDev h d a slot => packLong .lm h 0x169 { Raw.none with d := (codeS d), a := a.code, b := 327, m := fieldAt 0 slot ||| 0x8 }
  | .einit h d a slot => packLong .lm h 0x16A { Raw.none with d := (codeS d), a := a.code, b := 327, m := fieldAt 0 slot }
  | .eenter h d a b => packLong .lm h 0x16B { Raw.none with d := (codeS d), a := a.code, b := b.code, m := 0 }
  | .eexit h => packLong .lm h 0x16C { Raw.none with d := 327, a := 327, b := 327, m := 0 }
  | .eseal h d a slot => packLong .lm h 0x16D { Raw.none with d := (codeS d), a := (codeS a), b := 327, m := fieldAt 0 slot }
  | .eunseal h d a slot => packLong .lm h 0x16E { Raw.none with d := (codeS d), a := (codeS a), b := 327, m := fieldAt 0 slot }
  | .ereport h d a b slot => packLong .lm h 0x16F { Raw.none with d := (codeS d), a := a.code, b := b.code, m := fieldAt 0 slot }
  | .edestroy h d a slot => packLong .lm h 0x170 { Raw.none with d := (codeS d), a := a.code, b := 327, m := fieldAt 0 slot }
  | .chartldCommit .. => []
  | .runSlotFill .. => []
  | .starvationPromote .. => []
  | .waitSetLateSplit .. => []
  | .handlerTake .. => []
  | .trapRecordWrite .. => []
  | .trapResponse .. => []
  | .sliceExpiry .. => []
  | .plySave .. => []
  | .forcedFullSave .. => []
  | .skeinSave .. => []
  | .plyRestore .. => []
  | .skeinRestore .. => []
  | .memoryReply .. => []
  | .memorySideAtomic .. => []
  | .memorySideReduce .. => []
  | .waitvTimeout .. => []
  | .ncqwTimeout .. => []
  | .wfiTimeout .. => []
  | .hubCoreStart .. => []
  | .pairOpBegin .. => []
  | .pairOpRetire .. => []
  | .accallocSettle .. => []
  | .accTransferComplete .. => []
  | .pairOpTimeout .. => []
  | .pairReset .. => []
  | .pairResetComplete .. => []
  | .ringAcquireServe .. => []
  | .ringTakeServe .. => []
  | .copyEngineStart .. => []
  | .enginePageResume .. => []
  | .engineBarrierArrive .. => []
  | .copyComplete .. => []
  | .cmapComplete .. => []
  | .hubCopyDoorbell .. => []
  | .hubCopyDescriptor .. => []
  | .hubCopyComplete .. => []
  | .stgpostSettle .. => []
  | .stageBlockRequest .. => []
  | .stageBlockComplete .. => []
  | .stageLeaseRevoke .. => []
  | .stageDrainTimeout .. => []
  | .monitorSettle .. => []
  | .rngsetUpdate .. => []
  | .atinvDrop .. => []
  | .pgqReply .. => []
  | .promotion2mib .. => []
  | .promotion1gib .. => []
  | .kick .. => []
  | .qbaseWrite .. => []
  | .qcfgWrite .. => []
  | .launchStart .. => []
  | .skeinAdmit .. => []
  | .launchComplete .. => []
  | .queueLevelRise .. => []
  | .admissionReclaim .. => []
  | .admitLimitUpdate .. => []
  | .speculationStart .. => []
  | .speculationClaim .. => []
  | .gaugeOverrun .. => []
  | .gaugeHangTimeout .. => []
  | .peerLoss .. => []
  | .fabricRead .. => []
  | .fabricWrite .. => []
  | .fabricAtomic .. => []
  | .fabricArithmetic .. => []
  | .fabricProbe .. => []
  | .fabricWaitEnter .. => []
  | .fabricWake .. => []
  | .fabricReadResponse .. => []
  | .fabricWriteAck .. => []
  | .fabricAtomicResponse .. => []
  | .fabricArithmeticAck .. => []
  | .fabricProbeResponse .. => []
  | .fabricWaitResponse .. => []
  | .fabricFaultResponse .. => []
  | .ucieFlitReceive .. => []
  | .scaleupFlitReceive .. => []
  | .ueWrite .. => []
  | .ueRead .. => []
  | .ueWinset .. => []
  | .ueKeyset .. => []
  | .netPacketReceive .. => []
  | .netReadRequestReceive .. => []
  | .netSackTimer .. => []
  | .netAckReceive .. => []
  | .netNackReceive .. => []
  | .netRetransmitTimeout .. => []
  | .netRequestEnd .. => []
  | .partitionCreate .. => []
  | .partitionGrow .. => []
  | .partitionShrink .. => []
  | .partitionDestroy .. => []
  | .budgetSet .. => []
  | .trapRingRegister .. => []
  | .levelCeilingSet .. => []
  | .portMtuSet .. => []
  | .jobIdSet .. => []
  | .firmwareUpdate .. => []
  | .featuresOk .. => []
  | .notifyRequest .. => []
  | .budgetPeriod .. => []
  | .tensionReport .. => []
  | .marginTest .. => []
  | .healthConfirm .. => []
  | .firmwareWatchdog .. => []
  | .packageReset .. => []
  | .scrub .. => []
  | .pcieIngressWrite .. => []
  | .tdispTlpReceive .. => []
  | .tdispInterfaceExit .. => []
  | .getVersion .. => []
  | .getCapabilities .. => []
  | .negotiateAlgorithms .. => []
  | .getDigests .. => []
  | .getCertificate .. => []
  | .challenge .. => []
  | .getMeasurements .. => []
  | .keyExchange .. => []
  | .finish .. => []
  | .heartbeat .. => []
  | .keyUpdate .. => []
  | .endSession .. => []
  | .plyCtlWrite .. => []
  | .tvecWrite .. => []
  | .sliceCtlWrite .. => []
  | .controlRegisterWrite .. => []
  | .hubThreadSliceExpiry .. => []
  | .pcieEgress .. => []
  | .retiredUnit .. => []

end Sys2Proof
end

