-- ==== Sys2Proof/Machine/State.lean ====
section
/-! DEFINITION.  The state of the machine: plain data only.  Every record names the rules that give its fields.
Sparse maps list only what differs from their default, so that equal contents are equal data. -/

namespace Sys2Proof.Machine

/-- A map from numbers, in rising order of key, without entries equal to its default. -/
abbrev SMap (α : Type) := List (Nat × α)

/-- A v or s register or a distance temporary: 64 bits and a tag (R102, R106). -/
structure Reg where
  val : Word
  tag : Fmt
  deriving DecidableEq, Repr

/-- What every register holds before its first write (R101). -/
def Reg.zero : Reg := ⟨0, .raw⟩

/-- A modulus register (R104).  MU, Q and the flags; the zero bits are not held. -/
structure QMod where
  mu : Word
  q : Word
  wide : Bool
  valid : Bool
  bits : Nat
  deriving DecidableEq, Repr

def QMod.empty : QMod := ⟨0, 0, false, false, 0⟩

/-- One fibre of an operation: the operation's number and the fibre. -/
structure Item where
  op : Nat
  fibre : Nat
  deriving DecidableEq, Repr

/-- A fence token (R246, R258): its scope, its classes and the accesses it still covers. -/
structure Token where
  scope : Nat
  classes : BitVec 5
  covered : List Item
  deriving DecidableEq, Repr

/-- A prefix as a course keeps it (R25, R32), with the address of its word. -/
structure Pfx where
  rnd : Rnd
  sat : BitVec 2
  ftz : Bool
  nox : Bool
  go : BitVec 5
  gv : Bool
  addr : Nat
  deriving DecidableEq, Repr

/-- Validity of a distance temporary (R31) and the cycle from which it can be read: in fibres 0 to 31, and in the
others (R15, R77). -/
structure Temp where
  valid : Bool
  ready : Nat
  late : Nat
  deriving DecidableEq, Repr

/-- The run state of a course but for the values of its temporaries, which its fibres hold (R32). -/
structure Run where
  pc : Nat
  pos : Nat
  temps : List Temp        -- newest first, at most seven
  pfx : Option Pfx
  deriving DecidableEq, Repr

/-- One operation counted on a scoreboard slot of a course, with those of the course's fibres that were active
at its issue (R36, R67). -/
structure SbRef where
  op : Nat
  slot : Nat
  own : List Nat
  deriving DecidableEq, Repr

/-- What a course does (R70, R72, R84, R69; codes of R373). -/
inductive Phase where
  | ready                                -- eligible, or being issued
  | rcv                                  -- waits at an RCV (R70)
  | waitSet (mask : BitVec 8) (since : Nat)  -- held by the WAIT set of its bind (R84)
  | waiting (token : Option Nat)         -- at a WAITF of a token, or at an EXIT, whose condition is not met (R72)
  | blocked (left : List Nat)            -- issued, waits for the service of these fibres (R72)
  | parked (cause seq : Nat) (nested reported : Bool) -- R69: its place in the order of parking; in a handler
                                         -- (R360); a trap record was written (R362)
  deriving DecidableEq, Repr

/-- A course (R65). -/
structure Course where
  id : Nat
  age : Nat
  fibres : List Nat        -- in rising order
  run : Run
  phase : Phase
  sb : List SbRef
  nextIssue : Nat          -- earliest cycle of its next issue (R15); on a hub core in hub cycles (R39)
  chain : List Nat         -- pipes of the chain that is open (R14)
  chainLast : Nat          -- last beat of the instructions of the chain
  hold : Nat               -- until when what follows the chain waits (R134)
  retry : Bool             -- parked by an EXIT's deferred fault (R92 step 3) or resumed there
  deriving DecidableEq, Repr

/-- A fibre's own state (R63, R102). -/
structure Fibre where
  live : Bool
  handling : Bool          -- is in its handler (R359)
  pred : BitVec 16
  flags : BitVec 5
  eaux : Word
  info : Nat               -- where its last deferred fault arose, for a trap record (R362)
  tokens : SMap Token
  v : SMap Reg
  temps : List Reg         -- values of the course's temporaries, newest first
  deriving DecidableEq, Repr

def Fibre.dormant : Fibre := ⟨false, false, 1, 0, 0, 0, [], [], []⟩

/-- Where an in-flight fixed-latency result lands (R15, R38, R134). -/
inductive Target where
  | v (fibre n : Nat)
  | s (n : Nat)
  | p (fibre n : Nat)
  | flags (fibre : Nat)
  | qm (n : Nat) (m : QMod)
  deriving DecidableEq, Repr

/-- A fixed-latency result on its way: the cycle in which it becomes readable (that of beat 0; R77), the fibres of the
course that issued it, its place and value.  A predicate holds its bit in `val`, flags their bits. -/
structure Landing where
  time : Nat
  course : List Nat
  target : Target
  reg : Reg
  deriving DecidableEq, Repr

/-- Flipped bits that a register cell holds (R110): of a v register of a fibre or of an s register, in the codeword of one
of its quarters, 0 to 3, or of its tag, 4.  They stay until a port reads the register or it is written. -/
structure Upset where
  fibre : Option Nat
  reg : Nat
  quarter : Nat
  bits : List Nat
  deriving DecidableEq, Repr

/-- A deferred fault that is pending (R424). -/
structure Deferred where
  cause : Nat
  fibres : List Nat
  eaux : Word
  info : Nat               -- IA page, sub-code and access of the access that failed (R362)
  deriving DecidableEq, Repr

/-- The state saved when a handler takes a course (R359). -/
structure HandlerSave where
  course : Nat
  run : Run
  cause : Nat
  fibres : List Nat
  eaux : SMap Word
  temps : SMap (List Reg)
  deriving DecidableEq, Repr

/-- The gauge of a ply (R348): cycles left at `since`, from which it counts; it stands while the ply is not resident
or has no course that is not parked. -/
structure Gauge where
  phase : Nat
  left : Nat
  since : Option Nat
  deriving DecidableEq, Repr

/-- A bank of trap registers of a hub core (R356, R425). -/
structure Bank where
  status : Word
  cause : Word
  epc : Word
  eaux : Word
  tvec : Word
  taken : Bool             -- a trap was taken here and its return is outstanding
  run : Run                -- run state kept for ERET
  temps : List Reg
  deriving DecidableEq, Repr

def Run.start (pc : Nat) : Run := ⟨pc, 0, [], none⟩

def Bank.empty : Bank := ⟨0, 0, 0, 0, 0, false, Run.start 0, []⟩

/-- What the monitor keeps of the supervisor while a hub thread runs (R319, R320). -/
structure Sup where
  d : Nat                  -- the s register that EENTER names
  enc : Nat
  asid : Nat
  plyCtl : Word
  chartBase : Word
  gaugeBase : Word
  tensionBase : Word
  stale : BitVec 8
  chart : Option (SMap (BitVec 96))
  run : Run                -- the word after EENTER
  deferred : List Deferred -- its faults that are pending (R424)
  deriving DecidableEq, Repr

/-- What only a hub core has (R425, R366, R319, R320). -/
structure Hub where
  level : Nat              -- 0 user, 1 supervisor, 2 monitor
  banks : List Bank        -- by level
  halted : Bool
  stopping : Bool          -- it stops as HALT does, when its accesses have performed (R425)
  bell : Option Nat        -- the virtual page of its enclave's doorbells while a thread runs (R278)
  wfi : Option (Option Nat)    -- in WFI, with the cycle at which its timeout ends
  thread : Option (Nat × Nat)  -- the hub thread it runs: enclave and thread number
  leaving : Option (Nat × Word)  -- the thread leaves for this cause and eaux when nothing of it is outstanding (R320)
  sliceEnd : Nat           -- cycle at which the thread's slice ends
  sup : Option Sup
  deriving DecidableEq, Repr

/-- How a saved ply was saved (R367). -/
inductive SaveKind where
  | reconvergence | waiting | full
  deriving DecidableEq, Repr

/-- Residence of a ply: in its partition, or saved with its frame's buffer and version (R371). -/
inductive Residence where
  | resident
  | saved (kind : SaveKind) (buffer version : Nat)
  | ended
  deriving DecidableEq, Repr

/-- A ply (R62 to R65, R99 to R105, R356 to R359). -/
structure Ply where
  handle : Nat
  enc : Nat
  asid : Nat
  launch : Nat             -- the launch it belongs to
  skein : Nat              -- handle of its skein
  core : Nat               -- pkg × 1024 + core; hub cores from 864
  part : Nat
  slot : Nat
  base : Nat
  group : Nat
  width : Nat
  window : Nat
  level : Nat
  role : Nat               -- 0 copy, 1 matrix, 2 vector, 3 general (R334)
  index : Nat              -- %ply
  plies : Nat              -- plies of its skein
  skeinIndex : Nat         -- %skein
  hank : Nat
  cone : Nat
  fs : Bool                -- status.FS
  h : Bool                 -- status.H
  cause : Word
  epc : Word
  tvec : Word
  plyCtl : Word
  stale : BitVec 8         -- chart_id.STALE
  chart : Nat              -- chart_id.SLOT
  chartBase : Word
  gaugeBase : Word
  tensionBase : Word
  fibres : List Fibre
  courses : List Course
  s : SMap Reg
  qm : SMap QMod
  flight : List Landing
  upsets : List Upset
  deferred : List Deferred
  handler : Option HandlerSave
  gauge : Option Gauge
  overrun : Option Nat     -- cycle of a gauge overrun after which the ply is neither resumed nor ended (R348)
  lost : Option Word       -- it stops for a peer loss with this eaux (R375)
  hub : Option Hub
  residence : Residence
  saved : Option (SMap (BitVec 96) × Option (Nat × Nat × List Reg))  -- chart image and latch of its frame (R372)
  saveAsked : Option (Nat × Nat)   -- a save is requested: at this cycle; 0 its slice has ended, 1 admission (R367)
  hold : Bool              -- saved while it waits for an answer of the supervisor (R298)
  boost : Option Nat       -- saved for admission: highest level of its enclave's plies that entered WAITV since (R370)
  exiting : Option Nat     -- the course whose EXIT has passed step 1 (R92)
  eligibleSince : Nat      -- R78: since when eligible without issuing
  sliceStart : Nat         -- when its time slice began
  deriving DecidableEq, Repr

/-- What a partition has set into one of its two run slots (R72, R76): the start, and its members as handle and
course.  A packed run has several, which issue as one; once it has separated each issues by itself. -/
structure RunSlot where
  part : Nat
  start : Nat
  packed : Bool
  members : List (Nat × Nat)
  deriving DecidableEq, Repr

/-- A chart slot (R40): the kernel it serves and its 256 entries of 96 bits. -/
structure ChartSlot where
  kernel : Nat × Nat       -- ENTRY and CHART of the kernel it serves
  enc : Nat
  entries : SMap (BitVec 96)
  deriving DecidableEq, Repr

/-- An entry of an attribute TLB (R290). -/
structure TlbEntry where
  asid : Nat
  page : Nat               -- first IA of the page
  size : Nat               -- log2 of its bytes: 16, 21 or 30
  kind : Nat               -- 0 SO, 1 RC, 2 UN
  perm : BitVec 3          -- [2] read, [1] write, [0] fetch
  rperm : BitVec 3         -- [2] load, [1] store, [0] atomic
  aper : Nat
  peer : Bool
  deriving DecidableEq, Repr

/-- A granule as it travels: data and selvedge code (R237, R262). -/
structure Granule where
  data : Word
  code : Byte
  deriving DecidableEq, Repr

/-- The operand latch of a partition (R190). -/
structure Latch where
  ply : Nat
  vA : Nat
  n : Nat
  vals : List Reg          -- 32 × n values, lane by lane for each register
  deriving DecidableEq, Repr

/-- The register-bank ports of a partition that its last issue, in cycle `time`, takes (R73, R74): the cycle in which each
read or write goes through, and its port. -/
structure PortUse where
  time : Nat
  uses : List (Nat × Nat)
  deriving DecidableEq, Repr

def PortUse.none : PortUse := ⟨0, []⟩

/-- What a core holds (R40, R72, R78, R190, R224, R290, R337).  A core that is not listed holds nothing. -/
structure Core where
  id : Nat
  charts : SMap (Option ChartSlot)
  runs : List RunSlot
  rotation : List Nat      -- handles in the order in which they were chosen last (R78)
  pipeFree : SMap Nat      -- part × 4 + pipe: first cycle at which the pipe is free (R71, R133)
  ports : SMap PortUse     -- by partition (R73, R74)
  engineFree : SMap Nat    -- by engine port: first cycle at which it takes a command (R75)
  engineLast : SMap Nat    -- by engine port: the partition that it served last (R75)
  latches : SMap (Option Latch)
  tlb : List TlbEntry
  l1 : List (Nat × Granule)   -- copies by home address (R224)
  strayed : List Nat       -- partitions in which an upset strikes the next permutation (R180)
  limit : Nat
  deriving DecidableEq, Repr

/-- A range of an ASID (R285). -/
structure Range where
  valid : Bool
  bpg : Nat
  lpg : Nat
  ofs : BitVec 48
  deriving DecidableEq, Repr

def Range.off : Range := ⟨false, 0, 0, 0⟩

/-- A translation in the frame cache of a stack's memory side (R294): the stack is die × 4 + its number, page and frame are
of 64 KiB. -/
structure FrameEntry where
  stack : Nat
  asid : Nat
  page : Nat
  frame : Nat
  deriving DecidableEq, Repr

/-- A region that the promotion engine of a die is moving (R300): its snapshot of the leaves and of the level-2 entry, the
run of frames it moves them to with their GEN, and how many pages have moved. -/
structure Promo where
  die : Nat
  asid : Nat
  ia : Nat
  table : Nat
  leaves : List Nat
  upper : Nat
  run : Nat
  gen : BitVec 16
  moved : Nat
  deriving DecidableEq, Repr

/-- An ownership entry (R296). -/
structure Owner where
  state : Nat              -- 0 free, 1 owned, 2 sealed in transit, 3 monitor
  kind : Nat
  ceil : BitVec 3
  enc : Nat
  gen : BitVec 16
  iapg : Nat
  deriving DecidableEq, Repr

def Owner.free : Owner := ⟨0, 0, 0, 0, 0, 0⟩

/-- What an upset strikes (log 18): a bit of a register cell (R110), a triplicated latch of a core (R111), one of the two
datapaths of the next permutation in a partition (R180), a word of an accumulator block (R212), a granule of a carve
(R219), a line of device memory (R237). -/
inductive Strike where
  | register (ply : Nat) (fibre : Option Nat) (reg quarter bit : Nat)
  | latch (core : Nat)
  | permute (core part : Nat)
  | accumulator (core block word : Nat) (uncorrectable : Bool)
  | scratch (skein off : Nat)
  | line (addr : Nat)
  deriving DecidableEq, Repr

/-- The turn of one agent: a course of a ply issues its next instruction, `delay` cycles after the first cycle at
which it may; or an event of the opcode table takes place (log 3); or an upset strikes (log 18). -/
inductive Turn where
  | course (ply course delay : Nat)
  | event (e : Instr)
  | strike (u : Strike)
  deriving DecidableEq, Repr

/-- The instruction being executed: whose it is, where it stands and how many bytes it takes; the skeins and offsets that
the other courses of its packed run address with it (R76, R221); the cycle of its issue, where its run has fixed one (R14, R76). -/
structure Cursor where
  ply : Nat
  course : Nat
  addr : Nat
  len : Nat
  mates : List (Nat × Nat) := []
  cycle : Option Nat := none
  deriving DecidableEq, Repr

/-- What a thread of an enclave does between its runs (R320). -/
inductive ThreadState where
  | fresh                                 -- next EENTER starts it at its entry
  | running (core : Nat)
  | left (sysc : Bool)                    -- its context is saved
  deriving DecidableEq, Repr

/-- A hub thread of an enclave: its entry (R318) and the context its page holds, sealed (R320). -/
structure Thread where
  entry : Nat
  ctxIa : Nat
  chart : Nat
  state : ThreadState
  context : Option Ply
  chartSlot : Option ChartSlot
  deriving DecidableEq, Repr

/-- An entry of a saved-context table (R371). -/
structure SavedCtx where
  handle : Nat
  buffer : Nat
  version : Nat
  deriving DecidableEq, Repr

/-- An assigned device interface (R317, R327). -/
structure DevIface where
  func : Nat
  link : Nat
  slot : Nat
  stream : Nat
  rid : Nat
  run : Bool
  key : List Byte          -- of its IDE stream (R308)
  deriving DecidableEq, Repr

/-! ### Scratchpad (07) and cable pairs (06) -/

/-- A region of a carve (R216); offsets and sizes in bytes. -/
structure Region where
  kind : Nat               -- 1 plain, 2 full/empty, 3 cache, 4 ring
  p1 : Nat
  p2 : Nat
  size : Nat
  base : Nat
  deriving DecidableEq, Repr

/-- A request of LDSFE or STSFE in the queue of its word (R228): the operation, fibre and offset; a store has the
register it stores. -/
structure FeReq where
  op : Nat
  fibre : Nat
  off : Nat
  val : Option Reg
  deriving DecidableEq, Repr

/-- States of a slot of a ring (R232). -/
inductive SlotState where
  | free | acquired | published | filled | taken | released
  deriving DecidableEq, Repr

/-- A stage ring (R232): pointers counted modulo twice the slots; operations that wait to acquire and to take. -/
structure Ring where
  slots : Nat
  log : Nat
  base : Nat
  ai : Nat
  fi : Nat
  ti : Nat
  ri : Nat
  states : List SlotState
  acquirers : List Nat
  takers : List Nat
  deriving DecidableEq, Repr

/-- An arrival barrier (R235). -/
structure Barrier where
  e : Nat
  a : Nat
  ph : Bool
  ovr : Bool
  deriving DecidableEq, Repr

/-- A carve (R215 to R236): granules by number, full words, cache tags by region × 4096 + line, rotation pointers by
region × 4096 + set. -/
structure Carve where
  regions : List Region
  cells : SMap (Option Granule)
  full : SMap Bool
  tags : SMap (Option Nat)
  rot : SMap Nat
  rings : List Ring
  bars : List Barrier
  waits : List FeReq
  deriving DecidableEq, Repr

def Carve.empty : Carve := ⟨[], [], [], [], [], [], [], []⟩

/-- A held accumulator block of a skein pair (R192 to R196): its contents as 32-bit words of its image (R193). -/
structure AccBlock where
  name : Nat
  phys : Nat               -- number of the physical block on both cores
  held : Bool              -- false between ACCFREE's issue and the zeroing
  borrowed : Bool
  tag : Fmt
  words : SMap Nat
  deriving DecidableEq, Repr

/-- A skein pair on a core pair (R185, R192, R195). -/
structure PairBind where
  leader : Nat             -- handle of the skein on the leader core
  follower : Nat
  reserve : Nat
  blocks : List AccBlock
  freed : List Nat         -- cycles in which blocks of the reservation came back that are not allocated again (R205)
  deriving DecidableEq, Repr

/-- A skein (R62, R195, R225, R266, R371). -/
structure Skein where
  handle : Nat
  launch : Nat
  enc : Nat
  asid : Nat
  part : Nat               -- partition of dies
  core : Nat
  index : Nat
  plies : Nat              -- plies of the skein
  ended : Nat              -- of these, ended
  reserve : Nat            -- accumulator blocks of its reservation
  partner : Nat            -- handle of the other skein of its pair; 0 for none
  carve : Carve
  maps : SMap (Option (List Byte))
  events : Nat             -- copy event count (R274)
  restartable : Bool       -- R350
  residence : Residence
  kept : Option PairBind   -- the pair's blocks while both skeins are saved (R214)
  deriving DecidableEq, Repr

/-- A pair operation whose array cycles are over (R204): the cycle in which its slot is cleared, the registers that it then
writes, by fibre and number, and the faults that it then reports (R211). -/
structure PairEnd where
  op : Nat
  time : Nat
  regs : List (Nat × Nat × Reg)
  causes : List Nat
  deriving DecidableEq, Repr

/-- A cable pair (R185 to R187, R196, R213), named by its leader core. -/
structure Pair where
  core : Nat
  binds : List PairBind
  queue : List Nat         -- operations, in queue order
  begun : List (Nat × Nat) -- those that execute, with the cycle in which they began
  ending : List PairEnd    -- those that have left the queue and still count on their slots
  struck : List Nat        -- operations under way that read a word which an uncorrectable error struck (R212)
  taken : Nat              -- the core whose entry the queue took last (R187)
  allocs : List Nat        -- requests to the allocator, in issue order
  resetting : Bool
  deriving DecidableEq, Repr

/-! ### Launches (12) -/

/-- A launch whose descriptor has been read (R331, R332). -/
structure Launch where
  id : Nat
  enc : Nat
  asid : Nat
  part : Nat
  queue : Nat
  seq : Nat
  desc : List Byte
  args : List Word
  chart : List (BitVec 96)
  carve : Carve
  gauge : List Word
  hasMatch : Option (List Byte)
  status : Nat             -- 0, or why it is rejected (R332)
  total : Nat              -- skeins
  todo : List Nat          -- linear indices of the skeins still to be admitted, rising
  ended : Nat
  hanks : SMap (Option Nat)  -- linear hank index to physical hank (R338)
  waitSince : Option Nat   -- ready, and without room, since this cycle
  spec : Bool              -- a speculation (R342)
  deriving DecidableEq, Repr

/-- A launch queue (R328, R335, R336). -/
structure Queue where
  qbase : Nat
  base : Nat
  cap : Nat
  log : Nat
  head : Nat               -- sequence of the head
  tail : Nat               -- sequence after the last
  level : Nat
  readySince : Option Nat
  spStart : Nat
  spCommit : Nat
  spDiscard : Nat
  spCause : Nat
  served : Nat             -- when it was served last (R338)
  last : List Launch       -- the last two completed launches, newest first (R340)
  deriving DecidableEq, Repr

def Queue.off : Queue := ⟨0, 0, 0, 4, 0, 0, 0, none, 0, 0, 0, 0, 0, []⟩

/-- A speculation (R342 to R344): its launch, swatch granules and read set (lines) by intermediate address, and lines
written by others. -/
structure Spec where
  launch : Nat
  enc : Nat
  queue : Nat
  swatch : List (Nat × Granule)
  reads : List Nat
  written : List Nat
  ranges : List Range      -- the ranges at its start (R341)
  regs : List Nat          -- s registers of unread words (R341)
  words : List Nat         -- granules, by intermediate address, of unread words
  unreadHit : Bool         -- one of these was read
  peerHit : Bool           -- an engine of it wrote to a peer page (R344)
  deriving DecidableEq, Repr

/-! ### Memory operations (08, 14) -/

/-- Where a fibre's access stands. -/
inductive AccessState where
  | waiting                -- not performed
  | done                   -- performed; a response is on its way
  | asleep (deadline : Option Nat)  -- in the wait table (R260)
  | last                   -- woken by WAKEV or timed out: reads once more
  deriving DecidableEq, Repr

/-- The access of one fibre (R251). -/
structure MItem where
  fibre : Nat
  va : Nat
  ia : Nat
  home : Nat               -- APER of the home
  kind : Nat               -- 0 SO, 1 RC, 2 UN
  val : Reg
  cmp : Reg
  deadline : Option Nat
  state : AccessState
  deriving DecidableEq, Repr

inductive MemClass where
  | load | store | atom | redms | waitv | wakev | ncqw
  deriving DecidableEq, Repr

/-- A memory operation: `code` is the op of an atomic or the op, format and reading of a REDMS; `sync` marks acquire
or release. -/
structure MemOp where
  cls : MemClass
  dst : Dst
  fmt : Fmt
  code : Nat
  sync : Bool
  scope : Nat
  items : List MItem
  deriving DecidableEq, Repr

/-- A place in the wait table of a die (R259). -/
structure Waiter where
  op : Nat
  fibre : Nat
  enc : Nat
  key : Nat                -- VA / 8
  home : Nat
  addr : Nat               -- home address of the granule
  spilled : Bool
  deriving DecidableEq, Repr

/-- What a response brings (R377). -/
inductive Answer where
  | none
  | granule (g : Granule) (tagBad : Bool)
  | value (r : Reg)
  | count (n : Nat)
  | fault (cause sub : Nat)
  | attr (kind : Nat) (perm rperm : BitVec 3) (size : Nat)
  | lost                   -- the unit it went to is lost (R375)
  deriving DecidableEq, Repr

/-- A fabric message (R376, R377): a request is of one granule (log 75).  `op`, `fibre` and `core` are what its transaction
identifier stands for at the requester; `req` is the requesting die, which a response names too (R376); `held` is the die at
which it waits to go on (R383, R402); `arrived` says that it has reached the die that acts on it, `came` numbers its arrival
(R380). -/
structure Msg where
  id : Nat
  opc : Nat
  asid : Nat
  src : Nat
  dst : Nat
  ia : Nat
  so : Bool
  gmask : Nat
  tid : Nat
  seq : Nat
  arg : Nat
  sub : Nat
  line : List Granule      -- the data line and its codes; none where no line follows
  held : Option Nat
  op : Nat
  fibre : Nat
  core : Nat
  req : Nat
  arrived : Bool
  came : Nat
  answer : Answer
  deriving DecidableEq, Repr

/-- A flit of one hop (R378, R381).  `seq` is its sequence number on the link, `sent` says that it stands in the retry buffer;
its units name a message each, and of it 0 the header, and of its data line 1 and 2 the halves, or over a garment hop 1 the line. -/
structure Flit where
  id : Nat
  scaleup : Bool
  src : Nat                -- APER that sends it
  dst : Nat                -- APER that receives it
  asid : Nat
  ctr : Nat
  seq : Nat
  sent : Bool
  units : List (Nat × Nat)
  deriving DecidableEq, Repr

/-- A probe that a core waits for (R291), and its failure. -/
structure Probe where
  core : Nat
  asid : Nat
  page : Nat
  failed : Option (Nat × Nat)
  deriving DecidableEq, Repr

/-! ### Copies and the storage stage (09) -/

inductive CopyPhase where
  | queued                                  -- at the engine, not begun
  | slotWait (map : List Byte)              -- waits for a slot of its ring
  | slotReady (off : Nat) (map : List Byte)
  | held (off : Nat) (map : List Byte)      -- a page is not present (R274 step 5)
  | moved (n : Nat) (faults : List Deferred)   -- every access has performed; `n` bytes; faults for its completion
  | arrived (faults : List Deferred)
  deriving DecidableEq, Repr

/-- A stage stream (R279 to R281). -/
structure Stream where
  active : Bool
  gen : Nat
  part : Nat
  launch : Option Nat      -- of the skein that posted it; none for a hub thread
  ring : Nat
  crec : Nat
  lbs : Nat
  nb : Nat
  extents : List (List Byte)
  bytes : Nat              -- of the extents
  frames : List Nat        -- of the pages of its ring, in order (keys of ownership entries)
  recFrame : Nat           -- of its record
  c : Nat
  total : Nat
  requested : List Nat     -- blocks asked for and not completed
  next : Nat               -- next block to ask for
  done : List Nat          -- completed blocks
  errors : Nat
  draining : List (Nat × Nat)  -- frames on which its lease is being revoked, with the cycle at which draining ends
  deriving DecidableEq, Repr

def Stream.idle : Stream := ⟨false, 0, 0, none, 0, 0, 0, 0, [], 0, [], 0, 0, 0, [], 0, [], 0, []⟩

/-- A hub copy queue (R278): its ring and indices. -/
structure HubQueue where
  base : Nat
  log : Nat
  head : Nat
  tail : Nat
  deriving DecidableEq, Repr

/-! ### The network engine (14) -/

/-- A work request (R387) as the engine holds it. -/
structure NetReq where
  id : Nat
  enc : Nat
  asid : Nat
  pkg : Nat
  addr : Nat               -- VA from which NPOST read it
  bytes : List Byte
  post : Nat               -- its NPOST (R246): the operation, the ply and the fibres of the course
  ply : Nat
  fibres : List Nat
  started : Bool
  acked : List Nat         -- packets acknowledged; of a READ, placed
  retries : SMap Nat       -- retransmissions by packet
  expiries : SMap Nat      -- expiries of its timeout by packet
  sentAt : SMap Nat        -- cycle in which a packet was sent last
  status : Option Nat      -- how it ends, before its end is written
  mtu : Nat                -- payload bytes of its packets, set when it starts (R388)
  got : List (Nat × Nat)   -- of a READ: the byte ranges placed
  held : List Nat          -- packets that wait for the network budget (R386)
  deriving DecidableEq, Repr

/-- A READ of a peer whose answer waits for the network budget of the window's enclave (R386). -/
structure NetServe where
  id : Nat
  pkg : Nat
  pkt : NetPacket
  deriving DecidableEq, Repr

/-- A window (R388). -/
structure NetWindow where
  base : Nat
  len : Nat
  write : Bool
  read : Bool
  counter : Nat
  deriving DecidableEq, Repr

/-- A message being received (R389). -/
structure NetRx where
  id : Nat
  pkg : Nat
  enc : Nat
  src : Nat
  msg : Nat
  port : Nat
  total : Nat
  win : Nat
  placed : List Nat
  unacked : List Nat       -- packets not acknowledged
  last : Nat               -- cycle of the last of them
  deriving DecidableEq, Repr

/-! ### Partitions and service (13, 15) -/

/-- A trap record that awaits its answer (R362, R363), or that waits for room. -/
structure TrapRec where
  id : Nat
  part : Nat               -- package × 8 + partition
  va : Option Nat          -- where it stands; none until the ring has room
  ply : Nat
  course : Nat             -- 0 for a rejected frame
  rejected : Bool
  home : Nat               -- die of the record, where it waits for its key
  woken : Bool
  deriving DecidableEq, Repr

/-- A partition (R396, R397, R358, R369, R362), by package × 8 + number. -/
structure Partition where
  id : Nat
  dies : List Nat
  ring : Nat               -- VA of its trap ring under ASID 0; 0 for none
  ringLog : Nat
  slice : Nat              -- programmed slice in µs
  times : List Nat         -- the last 64 save-plus-restore times, newest first
  plyPool : List Nat
  skeinPool : List Nat
  closing : List Nat       -- dies whose removal is under way
  deriving DecidableEq, Repr

/-- A budget (R401) with what it has used in the period and what was held over period boundaries. -/
structure BudgetRec where
  pkg : Nat
  budget : Budget
  used : Nat
  waiting : SMap Nat       -- bytes that the requests held still owe, by operation or request
  heldBytes : Nat          -- bytes held over the end of a period, since the budget was set
  short : Bool
  deriving DecidableEq, Repr

/-- A retired unit (R400, R403, R405): kind 0 a channel of a stack (unit: stack × 32 + channel), 1 a UCIe lane (the other
die × 256 + lane), 2 a scale-up lane, 3 a die, 4 a core, 5 a core whose number its hank's spare has taken. -/
structure Retired where
  pkg : Nat
  kind : Nat
  aper : Nat
  unit : Nat
  time : Nat
  deriving DecidableEq, Repr

/-- An SPDM channel (R326). -/
structure Channel where
  pkg : Nat
  chan : Nat
  version : Bool
  caps : Bool
  algs : Bool
  transcript : List Byte   -- requests and responses since GET_VERSION, without their signatures
  session : Nat            -- 0 for none
  finished : Bool
  secret : List Byte
  reqKey : List Byte       -- keys of the session, by direction
  rspKey : List Byte
  seq : Nat                -- number of the next answer under the response key
  deriving DecidableEq, Repr

/-- A package's firmware slots and management state (R308, R395, R406, R386, R398, R402). -/
structure Pkg where
  id : Nat
  active : Nat             -- 0 for slot A, 1 for B
  versions : Nat × Nat
  images : List Byte × List Byte
  minimum : Nat
  trial : Option Nat       -- the slot written last, not yet confirmed
  trying : Option Nat      -- the cycle of the boot into it, while it is tried
  mtu : SMap Nat
  features : SMap Word     -- by function
  capGen : Nat             -- generation of the capability table
  fwDie : SMap Nat         -- FWDIE by die
  fwAsid : SMap (List Nat) -- ASIDs allowed, by die
  fwPkg : SMap (List Nat)  -- packages, by die
  wins : SMap (Option NetWindow)   -- windows by enclave × 64 + number (R388)
  tss : SMap (Option (List Byte))  -- TSS keys by enclave × 8 + port (R388)
  spares : List Nat        -- hanks whose spare core is used
  failed : List Nat        -- cores retired without replacement
  bootCount : Nat          -- creation count at its reset, for the keys of its own frames (R308)
  bootCycle : Nat          -- cycle of its reset (R24)
  periodStart : Nat        -- cycle in which the budget period began (R401)
  deriving DecidableEq, Repr

def Pkg.fresh (id : Nat) : Pkg := ⟨id, 0, (0, 0), ([], []), 0, none, none, [], [], 0, [], [], [], [], [], [], [], 0, 0, 0⟩

/-- An enclave (R310 to R323, R371). -/
structure Enclave where
  enc : Nat
  asid : Nat
  running : Bool           -- EINIT has been done
  pkg : Nat
  part : Nat
  rbase : Nat
  rsize : Nat
  kick : Nat
  spill : Nat
  nspill : Nat
  nthr : Nat
  ttab : Nat
  vframes : List Nat       -- frame names of the version table
  trep : Word
  meas : List Byte
  epoch : Nat              -- of its creation, for the keys (R308)
  count : Nat
  seals : Nat
  versions : SMap Nat      -- IA page to version, 0 for none
  frames : Nat             -- frame count of R371
  savedTab : List SavedCtx
  ceiling : Nat            -- R329
  job : Option Nat         -- its network job identifier (R386)
  threads : List Thread
  ifaces : List DevIface
  trepSeq : Nat            -- R404
  creation : Nat           -- creation count at its ECREATE (R308)
  queues : SMap Queue
  streams : SMap Stream
  hubQueues : SMap (Option HubQueue)
  discards : Nat           -- stage discard count (R281)
  keyPkg : Nat             -- the package whose root of trust derived its keys (R308)
  sealing : Option Nat     -- the ESEAL that waits for a lease to drain (R323)
  deriving DecidableEq, Repr

/-- What Moafer's logs record (R110, R180, R251, R257, R425, R382): the kind and its numbers. -/
structure LogEntry where
  kind : Nat
  data : List Nat
  deriving DecidableEq, Repr

/-- What leaves a package for the outside: packets, acknowledgements and answers of the network engine (R388 to R390),
transactions on PCI Express (R263, R327), steps of the requester towards a device (R327), answers to the host and events raised on the admin queue (R398 to R406,
R326, R327). -/
inductive Out where
  | packet (peer : Nat) (pkt : NetPacket)
  | ack (pkg port src msg : Nat) (packets : List Nat)
  | nack (pkg port src msg index : Nat) (error : Bool)
  | bytes (pkg port src msg offset : Nat) (data : List Byte)
  | tlp (pkg : Nat) (data : List Byte) (poisoned : Bool)
  | unsupported (pkg link rid : Nat)
  | used (pkg fn : Nat) (status : Nat)
  | admin (pkg : Nat) (ok : Bool)
  | event (pkg kind : Nat) (data : List Nat)
  | spdm (pkg chan : Nat) (response : List Byte)
  | device (pkg link rid step : Nat) (data : List Byte)
  deriving DecidableEq, Repr

/-- What an operation does. -/
inductive OpBody where
  | chartld (va blk slot : Nat)          -- R54
  | ldsfe (dst : Dst) (fmt : Fmt) (got : SMap Reg) (len : Nat)   -- R228
  | stsfe (len : Nat)
  | ring (take : Bool) (ring : Nat) (dst pn len : Nat)  -- R234
  | barwait (bar : Nat) (ph : Bool) (len : Nat)         -- R236
  | mma (ins : Instr) (block off : Nat) (a : List Nat) (mode : Rnd) (sat : BitVec 2)  -- R200 to R203
      (tiles : SMap (Option Granule) × SMap (Option Granule))
  | accalloc (dst : Nat)
  | acctry (dst pn : Nat)
  | acczero (block : Nat)
  | accfree (block : Nat)
  | accld (block va : Nat) (tag : Fmt)
  | accst (block va : Nat)
  | mread (block d : Nat) (half : Bool) (g : Nat)
  | mem (m : MemOp) (len : Nat)
  | copy (ins : Instr) (d b : Nat) (coords : List Int) (mode : Rnd) (sat : BitVec 2) (phase : CopyPhase)
  | copyl (dst src n dir : Nat) (bar : Option Nat) (phase : CopyPhase)
  | cmap (va map : Nat)
  | hubcopy (enc asid dst src n counter : Nat) (ok : Bool)
  | stgpost (list stream : Nat) (dst : Dst)
  | launch (queue va : Nat) (dst : Dst)                 -- R352
  | npost (va n : Nat) (dst : Dst) (fibres : List Nat)  -- R393; the fibres of its course
  | monitor (ins : Instr) (words : List Word)
  | rngset (asid n : Nat) (range : Range)
  | atinv (mode ia asid : Nat) (after : List Item)
  | pgq (dst : Dst) (asid : Nat) (hidden : Bool) (vas : SMap Nat)
  deriving DecidableEq, Repr
/-- An operation that has issued and is not complete: the ply, the course that issued it, the address of its
instruction, the fibres that wait for their reply (all fibres active at issue, for one that acts once for its
course), the registers it will still write (R36, R37, R67). -/
structure Op where
  id : Nat
  ply : Nat
  course : Nat
  addr : Nat
  time : Nat               -- cycle of its issue (R79)
  stall : Nat              -- stall count of its instruction (R15)
  counted : Bool           -- it stands on a scoreboard slot
  perFibre : Bool
  left : List Nat
  dests : List Target
  body : OpBody
  asid : Nat               -- under which it was issued (R284)
  pages : List (Nat × Nat × Nat)  -- of the ranges checked at its issue: virtual page, intermediate page, kind (R302)
  deriving DecidableEq, Repr
/-- Why the machine stops. -/
inductive Fault where
  /-- Raised by the execution of an instruction word when no ply and course stand to execute it: a word is only
  executed by a course (R65).  Safe: no step of the machine executes a word without one. -/
  | noIssuer
  deriving DecidableEq, Repr

/-- Why an instruction has no meaning. -/
inductive Refusal where
  /-- Raised by an arm of `exec` whose instruction has no meaning yet.  Safe. -/
  | notModelled (mnemonic : String)
  deriving DecidableEq, Repr

/-- The whole machine. -/
structure State where
  clock : Nat
  agenda : List Turn
  cur : Option Cursor
  freeCtr : Nat
  nextId : Nat
  plies : List Ply
  cores : List Core
  mem : List Host.Cell
  codes : SMap (Option Byte)
  tagFail : List Nat
  owners : SMap Owner
  roots : SMap (Option Nat)          -- root tables that have been placed (R287), by die × 2048 + ASID
  ranges : SMap (Option Range)       -- ranges written since reset, by package (R285)
  frameCaches : List FrameEntry
  promos : List Promo
  enclaves : List Enclave
  epoch : SMap Nat         -- boot epochs by package (R308)
  creations : Nat
  lastEnc : Nat
  log : List LogEntry
  corrected : SMap Nat     -- errors corrected in registers, accumulators and latches, by core (R110, R111, R212)
  ops : List Op
  skeins : List Skein
  pairs : List Pair
  launches : List Launch
  specs : List Spec
  waiters : List Waiter    -- in the order of entry
  msgs : List Msg
  flits : List Flit        -- in the order sent
  links : SMap Nat         -- flit counters, by link and ASID (R378, R381), sequence numbers and acknowledgements (R378)
  soOut : SMap Nat         -- SO sequence counters by pair of dies and ASID (R383)
  soNext : SMap Nat        -- next expected ones
  seen : List (Nat × Nat)  -- scale-up flits accepted, by link and counter (R382)
  probes : List Probe
  l2 : List (Nat × Nat × Granule)  -- write-through copies by L2 slice, one for each hank (R1, R238), and name
  nets : List NetReq
  rxs : List NetRx
  netServes : List NetServe
  recs : List TrapRec
  partitions : List Partition
  budgets : List BudgetRec
  retired : List Retired
  channels : List Channel
  pkgs : List Pkg
  outs : List Out          -- what has left the packages, oldest first
  deriving DecidableEq, Repr

/-- The machine right after package reset. -/
def State.reset : State where
  clock := 0
  agenda := []
  cur := none
  freeCtr := 0
  nextId := 1
  plies := []
  cores := []
  mem := []
  codes := []
  tagFail := []
  owners := []
  roots := []
  ranges := []
  frameCaches := []
  promos := []
  enclaves := []
  epoch := []
  creations := 0
  lastEnc := 0
  log := []
  corrected := []
  ops := []
  skeins := []
  pairs := []
  launches := []
  specs := []
  waiters := []
  msgs := []
  flits := []
  links := []
  soOut := []
  soNext := []
  seen := []
  probes := []
  l2 := []
  nets := []
  rxs := []
  netServes := []
  recs := []
  partitions := []
  budgets := []
  retired := []
  channels := []
  pkgs := []
  outs := []

end Sys2Proof.Machine
end

