-- ==== Sys2Proof/Machine/Maps.lean ====
section
/-! DEFINITION.  Sparse maps, bytes and bit fields. -/

namespace Sys2Proof.Machine

/-- The value at a key; `d` where nothing is listed. -/
def SMap.get {α : Type} (d : α) : SMap α → Nat → α
  | [], _ => d
  | (j, a) :: r, k => if j = k then a else if k < j then d else SMap.get d r k

/-- The map with `a` at `k`, whatever `a` is. -/
def SMap.put {α : Type} : SMap α → Nat → α → SMap α
  | [], k, a => [(k, a)]
  | (j, b) :: r, k, a =>
    if k < j then (k, a) :: (j, b) :: r else if j = k then (k, a) :: r else (j, b) :: SMap.put r k a

/-- The map without an entry at `k`. -/
def SMap.del {α : Type} : SMap α → Nat → SMap α
  | [], _ => []
  | (j, b) :: r, k => if k < j then (j, b) :: r else if j = k then r else (j, b) :: SMap.del r k

/-- The map with `a` at `k`; the default leaves no entry. -/
def SMap.set {α : Type} [DecidableEq α] (d : α) (m : SMap α) (k : Nat) (a : α) : SMap α :=
  if a = d then m.del k else m.put k a

/-- Keys above `k` rise strictly and no entry is the default. -/
def SMap.wfFrom {α : Type} [DecidableEq α] (d : α) : Option Nat → SMap α → Bool
  | _, [] => true
  | lo, (j, a) :: r =>
    (match lo with | none => true | some l => decide (l < j)) && !decide (a = d) && SMap.wfFrom d (some j) r

/-- The canonical form. -/
def SMap.wf {α : Type} [DecidableEq α] (d : α) (m : SMap α) : Bool := SMap.wfFrom d none m

/-- The `n` low bytes of a number, least significant first (R4). -/
def bytesLE : Nat → Nat → List Byte
  | 0, _ => []
  | n + 1, x => BitVec.ofNat 8 x :: bytesLE n (x / 256)

/-- The number that bytes hold, least significant first (R4). -/
def ofBytesLE : List Byte → Nat
  | [] => 0
  | b :: r => b.toNat + 256 * ofBytesLE r

/-- `n` zero bytes. -/
def zeros (n : Nat) : List Byte := List.replicate n 0

/-- Bits [lo + n − 1 : lo] of a number. -/
def bitsOf (x lo n : Nat) : Nat := x / 2 ^ lo % 2 ^ n

/-- One bit of a number. -/
def bitOf (x i : Nat) : Bool := x / 2 ^ i % 2 == 1

/-- A bit as a number. -/
def b2n (b : Bool) : Nat := if b then 1 else 0

/-- A number taken as a two's complement number of `w` bits. -/
def signed (w x : Nat) : Int := if 2 ^ w ≤ 2 * (x % 2 ^ w) then (x % 2 ^ w : Int) - 2 ^ w else (x % 2 ^ w : Int)

/-- An integer modulo `2^w`. -/
def wrap (w : Nat) (x : Int) : Nat := (x % (2 ^ w : Int)).toNat

/-- An integer as a register value. -/
def word (x : Int) : Word := BitVec.ofInt 64 x

/-- The members of a mask, in rising order. -/
def membersOf (w : Nat) (x : Nat) : List Nat := (List.range w).filter (bitOf x)

/-- The mask of a list of numbers. -/
def maskOf (l : List Nat) : Nat := l.foldl (fun m i => m ||| 2 ^ i) 0

/-- Insertion into a list that rises by a key, behind equal keys. -/
def insertBy {α : Type} (key : α → Nat) (a : α) : List α → List α
  | [] => [a]
  | b :: r => if key a < key b then a :: b :: r else b :: insertBy key a r

/-- A stable sort by a key. -/
def sortBy {α : Type} (key : α → Nat) (l : List α) : List α := l.foldl (fun r a => insertBy key a r) []

/-- The first element of least key. -/
def minBy {α : Type} (key : α → Nat) : List α → Option α
  | [] => none
  | a :: r => match minBy key r with
    | none => some a
    | some b => if key b < key a then some b else some a

/-- The bit length of a number (R104). -/
def bitLen (x : Nat) : Nat := if x = 0 then 0 else Nat.log2 x + 1

/-- The integer square root, by bits from the top. -/
def isqrtGo (x : Nat) : Nat → Nat → Nat
  | 0, r => r
  | n + 1, r => let t := r + 2 ^ n; isqrtGo x n (if t * t ≤ x then t else r)

def isqrt (x : Nat) : Nat := isqrtGo x (bitLen x / 2 + 1) 0

/-- Replaces the elements of a list that satisfy a test. -/
def updateWhere {α : Type} (p : α → Bool) (f : α → α) (l : List α) : List α := l.map fun a => if p a then f a else a

end Sys2Proof.Machine
end

