-- ==== Sys2Proof/Machine/Memory.lean ====
section
/-! DEFINITION.  Device memory: bytes of the dies, granules with their selvedge codes, ownership entries, page
trees (08 R237, R262, R263; 10 R284 to R296). -/

namespace Sys2Proof.Machine

/-- The byte that an address reads as (log 1). -/
def memByte (m : List Host.Cell) (a : Nat) : Byte := SMap.get 0 m a

/-- Memory with one byte written. -/
def memSet (m : List Host.Cell) (a : Nat) (b : Byte) : List Host.Cell := SMap.set 0 m a b

/-- Memory with bytes written from an address upwards. -/
def memWrite (m : List Host.Cell) (a : Nat) : List Byte → List Host.Cell
  | [] => m
  | b :: r => memWrite (memSet m a b) (a + 1) r

/-- `n` bytes from an address upwards. -/
def memRead (m : List Host.Cell) (a : Nat) : Nat → List Byte
  | 0 => []
  | n + 1 => memByte m a :: memRead m (a + 1) n

/-- The canonical form of memory: addresses strictly rising, no entry that an unlisted address reads as. -/
abbrev Memory.wf (m : List Host.Cell) : Bool := SMap.wf 0 m

/-- Where the bytes of a die begin: a die's physical address has 38 bits (R287). -/
def flat (aper pa : Nat) : Nat := aper * 2 ^ 38 + pa % 2 ^ 38

/-- The package and die that an APER names (R288). -/
def aperPkg (aper : Nat) : Nat := aper / 8
def aperDie (aper : Nat) : Nat := aper % 8

/-- One step of the CRC-8 of R262. -/
def crcStep (crc : BitVec 8) (x : Bool) : BitVec 8 :=
  let r := crc <<< 1
  if (crc.getLsbD 7 ^^ x) then r ^^^ 0x2F else r

/-- The CRC-8 over the `n` low bits of a number, most significant first. -/
def crcBits (x : Nat) : Nat → BitVec 8 → BitVec 8
  | 0, c => c
  | n + 1, c => crcBits x n (crcStep c (bitOf x n))

/-- R262: the selvedge code of a granule at an intermediate address. -/
def selv (data : Word) (ia : Nat) : Byte := crcBits (ia / 8) 49 (crcBits data.toNat 64 0xFF)

/-- R262: the code of the poison pattern, whose data is 0. -/
def poisonCode (ia : Nat) : Byte := ~~~ selv 0 ia

/-- R262: what a consumer finds. -/
inductive Delivered where
  | valid (w : Word)
  | poison
  | badCode
  | badTag
  deriving DecidableEq, Repr

def Granule.judge (g : Granule) (ia : Nat) : Delivered :=
  if g.code = selv g.data ia then .valid g.data
  else if g.data = 0 ∧ g.code = poisonCode ia then .poison
  else .badCode

/-- The granule at a home address, for the intermediate address that names it.  Where no code is listed the code
is the valid one (log 2). -/
def State.granule (s : State) (a ia : Nat) : Granule :=
  let d : Word := BitVec.ofNat 64 (ofBytesLE (memRead s.mem (a / 8 * 8) 8))
  match SMap.get none s.codes (a / 8) with
  | none => ⟨d, selv d ia⟩
  | some c => ⟨d, c⟩

/-- R251, R309: what the home delivers; a failed line tag comes first. -/
def State.deliver (s : State) (a ia : Nat) : Delivered :=
  if s.tagFail.contains (a / 64) then .badTag else (s.granule a ia).judge ia

/-- A granule as it arrives from the home, the code kept (R263). -/
def State.putGranule (s : State) (a ia : Nat) (g : Granule) : State :=
  { s with
    mem := memWrite s.mem (a / 8 * 8) (bytesLE 8 g.data.toNat)
    codes := SMap.set none s.codes (a / 8) (if g.code = selv g.data ia then none else some g.code) }

/-- Bytes of memory overwritten with zeros, codes and tags made new (R297). -/
def State.zeroFrame (s : State) (aper frame : Nat) : State :=
  let lo := flat aper (frame * 65536)
  let hi := lo + 65536
  { s with
    mem := s.mem.filter fun c => c.1 < lo ∨ hi ≤ c.1
    codes := s.codes.filter fun c => c.1 * 8 < lo ∨ hi ≤ c.1 * 8
    tagFail := s.tagFail.filter fun l => l * 64 < lo ∨ hi ≤ l * 64 }

/-- A frame's number over the garment: 22 bits within its die (R287). -/
def frameKey (aper frame : Nat) : Nat := aper * 2 ^ 22 + frame % 2 ^ 22

/-- The ownership entry of a frame (R296). -/
def State.owner (s : State) (aper frame : Nat) : Owner := SMap.get Owner.free s.owners (frameKey aper frame)

def State.setOwner (s : State) (aper frame : Nat) (o : Owner) : State :=
  { s with owners := SMap.set Owner.free s.owners (frameKey aper frame) o }

/-- The enclave of an ASID (R284, R310): 0 for the supervisor. -/
def State.enclaveOfAsid (s : State) (asid : Nat) : Option Enclave := s.enclaves.find? (·.asid == asid)

def State.enclave (s : State) (enc : Nat) : Option Enclave := s.enclaves.find? (·.enc == enc)

def State.putEnclave (s : State) (e : Enclave) : State :=
  { s with enclaves := updateWhere (·.enc == e.enc) (fun _ => e) s.enclaves }

/-- The ENC that frames used under an ASID must have (R296). -/
def State.encOfAsid (s : State) (asid : Nat) : Option Nat :=
  if asid = 0 then some 0 else (s.enclaveOfAsid asid).map (·.enc)

/-- An ASID that is live (R284). -/
def State.asidLive (s : State) (asid : Nat) : Bool := asid < 2 || (s.enclaveOfAsid asid).isSome

/-- A fault of translation: cause, sub-code of R292 and the IA it concerns. -/
structure XFault where
  cause : Nat
  sub : Nat
  ia : Nat
  deriving DecidableEq, Repr

/-- The rights an access needs (R293). -/
inductive Access where
  | read | write | atomic | fetch
  deriving DecidableEq, Repr

/-- What an attribute lookup gives (R290). -/
structure Attr where
  kind : Nat
  perm : BitVec 3
  rperm : BitVec 3
  aper : Nat
  size : Nat
  peer : Bool
  deriving DecidableEq, Repr

/-- What package reset leaves in a range (R285): the identity in range 0 of ASID 0; that of ASID 1 is the model's (log 9). -/
def rangeAtReset (asid n : Nat) : Range := if asid < 2 ∧ n = 0 then ⟨true, 0, 2 ^ 36, 0⟩ else Range.off

def rangeKey (pkg asid n : Nat) : Nat := (pkg * 2048 + asid) * 16 + n

/-- A range of an ASID in the range table of a package (R285). -/
def State.range (s : State) (pkg asid n : Nat) : Range := (SMap.get none s.ranges (rangeKey pkg asid n)).getD (rangeAtReset asid n)

def State.setRange (s : State) (pkg asid n : Nat) (r : Range) : State :=
  { s with ranges := SMap.set none s.ranges (rangeKey pkg asid n) (if r = rangeAtReset asid n then none else some r) }

/-- Every range of an ASID that begins or ends is off, in every package (R285). -/
def State.dropRanges (s : State) (asid : Nat) : State := { s with ranges := s.ranges.filter fun r => r.1 / 16 % 2048 != asid }

/-- R286: the intermediate address of a virtual address, by the ranges of a package. -/
def State.toIa (s : State) (pkg asid : Nat) (va : Nat) : Except XFault Nat :=
  if bitsOf va 57 7 ≠ 0 then .error ⟨0x12, 1, 0⟩
  else
    match (List.range 16).find? fun n =>
        let r := s.range pkg asid n
        r.valid && r.bpg ≤ va / 65536 && va / 65536 < r.lpg with
    | none => .error ⟨0x12, 2, 0⟩
    | some n =>
      let ia : Int := (va : Int) + (s.range pkg asid n).ofs.toInt * 65536
      if ia < 0 ∨ 2 ^ 52 ≤ ia then .error ⟨0x12, 3, 0⟩ else .ok ia.toNat

/-- IA bits indexed at a level, log2 of the page of a leaf there and of the size of its tables (R287). -/
def levelShift : Nat → Nat
  | 0 => 43 | 1 => 30 | 2 => 21 | _ => 16
def levelBits : Nat → Nat
  | 0 => 9 | 1 => 13 | 2 => 9 | _ => 5
def tableLog : Nat → Nat
  | 0 => 12 | 1 => 16 | 2 => 12 | _ => 8

/-- How a walk ends (R291). -/
inductive Walk where
  | invalid (level : Nat)
  | malformed (level entry : Nat)
  | leaf (level entry : Nat)
  | stub (level entry : Nat)
  deriving DecidableEq, Repr

/-- A frame that the supervisor owns (R289). -/
def State.supFrame (s : State) (aper pa : Nat) : Bool :=
  let o := s.owner aper (pa / 65536)
  o.state == 1 && o.enc == 0

/-- R289: the entry breaks a rule of its form, at its level, on its die. -/
def malformedEntry (s : State) (aper level e : Nat) : Bool :=
  let type := bitsOf e 62 2
  if type = 1 then
    bitsOf e 38 24 != 0 || bitsOf e 0 8 != 0 || level == 3
    || bitsOf e 8 30 * 256 % 2 ^ tableLog (level + 1) != 0
    || !s.supFrame aper (bitsOf e 8 30 * 256)
  else
    bitsOf e 60 2 == 3 || bitsOf e 38 4 != 0 || level == 0
    || (if type = 2 then
          bitsOf e 42 12 != aper
          || bitsOf e 16 22 * 65536 % 2 ^ levelShift level != 0
          || 0xE0000 ≤ bitsOf e 16 20 + (2 ^ levelShift level / 65536 - 1)
        else
          bitsOf e 0 38 != 0 || bitsOf e 42 12 == aper || 6 ≤ bitsOf e 42 3)

/-- R287, R291: the walk of a die's tree. -/
def walkFrom (s : State) (aper ia : Nat) : Nat → Nat → Walk
  | 0, _ => .malformed 3 0
  | n + 1, table =>
    let level := 3 - n
    let e := ofBytesLE (memRead s.mem (flat aper (table + 8 * bitsOf ia (levelShift level) (levelBits level))) 8)
    if bitsOf e 62 2 = 0 then .invalid level
    else if malformedEntry s aper level e then .malformed level e
    else if bitsOf e 62 2 = 1 then walkFrom s aper ia n (bitsOf e 8 30 * 256)
    else if bitsOf e 62 2 = 2 then .leaf level e
    else .stub level e

/-- The physical address of the root table of an ASID on a die (R287).  Which it is, no rule says: until one is placed it is
a free value (log 9). -/
def State.root (s : State) (aper asid : Nat) : Nat :=
  (SMap.get none s.roots (aper * 2048 + asid)).getD (Config.treeRoot aper asid % 2 ^ 38 / 4096 * 4096)

/-- The walk of the tree of a die for an ASID that is live (R287); an ASID that is not live has no tree. -/
def State.walk (s : State) (aper asid ia : Nat) : Walk :=
  if !s.asidLive asid then .invalid 0
  else if s.supFrame aper (s.root aper asid) then walkFrom s aper ia 4 (s.root aper asid) else .malformed 0 0

/-- The attributes of an entry (R288). -/
def attrOf (level e : Nat) (peer : Bool) : Attr :=
  { kind := bitsOf e 60 2, perm := BitVec.ofNat 3 (bitsOf e 57 3), rperm := BitVec.ofNat 3 (bitsOf e 54 3)
    aper := bitsOf e 42 12, size := levelShift level, peer }

/-- The frame that a leaf gives an IA (R288). -/
def frameOf (level e ia : Nat) : Nat := bitsOf e 16 22 + bitsOf ia 16 (levelShift level - 16)

/-- R296: the ownership entry of the frame lets the request pass. -/
def State.ownCheck (s : State) (asid aper frame ia : Nat) (e : Nat) : Option XFault :=
  let o := s.owner aper frame
  if asid = 1 then (if o.state = 3 then none else some ⟨0x14, 1, ia⟩)
  else if o.state ≠ 1 ∨ s.encOfAsid asid ≠ some o.enc then some ⟨0x14, 1, ia⟩
  else if o.gen.toNat ≠ bitsOf e 0 16 ∨ o.iapg ≠ ia / 65536 ∨ o.kind ≠ bitsOf e 60 2
      ∨ BitVec.ofNat 3 (bitsOf e 57 3) &&& ~~~ o.ceil ≠ 0 then some ⟨0x14, 2, ia⟩
  else none

/-! ### Firewalls and routes (R384, R385) -/

def State.pkg (s : State) (id : Nat) : Pkg := (s.pkgs.find? (·.id == id)).getD (Pkg.fresh id)

def State.putPkg (s : State) (p : Pkg) : State :=
  { s with pkgs := if s.pkgs.any (·.id == p.id) then updateWhere (·.id == p.id) (fun _ => p) s.pkgs
                   else insertBy (·.id) p s.pkgs }

/-- The slot whose firmware runs (R406). -/
def Pkg.running (p : Pkg) : Nat := match p.trying, p.trial with | some _, some t => t | _, _ => p.active

def Pkg.image (p : Pkg) (slot : Nat) : List Byte := if slot = 0 then p.images.1 else p.images.2
def Pkg.version (p : Pkg) (slot : Nat) : Nat := if slot = 0 then p.versions.1 else p.versions.2

/-- FWASID of a die: ASIDs 0 and 1 are always allowed. -/
def Pkg.asidOpen (p : Pkg) (die asid : Nat) : Bool := asid < 2 || (SMap.get [] p.fwAsid die).contains asid

/-- FWDIE, and FWASID on a hub link. -/
def Pkg.linkOpen (p : Pkg) (a b asid : Nat) : Bool :=
  bitOf (SMap.get 0 p.fwDie a) b && ((a != 6 && b != 6) || p.asidOpen a asid)

/-- FWPKG and FWASID at the gateway of a die. -/
def Pkg.garmentOpen (p : Pkg) (die peer asid : Nat) : Bool := (SMap.get [] p.fwPkg die).contains peer && p.asidOpen die asid

def least (l : List Nat) : Option Nat := minBy id l

/-- R384: the die whose gateway serves the hub die for an ASID. -/
def State.gatewayDie (s : State) (pkg asid : Nat) : Option Nat :=
  let mine := s.partitions.filter fun p => p.id / 8 == pkg
  match if asid < 2 then none else s.enclaveOfAsid asid with
  | some e => least ((mine.filter fun p => p.id % 8 == e.part).flatMap (·.dies))
  | none => least (mine.flatMap (·.dies))

/-- The next hop from a die towards another: whether it is a scale-up crossing, and the die it reaches; none when a
firewall is closed. -/
def State.hop (s : State) (asid u v : Nat) : Option (Bool × Nat) :=
  let pkg := aperPkg u
  let p := s.pkg pkg
  if pkg = aperPkg v then
    if u = v ∨ p.linkOpen (aperDie u) (aperDie v) asid then some (false, v) else none
  else if aperDie u = 6 then
    match s.gatewayDie pkg asid with
    | some d => if p.linkOpen 6 d asid then some (false, pkg * 8 + d) else none
    | none => none
  else if !p.garmentOpen (aperDie u) (aperPkg v) asid then none
  else if aperDie v = 6 then
    match s.gatewayDie (aperPkg v) asid with
    | some d => some (true, aperPkg v * 8 + d)
    | none => none
  else some (true, v)

/-- The hops from a die towards another are open, where they are sent and where they arrive. -/
def State.passes (s : State) (asid : Nat) : Nat → Nat → Nat → Bool
  | 0, u, v => u == v
  | n + 1, u, v => u == v || match s.hop asid u v with
    | some h => (if h.1 then (s.pkg (aperPkg h.2)).garmentOpen (aperDie h.2) (aperPkg u) asid
                 else (s.pkg (aperPkg u)).linkOpen (aperDie h.2) (aperDie u) asid) && s.passes asid n h.2 v
    | none => false

/-- R384, R385: the request of a die for another reaches it, and its answer the requester; else a fault response of cause
0x14, sub-code 1. -/
def State.reach (s : State) (asid u v : Nat) : Bool := s.passes asid 3 u v && s.passes asid 3 v u

/-- R291, R294: a home resolves an IA through its own tree and checks ownership. -/
def State.homeWalk (s : State) (aper asid ia : Nat) : Except XFault (Nat × Nat) :=
  match s.walk aper asid ia with
  | .leaf level e =>
    let frame := frameOf level e ia
    match s.ownCheck asid aper frame ia e with
    | some x => .error x
    | none => .ok (level, e)
  | .malformed .. => .error ⟨0x11, 2, ia⟩
  | _ => .error ⟨0x11, 4, ia⟩

/-- R291: the walk of the issuing die, with a probe of the home where it ends at a stub. -/
def State.lookup (s : State) (aper asid ia : Nat) : Except XFault Attr :=
  match s.walk aper asid ia with
  | .invalid _ => .error ⟨0x11, 1, ia⟩
  | .malformed .. => .error ⟨0x11, 2, ia⟩
  | .leaf level e =>
    match s.ownCheck asid aper (frameOf level e ia) ia e with
    | some x => .error x
    | none => .ok (attrOf level e false)
  | .stub level e =>
    if !s.reach asid aper (bitsOf e 42 12) then .error ⟨0x14, 1, ia⟩
    else match s.homeWalk (bitsOf e 42 12) asid ia with
      | .error x => .error x
      | .ok _ => .ok (attrOf level e true)

/-- R293: the rights of an access against attributes. -/
def rights (acc : Access) (a : Attr) (ia : Nat) : Option XFault :=
  match acc with
  | .read =>
    if !a.perm.getLsbD 2 then some ⟨0x12, 4, ia⟩
    else if a.peer && !a.rperm.getLsbD 2 then some ⟨0x12, 5, ia⟩ else none
  | .write =>
    if !a.perm.getLsbD 1 then some ⟨0x12, 4, ia⟩
    else if a.peer && !a.rperm.getLsbD 1 then some ⟨0x12, 5, ia⟩ else none
  | .atomic =>
    if !(a.perm.getLsbD 2 && a.perm.getLsbD 1) then some ⟨0x12, 4, ia⟩
    else if a.peer && !a.rperm.getLsbD 0 then some ⟨0x13, 0, ia⟩ else none
  | .fetch => if !a.perm.getLsbD 0 then some ⟨0x12, 4, ia⟩ else none

/-- The die of a core (R1): the hub die is die 6. -/
def coreAper (core : Nat) : Nat :=
  core / 1024 * 8 + (if core % 1024 < 864 then core % 1024 / 144 else 6)

def isHubCore (core : Nat) : Bool := 864 ≤ core % 1024

/-- A core that nothing uses (log 7). -/
def Core.empty (id : Nat) : Core := ⟨id, [], [], [], [], [], [], [], [], [], [], [], 2048⟩

def State.core (s : State) (id : Nat) : Core :=
  match s.cores.find? (·.id == id) with
  | some c => c
  | none => Core.empty id

def State.putCore (s : State) (c : Core) : State :=
  { s with cores := if s.cores.any (·.id == c.id) then updateWhere (·.id == c.id) (fun _ => c) s.cores
                    else insertBy (·.id) c s.cores }

/-- The TLB entry that covers an IA (R290). -/
def Core.tlbFind (c : Core) (asid ia : Nat) : Option TlbEntry :=
  c.tlb.find? fun e => e.asid == asid && e.page / 2 ^ e.size == ia / 2 ^ e.size

def TlbEntry.attr (e : TlbEntry) : Attr := ⟨e.kind, e.perm, e.rperm, e.aper, e.size, e.peer⟩

/-- R312: an IA of the kick page of the enclave of an ASID. -/
def State.isKick (s : State) (asid ia : Nat) : Bool :=
  match s.enclaveOfAsid asid with
  | some e => e.kick / 65536 == ia / 65536
  | none => false

/-- Where an access goes: the intermediate address, and its attributes. -/
structure Trans where
  ia : Nat
  attr : Attr
  deriving DecidableEq, Repr

/-- The attributes of a kick page (R312, R328): no page entry is consulted; reads and writes reach the registers. -/
def kickAttr (aper : Nat) : Attr := ⟨0, 6, 0, aper, 16, false⟩

/-- R286: translation of an access at issue, through the attribute TLB of the core. -/
def State.translate (s : State) (core asid va : Nat) (acc : Access) : Except XFault Trans := do
  let ia ← s.toIa (core / 1024) asid va
  if s.isKick asid ia then
    match rights acc (kickAttr (coreAper core)) ia with
    | some x => .error x
    | none => .ok ⟨ia, kickAttr (coreAper core)⟩
  else
    let a ← match (s.core core).tlbFind asid ia with
      | some e => .ok e.attr
      | none => s.lookup (coreAper core) asid ia
    match rights acc a ia with
    | some x => .error x
    | none => .ok ⟨ia, a⟩

/-- R290: the TLB with the entry of a translation; at 256 entries the oldest leaves. -/
def State.tlbFill (s : State) (core asid : Nat) (t : Trans) : State :=
  let c := s.core core
  if s.isKick asid t.ia ∨ (c.tlbFind asid t.ia).isSome then s
  else
    let e : TlbEntry := ⟨asid, t.ia / 2 ^ t.attr.size * 2 ^ t.attr.size, t.attr.size, t.attr.kind, t.attr.perm,
      t.attr.rperm, t.attr.aper, t.attr.peer⟩
    s.putCore { c with tlb := e :: c.tlb.take 255 }

/-- R294: the home checks a request against its own leaf and the frame's owner, and gives the home address. -/
def State.resolve (s : State) (aper asid ia : Nat) (acc : Access) (foreign : Bool) : Except XFault Nat := do
  let (level, e) ← s.homeWalk aper asid ia
  match rights acc { attrOf level e foreign with peer := foreign } ia with
  | some x => .error x
  | none => .ok (flat aper (frameOf level e ia * 65536 + ia % 65536))

/-- R294: the stack's memory side keeps the translation in its frame cache; of 4,096 the oldest leaves. -/
def State.frameFill (s : State) (aper asid ia a : Nat) : State :=
  let f := a % 2 ^ 38 / 65536
  let e : FrameEntry := ⟨aper * 4 + f / 2 ^ 20, asid, ia / 65536, f⟩
  if s.frameCaches.contains e then s
  else
    let old := s.frameCaches.filter fun x => !(x.asid == asid && x.page == e.page && x.stack / 4 == aper)
    { s with frameCaches := (e :: (old.filter (·.stack == e.stack)).take 4095) ++ old.filter (·.stack != e.stack) }

/-- The intermediate address of a virtual one: that of its page where the page was checked at issue (R302), else by the ranges. -/
def State.iaOf (s : State) (pkg asid va : Nat) (pages : List (Nat × Nat × Nat)) : Except XFault Nat :=
  match pages.find? (·.1 == va / 65536) with
  | some q => .ok (q.2.1 * 65536 + va % 65536)
  | none => s.toIa pkg asid va

/-- Translation and home in one, for parties that are not held apart from the home: the monitor, the launch unit,
engines (R294); an engine operation uses the pages checked at its issue (R302). -/
def State.locate (s : State) (aper asid va : Nat) (acc : Access) (pages : List (Nat × Nat × Nat) := []) :
    Except XFault (Nat × Nat) := do
  let ia ← s.iaOf (aperPkg aper) asid va pages
  if s.isKick asid ia then .error ⟨0x12, 4, ia⟩
  let a ← s.lookup aper asid ia
  match rights acc a ia with
  | some x => .error x
  | none =>
    if !s.reach asid aper a.aper then .error ⟨0x14, 1, ia⟩
    let pa ← s.resolve a.aper asid ia acc a.peer
    .ok (pa, ia)

/-- R292: the class of a fetch fault, eaux[62:61]. -/
def fetchClass (cause : Nat) : Nat := if cause = 0x11 then 0 else if cause = 0x14 then 2 else 1

/-- The instruction word at a virtual address, or the fault of its fetch with the value of eaux (R28, R292). -/
def State.fetchPlace (s : State) (core asid va : Nat) : Except Word (Nat × Nat) :=
  let fail (x : XFault) : Except Word (Nat × Nat) :=
    .error (BitVec.ofNat 64 (va % 2 ^ 57 + x.sub * 2 ^ 57 + fetchClass x.cause * 2 ^ 61))
  match s.translate core asid va .fetch with
  | .error x => fail x
  | .ok t =>
    if !s.reach asid (coreAper core) t.attr.aper then fail ⟨0x14, 1, t.ia⟩
    else match s.resolve t.attr.aper asid t.ia .fetch t.attr.peer with
      | .error x => fail x
      | .ok a => .ok (a, t.ia)

end Sys2Proof.Machine
end

