-- ==== Sys2Proof/Machine/Budgets.lean ====
section
/-! DEFINITION.  Tension budgets: capacities, what is charged and what is held (15 R401 to R403). -/

namespace Sys2Proof.Machine

/-- Units of a package that are retired, by kind. -/
def State.lostUnits (s : State) (pkg kind : Nat) (mine : Retired → Bool) : Nat :=
  (s.retired.filter fun r => r.pkg == pkg && r.kind == kind && mine r).length

def State.dieRetired (s : State) (pkg die : Nat) : Bool := 0 < s.lostUnits pkg 3 fun r => r.aper % 8 == die

/-- Bytes per period of one resource of a package, less what its retired units took (R401, R403). -/
def State.capacity (s : State) (pkg resource unit : Nat) : Nat :=
  let full := Config.capacity resource
  let dead (die : Nat) : Bool := s.dieRetired pkg die
  match resource with
  | 0 =>
    if dead (unit / 4) then 0
    else full * (32 - s.lostUnits pkg 0 fun r => r.aper % 8 == unit / 4 && r.unit / 32 == unit % 4) / 32
  | 1 =>
    let a := unit / 8
    let b := unit % 8
    if dead a || dead b then 0
    else full * (Config.ucieLanes - s.lostUnits pkg 1 fun r =>
      (r.aper % 8 == a && r.unit / 256 == b) || (r.aper % 8 == b && r.unit / 256 == a)) / Config.ucieLanes
  | 2 => if dead unit then 0 else full * (12 - s.lostUnits pkg 2 fun r => r.aper % 8 == unit) / 12
  | 3 => if dead (unit / 144) || 0 < s.lostUnits pkg 4 (fun r => r.unit == unit) then 0 else full
  | _ => full

/-- A budget of a holder for one resource. -/
def BudgetRec.is (b : BudgetRec) (pkg holder resource unit : Nat) : Bool :=
  b.pkg == pkg && b.budget.holder == holder && b.budget.resource == resource && b.budget.unit == unit

/-- R402: the bytes that a budget may still take in this period: up to its minimum always; beyond it up to its cap, from the
spare capacity, after the held requests of higher classes. -/
def State.room (s : State) (b : BudgetRec) : Nat :=
  let others := s.budgets.filter fun x => x.pkg == b.pkg && x.budget.resource == b.budget.resource
    && x.budget.unit == b.budget.unit && x.budget.holder != b.budget.holder
  let taken := others.foldl (fun a x => a + Nat.max x.used x.budget.minimum) 0
  let first := others.any fun x => b.budget.cls < x.budget.cls && x.waiting.any (0 < ·.2) && x.used < x.budget.cap
  let spare := if first then 0
    else Nat.min (b.budget.cap - b.used) (s.capacity b.pkg b.budget.resource b.budget.unit - (taken + b.used))
  Nat.max (b.budget.minimum - b.used) spare

/-- Bytes of one resource that a request takes from the budget of a holder. -/
structure Charge where
  pkg : Nat
  holder : Nat
  resource : Nat
  unit : Nat
  bytes : Nat
  deriving DecidableEq, Repr

/-- A request takes what its budget has room for; the rest of its bytes is owed, and is held until the next period (R402). -/
def State.pay (s : State) (id : Nat) (c : Charge) : State :=
  let take (b : BudgetRec) : BudgetRec :=
    if b.is c.pkg c.holder c.resource c.unit then
      let owed := match b.waiting.find? (·.1 == id) with | some w => w.2 | none => c.bytes
      let n := Nat.min owed (s.room b)
      { b with used := b.used + n, waiting := SMap.put b.waiting id (owed - n) }
    else b
  { s with budgets := s.budgets.map take }

/-- The charges of a request are paid, and it may go; or it is held until they are (R402).  Where no budget is set, none is
charged. -/
def State.spendAll (s : State) (id : Nat) (l : List Charge) : State × Bool :=
  if s.budgets.isEmpty then (s, true)
  else
    let t := l.foldl (fun s c => s.pay id c) s
    if t.budgets.any fun b => b.waiting.any fun w => w.1 == id && 0 < w.2 then (t, false)
    else ({ t with budgets := t.budgets.map fun b => { b with waiting := b.waiting.del id } }, true)

def State.spend (s : State) (pkg holder resource unit id n : Nat) : State × Bool :=
  s.spendAll id [⟨pkg, holder, resource, unit, n⟩]

/-! ### What is charged (log 83) -/

/-- The holder of an internal activity (R401): 0 scrub, 1 promotion, 2 speculation, 3 sealing, 4 ageing tests. -/
def activity (k : Nat) : Nat := 2 ^ 16 + k

/-- The HBM stack of a home address, by die × 4 + stack (R287). -/
def stackUnit (a : Nat) : Nat := a / 2 ^ 38 % 8 * 4 + a / 2 ^ 36 % 4

/-- The lines of the stacks that an engine reads or writes at these home addresses, for a holder. -/
def lineCharges (holder : Nat) (l : List Nat) : List Charge :=
  let lines := (l.map (· / 64)).eraseDups
  let units := (lines.map fun n => (n * 64 / 2 ^ 41, stackUnit (n * 64))).eraseDups
  units.map fun (pkg, u) => ⟨pkg, holder, 0, u, 64 * (lines.countP fun n => n * 64 / 2 ^ 41 == pkg && stackUnit (n * 64) == u)⟩

/-- An engine operation that moves bytes at these home addresses is paid, beside other charges; held while it is not (R402). -/
def State.spendLines (s : State) (id holder : Nat) (more : List Charge) (l : State → List Nat) : State × Bool :=
  if s.budgets.isEmpty then (s, true) else s.spendAll id (more ++ lineCharges holder (l s))

end Sys2Proof.Machine
end

