-- ==== Sys2Proof/Machine/Links.lean ====
section
/-! DEFINITION.  Messages between dies: routes, firewalls, flits and answers (14 R376 to R385); writes at a home and
whom they wake (08 R251, R260; 12 R343).  A message is packed into flits with those that leave its die beside it (log 75). -/

namespace Sys2Proof.Machine

/-! ### Flits -/

/-- The counter of a UCIe link direction (R378), or of a gateway for an ASID (R381). -/
def linkKey (scaleup : Bool) (u v asid : Nat) : Nat :=
  if scaleup then 2 ^ 40 + u * 2048 + asid else u * 4096 + v

/-- The next sequence number of a link direction, the last one accepted of it, and whether its last flit failed (R378). -/
def seqKey (u v : Nat) : Nat := 2 ^ 41 + u * 4096 + v
def ackKey (u v : Nat) : Nat := 2 ^ 42 + u * 4096 + v
def nakKey (u v : Nat) : Nat := 2 ^ 43 + u * 4096 + v

/-- The units that a message takes over a hop: its header, and its data line in halves (R378) or whole (R381). -/
def Msg.units (m : Msg) (scaleup : Bool) : List (Nat × Nat) :=
  (m.id, 0) :: if m.line.isEmpty then [] else if scaleup then [(m.id, 1)] else [(m.id, 1), (m.id, 2)]

/-- Headers and data lines among units. -/
def headersOf (l : List (Nat × Nat)) : List Nat := (l.filter (·.2 == 0)).map (·.1)
def linesOf (l : List (Nat × Nat)) : List Nat := (l.filter (·.2 == 1)).map (·.1)

/-- The flit has room for a unit: 7 units (R378), or 9 segments of two headers or one data line (R381). -/
def Flit.fits (f : Flit) (x : Nat × Nat) : Bool :=
  let l := f.units ++ [x]
  if f.scaleup then ((headersOf l).length + 1) / 2 + (linesOf l).length ≤ 9 else l.length ≤ 7

/-- A unit joins the newest flit of its hop, when that one is of its ASID, has not been sent and has room, or begins another:
the flits, and the counter, sequence number and name of the next. -/
def packUnit (h : Bool × Nat) (u asid : Nat) (st : List Flit × Nat × Nat × Nat) (x : Nat × Nat) : List Flit × Nat × Nat × Nat :=
  let (l, ctr, seq, id) := st
  let fresh : List Flit × Nat × Nat × Nat := (l ++ [⟨id, h.1, u, h.2, asid, ctr, seq, false, [x]⟩], ctr + 1, seq + 1, id + 1)
  match l.reverse.find? fun g => g.scaleup == h.1 && g.src == u && g.dst == h.2 with
  | none => fresh
  | some g =>
    if g.asid == asid && !g.sent && g.fits x then
      (updateWhere (·.id == g.id) (fun (g : Flit) => { g with units := g.units ++ [x] }) l, ctr, seq, id)
    else fresh

/-- The flits with the units of a message over a hop. -/
def State.flitsWith (s : State) (m : Msg) (u : Nat) (h : Bool × Nat) : List Flit × Nat × Nat × Nat :=
  (m.units h.1).foldl (packUnit h u m.asid)
    (s.flits, SMap.get 0 s.links (linkKey h.1 u h.2 m.asid), SMap.get 0 s.links (seqKey u h.2), s.nextId)

/-- A message leaves a die over the hop given; it takes at most two new flits. -/
def State.launchFlit (s : State) (m : Msg) (u : Nat) (h : Bool × Nat) : State :=
  let r := s.flitsWith m u h
  { s with
    flits := r.1
    links := SMap.set 0 (SMap.set 0 s.links (linkKey h.1 u h.2 m.asid) r.2.1) (seqKey u h.2) r.2.2.1
    nextId := s.nextId + 2 }

/-- The bytes of the new flits of a message are charged to the enclave of its ASID, at the link or at the gateway that sends
them; the message is held until they are paid (R401, R402, log 83). -/
def State.spendFlits (s : State) (m : Msg) (u : Nat) (h : Bool × Nat) : State × Bool :=
  let n := (s.flitsWith m u h).1.length - s.flits.length
  let holder := (s.encOfAsid m.asid).getD 0
  let a := aperDie u
  let b := aperDie h.2
  if n = 0 then (s, true)
  else if h.1 then s.spend (aperPkg u) holder 2 a m.id (640 * n)
  else s.spend (aperPkg u) holder 1 (Nat.min a b * 8 + Nat.max a b) m.id (256 * n)

/-! ### The way of a message -/

/-- The pair of dies and the ASID of an SO sequence (R383). -/
def soKey (src dst asid : Nat) : Nat := (src * 4096 + dst) * 2048 + asid

/-- Of the requests whose SO order the gateways keep (R383). -/
def Msg.ordered (m : Msg) : Bool := m.so && m.opc < 0x80 && aperPkg m.src != aperPkg m.dst

/-- R383: the sequence number of an SO request to another package, as it leaves its die. -/
def State.sequence (s : State) (m : Msg) : State × Msg :=
  if m.ordered then
    let k := soKey m.src m.dst m.asid
    let n := SMap.get 0 s.soOut k
    ({ s with soOut := SMap.set 0 s.soOut k ((n + 1) % 2 ^ 32) }, { m with seq := n })
  else (s, m)

/-- A request before it is sent (R376): `n` names it. -/
def Msg.ask (n opc asid src dst ia : Nat) (so : Bool) (op fibre core : Nat) : Msg :=
  { id := n, opc, asid, src, dst, ia, so, gmask := 0, tid := n % 2 ^ 32, seq := 0, arg := 0, sub := 0, line := [], held := none
    op, fibre, core, req := src, arrived := false, came := 0, answer := .none }

/-- A message as the fault response of a closed link (R385). -/
def Msg.shut (m : Msg) : Msg :=
  { m with opc := 0x8F, so := false, gmask := 0, seq := 0, arg := 0x14, sub := 1, line := [], answer := .fault 0x14 1 }

/-- R383: 256 SO requests of its pair are on their way. -/
def State.soFull (s : State) (m : Msg) : Bool :=
  let k := soKey m.src m.dst m.asid
  m.ordered && 256 ≤ (SMap.get 0 s.soOut k + 2 ^ 32 - SMap.get 0 s.soNext k) % 2 ^ 32

/-- R383: an SO access of the fibre to another home has not performed. -/
def State.soWaits (s : State) (m : Msg) : Bool :=
  m.so && m.opc < 0x80 && match s.ops.find? (·.id == m.op) with
    | none => false
    | some o => s.ops.any fun e => e.ply == o.ply && e.id < o.id && match e.body with
      | .mem q _ => e.left.contains m.fibre && q.items.any fun i =>
          i.fibre == m.fibre && i.kind == 0 && i.state != .done && i.home != m.dst
      | .chartld .. => e.left.headD 64 == m.fibre && e.pages.any (·.2.2 == 0)
      | _ => false

/-- An earlier SO request of its pair waits at the same die, and not for another access of another fibre. -/
def State.soBehind (s : State) (m : Msg) (u : Nat) : Bool :=
  m.so && m.opc < 0x80 && s.msgs.any fun x => x.held == some u && x.id < m.id && x.so && x.opc < 0x80
    && x.src == m.src && x.dst == m.dst && x.asid == m.asid && (!s.soWaits x || x.fibre == m.fibre && x.core == m.core)

/-- The message stands at its destination gateway (R383, R384); the hub die is reached through one. -/
def Msg.atGateway (m : Msg) (u : Nat) : Bool := m.ordered && aperPkg u == aperPkg m.dst && aperDie u < 6

/-- R383: an SO request of another package that comes before its turn. -/
def State.soEarly (s : State) (m : Msg) : Bool := m.seq != SMap.get 0 s.soNext (soKey m.src m.dst m.asid)

def State.putMsg (s : State) (m : Msg) : State := { s with msgs := updateWhere (fun (x : Msg) => x.id == m.id) (fun _ => m) s.msgs }

/-- The message has reached the die that acts on it; arrivals are numbered (R380). -/
def State.arriveMsg (s : State) (m : Msg) : State :=
  State.putMsg { s with nextId := s.nextId + 1 } { m with arrived := true, held := none, came := s.nextId }

/-- R383: the destination gateway counts an SO request that it passes on. -/
def State.countSo (s : State) (m : Msg) (u : Nat) : State :=
  if m.atGateway u then { s with soNext := SMap.set 0 s.soNext (soKey m.src m.dst m.asid) ((m.seq + 1) % 2 ^ 32) } else s

/-- It crosses a hop, or waits for its budget (R402).  A source numbers its SO requests as they leave (R383). -/
def State.cross (s : State) (m : Msg) (u : Nat) (h : Bool × Nat) : State :=
  match s.spendFlits m u h with
  | (s, false) => s.putMsg { m with held := some u }
  | (s, true) =>
    let m := { m with held := none }
    let (s, m) := if u = m.src then s.sequence m else (s, m)
    ((s.countSo m u).putMsg m).launchFlit m u h

/-- THE WAY OF A MESSAGE from a die at which it stands (R380, R383 to R385): it has arrived, or goes on towards its own die, or
waits for its turn; where a firewall is closed its requester finds a fault response. -/
def State.advance (s : State) (m : Msg) (u : Nat) : State :=
  let request := m.opc < 0x80
  if (u == m.src && (s.soFull m || s.soWaits m)) || s.soBehind m u || (m.atGateway u && s.soEarly m) then
    s.putMsg { m with held := some u }
  else if u = m.dst then (s.countSo m u).arriveMsg m
  else match s.hop m.asid u m.dst with
    | some h => s.cross m u h
    | none =>
      let s := s.countSo m u
      let back := if request then m.src else m.dst
      let r := { m.shut with src := u, dst := back, held := none }
      if u = back || !request then s.arriveMsg r
      else match s.hop m.asid u back with
        | some h => s.cross r u h
        | none => s.arriveMsg r

/-- A request is sent. -/
def State.send (s : State) (m : Msg) : State := State.advance { s with msgs := s.msgs ++ [m] } m m.src

/-- The messages that are held go on, oldest first, where nothing holds them any longer. -/
def State.sendHeld (s : State) : State :=
  (s.msgs.filter (·.held.isSome)).foldl (init := s) fun s m => match m.held with
    | some u => s.advance m u
    | none => s

/-- A line with one granule in the place that an address gives it. -/
def lineWith (ia : Nat) (g : Granule) : List Granule := (List.replicate 8 ⟨0, 0⟩).set (ia / 8 % 8) g

/-- R377: the opcode that answers a request. -/
def answerOpc (opc : Nat) : Nat := if opc = 7 then 0x86 else 0x80 + opc

/-- What a response carries of an answer (R377): a line whose integrity tag failed goes as a fault. -/
def Answer.carried : Answer → Answer
  | .granule _ true => .fault 0x15 0
  | a => a

/-- The home answers a request; where the firewall is closed the requester finds a fault response (R385). -/
def State.respond (s : State) (m : Msg) (ans : Answer) : State :=
  let ans := ans.carried
  let opc := match ans with | .fault .. => 0x8F | _ => answerOpc m.opc
  let (arg, sub) := match ans with | .fault c sub => (c, sub) | _ => (0, 0)
  let line := match ans with
    | .granule g _ => lineWith m.ia g
    | .value r => lineWith m.ia ⟨r.val, selv r.val m.ia⟩
    | _ => []
  let r := { m with
    opc, src := m.dst, dst := m.src, seq := 0, so := false, gmask := 0, arg, sub, line, held := none, arrived := false, came := 0
    answer := ans }
  (s.putMsg r).advance r r.src

def State.dropMsg (s : State) (id : Nat) : State := { s with msgs := s.msgs.filter (·.id != id) }

/-! ### Writes at a home -/

def MemOp.setState (m : MemOp) (f : Nat) (t : AccessState) : MemOp :=
  { m with items := updateWhere (·.fibre == f) (fun (i : MItem) => { i with state := t }) m.items }

/-- The access of a fibre of an operation takes another state. -/
def State.setAccess (s : State) (op f : Nat) (t : AccessState) : State :=
  let put (o : Op) : Op := match o.body with
    | .mem m len => { o with body := .mem (m.setState f t) len }
    | _ => o
  { s with ops := updateWhere (·.id == op) put s.ops }

/-- A waiter leaves the wait table and reads again; one of another die is told by a wait response (R260, R377). -/
def State.wake (s : State) (w : Waiter) (t : AccessState) : State :=
  let s := { s with waiters := s.waiters.erase w }
  let s := s.setAccess w.op w.fibre t
  match s.msgs.find? fun m => m.opc == 6 && m.op == w.op && m.fibre == w.fibre with
  | some m => s.respond m .none
  | none => s

/-- A write to a granule wakes those that wait on it (R260), and is recorded against every speculation (R343). -/
def State.written (s : State) (a : Nat) : State :=
  let s := (s.waiters.filter (·.addr == a / 8 * 8)).foldl (fun s w => s.wake w .waiting) s
  { s with specs := s.specs.map fun (x : Spec) =>
      if x.written.contains (a / 64) then x else { x with written := a / 64 :: x.written } }

/-- The granules of a line but one, as poison (R251, a store into a line whose tag failed). -/
def State.poisonOthers (s : State) (a ia : Nat) : State :=
  (List.range 8).foldl (init := s) fun s i =>
    let b := a / 64 * 64 + 8 * i
    if b = a / 8 * 8 then s else (s.putGranule b (ia / 64 * 64 + 8 * i) ⟨0, poisonCode (ia / 64 * 64 + 8 * i)⟩).written b

/-- A write to a granule at its home (R251): a failed tag of its line is made new, the other granules becoming
poison, and the event is logged. -/
def State.store (s : State) (a ia : Nat) (g : Granule) : State :=
  let s := if s.tagFail.contains (a / 64) then
      { s.poisonOthers a ia with
        tagFail := s.tagFail.filter (· != a / 64), log := s.log ++ [⟨2, [a / 64]⟩] }
    else s
  (s.putGranule a ia g).written a

/-- A producer's write: the code is made for the value; a poisoned value is the poison pattern (R262, R263). -/
def State.storeReg (s : State) (a ia : Nat) (r : Reg) : State :=
  s.store a ia (if r.tag = .poison then ⟨0, poisonCode ia⟩ else ⟨r.val, selv r.val ia⟩)

end Sys2Proof.Machine
end

