-- ==== Sys2Proof/Machine/Shape.lean ====
section
/-! DEFINITION.  What the instruction stream needs to know of each instruction before it acts: opcode, pipe, beats
and latency (R59, R60, R133, R175), the prefix fields it uses (R27), the registers it names, whether it leaves a
distance temporary (R31), its scoreboard slot (R36). -/

namespace Sys2Proof.Machine

structure Shape where
  op : Nat := 0
  long : Bool := true
  pipe : Nat := 0
  beats : Nat := 1
  lat : Nat := 0
  rnd : Bool := false
  sat : Bool := false
  ftz : Bool := false
  nox : Bool := false
  prefixes : Bool := true  -- false: any prefix before it is an orphan (R27)
  isBind : Bool := false
  srcs : List Src := []    -- operands in the order D, A, B, C
  dst : Dst := .none
  temp : Bool := false
  slot : Option Nat := none
  pair : Bool := false     -- writes D and D + 1 (R179)
  preds : List Nat := []   -- predicates it reads
  pdst : Nat := 0          -- predicate it writes; 0 for none
  plat : Nat := 1          -- latency of a predicate result; 0 where it is not fixed
  span : Nat := 1          -- registers that it writes from D on (R57, R209)
  qm : Option Nat := none  -- modulus register it reads
  deriving DecidableEq, Repr

/-- R167, R181: cross-lane instructions and permutations read and write all fibres at the second beat. -/
def oneshot (sh : Shape) : Bool :=
  sh.long && ((0xA8 ≤ sh.op && sh.op ≤ 0xAC) || sh.op == 0xC8 || sh.op == 0xC9)

/-- R133, R134: the latency with which flags are merged: that of the result, of FCMP the later of its two. -/
def Shape.flagLat (sh : Shape) : Nat := if sh.pdst = 0 then sh.lat else Nat.max sh.lat sh.plat

def fmtIsFloat : Fmt → Bool
  | .f64 | .f32 | .f16 | .bf16 => true
  | _ => false

/-- R133: beats of div and rem, of fdiv and fsqrt, of the special functions; R175: of modular products. -/
def divBeats : Fmt → Nat
  | .i64 => 8 | .i32 => 4 | _ => 2
def fdivBeats : Fmt → Nat
  | .f64 => 8 | .f32 => 4 | _ => 2
def specBeats : Fmt → Nat
  | .f32 => 4 | _ => 2
def qBeats : Fmt → Nat
  | .q64 => 2 | _ => 1

/-- A destination that is read as a source. -/
def dstSrc : Dst → Src
  | .v n => .v n
  | .s n => .s n
  | .none => .zero

/-- A row of `shapeOf`.  An event has no shape: nothing is asked of it. -/
def shapeOf : Instr → Shape
  | .nop _ => { long := false, prefixes := false }
  | .pfx _ _ _ _ _ _ => { prefixes := false }
  | .chartWord _ _ _ _ => { op := 0x1FF }
  | .bind _ _ => { op := 0x01, long := false, prefixes := false, isBind := true }
  | .ifence _ => { op := 0x02, long := false, prefixes := false }
  | .rcv _ => { op := 0x03, long := false }
  | .fend _ => { op := 0x04, long := false }
  | .yield _ => { op := 0x05, long := false }
  | .exit _ => { op := 0x06, long := false }
  | .movBase _ d a => { op := 0x08, long := false, lat := 1, srcs := [a], dst := .v (d.setWidth 8), temp := true }
  | .movsBase _ d a => { op := 0x09, long := false, lat := 2, srcs := [a], dst := .s d, temp := true }
  | .taggetBase _ d a => { op := 0x0A, long := false, lat := 1, srcs := [a], dst := .v (d.setWidth 8), temp := true }
  | .tagsetBase _ d a _ => { op := 0x0B, long := false, lat := 1, srcs := [a], dst := .v (d.setWidth 8), temp := true }
  | .addBase _ d a b => { op := 0x10, long := false, lat := 1, sat := true, srcs := [a, b], dst := .v (d.setWidth 8), temp := true }
  | .subBase _ d a b => { op := 0x11, long := false, lat := 1, sat := true, srcs := [a, b], dst := .v (d.setWidth 8), temp := true }
  | .mulBase _ d a b => { op := 0x12, long := false, lat := 2, sat := true, srcs := [a, b], dst := .v (d.setWidth 8), temp := true }
  | .mulhiIBase _ d a b => { op := 0x13, long := false, lat := 2, srcs := [a, b], dst := .v (d.setWidth 8), temp := true }
  | .mulhiUiBase _ d a b => { op := 0x14, long := false, lat := 2, srcs := [a, b], dst := .v (d.setWidth 8), temp := true }
  | .minIBase _ d a b => { op := 0x15, long := false, lat := 1, srcs := [a, b], dst := .v (d.setWidth 8), temp := true }
  | .minUiBase _ d a b => { op := 0x16, long := false, lat := 1, srcs := [a, b], dst := .v (d.setWidth 8), temp := true }
  | .maxIBase _ d a b => { op := 0x17, long := false, lat := 1, srcs := [a, b], dst := .v (d.setWidth 8), temp := true }
  | .maxUiBase _ d a b => { op := 0x18, long := false, lat := 1, srcs := [a, b], dst := .v (d.setWidth 8), temp := true }
  | .andBase _ d a b => { op := 0x19, long := false, lat := 1, srcs := [a, b], dst := .v (d.setWidth 8), temp := true }
  | .orBase _ d a b => { op := 0x1A, long := false, lat := 1, srcs := [a, b], dst := .v (d.setWidth 8), temp := true }
  | .xorBase _ d a b => { op := 0x1B, long := false, lat := 1, srcs := [a, b], dst := .v (d.setWidth 8), temp := true }
  | .shlBase _ d a b => { op := 0x1C, long := false, lat := 1, srcs := [a, b], dst := .v (d.setWidth 8), temp := true }
  | .shrBase _ d a b => { op := 0x1D, long := false, lat := 1, srcs := [a, b], dst := .v (d.setWidth 8), temp := true }
  | .sarBase _ d a b => { op := 0x1E, long := false, lat := 1, srcs := [a, b], dst := .v (d.setWidth 8), temp := true }
  | .rotBase _ d a b => { op := 0x1F, long := false, lat := 1, srcs := [a, b], dst := .v (d.setWidth 8), temp := true }
  | .faddBase _ d a b => { op := 0x20, long := false, pipe := 1, lat := 2, rnd := true, sat := true, ftz := true, nox := true, srcs := [a, b], dst := .v (d.setWidth 8), temp := true }
  | .fsubBase _ d a b => { op := 0x21, long := false, pipe := 1, lat := 2, rnd := true, sat := true, ftz := true, nox := true, srcs := [a, b], dst := .v (d.setWidth 8), temp := true }
  | .fmulBase _ d a b => { op := 0x22, long := false, pipe := 1, lat := 3, rnd := true, sat := true, ftz := true, nox := true, srcs := [a, b], dst := .v (d.setWidth 8), temp := true }
  | .fminBase _ d a b => { op := 0x23, long := false, pipe := 1, lat := 2, ftz := true, nox := true, srcs := [a, b], dst := .v (d.setWidth 8), temp := true }
  | .fmaxBase _ d a b => { op := 0x24, long := false, pipe := 1, lat := 2, ftz := true, nox := true, srcs := [a, b], dst := .v (d.setWidth 8), temp := true }
  | .ldsBase _ d a b => { op := 0x28, long := false, pipe := 2, srcs := [a, b], dst := .v (d.setWidth 8), temp := true, lat := 4 }
  | .stsBase _ d a b => { op := 0x29, long := false, pipe := 2, srcs := [.v (d.setWidth 8), a, b] }
  | .ldBase _ d a b => { op := 0x2A, long := false, pipe := 2, srcs := [a, b], dst := .v (d.setWidth 8), slot := some 0 }
  | .stBase _ d a b => { op := 0x2B, long := false, pipe := 2, srcs := [.v (d.setWidth 8), a, b], slot := some 0 }
  | .qaddBase _ d a b => { op := 0x30, long := false, pipe := 1, lat := 2, nox := true, srcs := [a, b], dst := .v (d.setWidth 8), temp := true, qm := some 0 }
  | .qsubBase _ d a b => { op := 0x31, long := false, pipe := 1, lat := 2, nox := true, srcs := [a, b], dst := .v (d.setWidth 8), temp := true, qm := some 0 }
  | .qmulBase _ d a b => { op := 0x32, long := false, pipe := 1, lat := 4, nox := true, srcs := [a, b], dst := .v (d.setWidth 8), temp := true, qm := some 0 }
  | .chartld _ a _ slot _ => { op := 0x01, pipe := 2, srcs := [.s a], slot := some slot.toNat }
  | .chartrd _ d a _ => { op := 0x02, lat := 4, srcs := [a], dst := .s d, temp := true, span := 2 }
  | .bindBr _ _ _ => { op := 0x08, prefixes := false, isBind := true }
  | .bindBc _ n _ _ => { op := 0x09, prefixes := false, isBind := true, srcs := [.s n], dst := .s n }
  | .bindCall _ d _ _ => { op := 0x0A, prefixes := false, isBind := true, dst := d }
  | .bindRet _ r _ => { op := 0x0B, prefixes := false, isBind := true, srcs := [(dstSrc r)] }
  | .bindJmp _ r _ _ => { op := 0x0C, prefixes := false, isBind := true, srcs := [(dstSrc r)] }
  | .fork _ d a _ => { op := 0x10, lat := 2, srcs := [a], dst := d, temp := true }
  | .elect _ d pn => { op := 0x11, lat := 2, dst := d, temp := true, pdst := pn.toNat, plat := 2 }
  | .vote _ d pk _ pn => { op := 0x12, lat := 2, dst := d, temp := true, preds := [pk.toNat], pdst := pn.toNat, plat := 2 }
  | .phase _ _ => { op := 0x13 }
  | .sysc _ _ => { op := 0x14 }
  | .trap _ _ => { op := 0x18 }
  | .eret _ a _ => { op := 0x19, srcs := [a] }
  | .csrr _ d _ => { op := 0x1A, lat := 2, dst := d, temp := true }
  | .csrw _ a _ => { op := 0x1B, srcs := [a] }
  | .csrx _ d a _ _ => { op := 0x1C, lat := 2, srcs := [a], dst := d, temp := true }
  | .halt _ => { op := 0x1D }
  | .wfi _ a => { op := 0x1E, srcs := [a] }
  | .mov _ d a => { op := 0x20, lat := 1, srcs := [a], dst := d, temp := true }
  | .movi _ d mode _ => { op := 0x21, lat := 1, srcs := if mode = 3 then [(dstSrc d)] else [], dst := d, temp := true }
  | .movs _ d a => { op := 0x22, lat := 2, srcs := [a], dst := .s d, temp := true }
  | .tagset _ d a _ => { op := 0x23, lat := 1, srcs := [a], dst := d, temp := true }
  | .tagsetFl _ a => { op := 0x23, srcs := [a] }
  | .tagget _ d a => { op := 0x24, lat := 1, srcs := [a], dst := d, temp := true }
  | .taggetFl _ d => { op := 0x24, lat := 1, dst := d, temp := true }
  | .add _ d a b _ _ => { op := 0x40, lat := 1, sat := true, srcs := [a, b], dst := d, temp := true }
  | .sub _ d a b _ _ => { op := 0x41, lat := 1, sat := true, srcs := [a, b], dst := d, temp := true }
  | .mul _ d a b _ _ => { op := 0x42, lat := 2, sat := true, srcs := [a, b], dst := d, temp := true }
  | .mulhi _ d a b _ _ => { op := 0x43, lat := 2, srcs := [a, b], dst := d, temp := true }
  | .mad _ d a b c _ _ => { op := 0x44, lat := 2, sat := true, srcs := [a, b, c], dst := d, temp := true }
  | .div _ d a b f _ => { op := 0x45, beats := divBeats f, lat := 4, nox := true, srcs := [a, b], dst := d, temp := true }
  | .rem _ d a b f _ => { op := 0x46, beats := divBeats f, lat := 4, nox := true, srcs := [a, b], dst := d, temp := true }
  | .min _ d a b _ _ => { op := 0x47, lat := 1, srcs := [a, b], dst := d, temp := true }
  | .max _ d a b _ _ => { op := 0x48, lat := 1, srcs := [a, b], dst := d, temp := true }
  | .abs _ d a _ => { op := 0x49, lat := 1, sat := true, srcs := [a], dst := d, temp := true }
  | .neg _ d a _ => { op := 0x4A, lat := 1, sat := true, srcs := [a], dst := d, temp := true }
  | .and _ d a b _ => { op := 0x4B, lat := 1, srcs := [a, b], dst := d, temp := true }
  | .or _ d a b _ => { op := 0x4C, lat := 1, srcs := [a, b], dst := d, temp := true }
  | .xor _ d a b _ => { op := 0x4D, lat := 1, srcs := [a, b], dst := d, temp := true }
  | .andn _ d a b _ => { op := 0x4E, lat := 1, srcs := [a, b], dst := d, temp := true }
  | .not _ d a _ => { op := 0x4F, lat := 1, srcs := [a], dst := d, temp := true }
  | .shl _ d a b _ => { op := 0x50, lat := 1, srcs := [a, b], dst := d, temp := true }
  | .shr _ d a b _ => { op := 0x51, lat := 1, srcs := [a, b], dst := d, temp := true }
  | .sar _ d a b _ => { op := 0x52, lat := 1, srcs := [a, b], dst := d, temp := true }
  | .rot _ d a b _ => { op := 0x53, lat := 1, srcs := [a, b], dst := d, temp := true }
  | .clz _ d a _ => { op := 0x54, lat := 1, srcs := [a], dst := d, temp := true }
  | .popc _ d a _ => { op := 0x55, lat := 1, srcs := [a], dst := d, temp := true }
  | .cmp _ d a b _ _ _ pn _ => { op := 0x56, lat := 1, srcs := [a, b], dst := d, temp := true, pdst := pn.toNat, plat := 2 }
  | .sel _ d a b c _ => { op := 0x57, lat := 1, srcs := [a, b, c], dst := d, temp := true }
  | .addi _ d a _ _ _ => { op := 0x58, lat := 1, sat := true, srcs := [a], dst := d, temp := true }
  | .pand _ pd pa pb _ _ => { op := 0x60, lat := 1, preds := [pa.toNat, pb.toNat], pdst := pd.toNat }
  | .por _ pd pa pb _ _ => { op := 0x61, lat := 1, preds := [pa.toNat, pb.toNat], pdst := pd.toNat }
  | .pxor _ pd pa pb _ _ => { op := 0x62, lat := 1, preds := [pa.toNat, pb.toNat], pdst := pd.toNat }
  | .pnot _ pd pa _ => { op := 0x63, lat := 1, preds := [pa.toNat], pdst := pd.toNat }
  | .pget _ d => { op := 0x64, lat := 1, dst := .v d, temp := true, preds := List.range 16 }
  | .pset _ a _ => { op := 0x65, lat := 1, srcs := [a] }
  | .fadd _ d a b _ _ => { op := 0x80, pipe := 1, lat := 2, rnd := true, sat := true, ftz := true, nox := true, srcs := [a, b], dst := d, temp := true }
  | .fsub _ d a b _ _ => { op := 0x81, pipe := 1, lat := 2, rnd := true, sat := true, ftz := true, nox := true, srcs := [a, b], dst := d, temp := true }
  | .fmul _ d a b _ _ => { op := 0x82, pipe := 1, lat := 3, rnd := true, sat := true, ftz := true, nox := true, srcs := [a, b], dst := d, temp := true }
  | .fma _ d a b c _ => { op := 0x83, pipe := 1, lat := 3, rnd := true, sat := true, ftz := true, nox := true, srcs := [a, b, c], dst := d, temp := true }
  | .fmin _ d a b _ => { op := 0x84, pipe := 1, lat := 2, ftz := true, nox := true, srcs := [a, b], dst := d, temp := true }
  | .fmax _ d a b _ => { op := 0x85, pipe := 1, lat := 2, ftz := true, nox := true, srcs := [a, b], dst := d, temp := true }
  | .fabs _ d a _ => { op := 0x86, pipe := 1, lat := 1, srcs := [a], dst := d, temp := true }
  | .fneg _ d a _ => { op := 0x87, pipe := 1, lat := 1, srcs := [a], dst := d, temp := true }
  | .fcmp _ d a b _ _ pn _ => { op := 0x88, pipe := 1, lat := 1, ftz := true, nox := true, srcs := [a, b], dst := d, temp := true, pdst := pn.toNat, plat := 2 }
  | .fdiv _ d a b f _ => { op := 0x89, pipe := 1, beats := fdivBeats f, lat := 4, rnd := true, sat := true, ftz := true, nox := true, srcs := [a, b], dst := d, temp := true }
  | .fsqrt _ d a f _ => { op := 0x8A, pipe := 1, beats := fdivBeats f, lat := 4, rnd := true, sat := true, ftz := true, nox := true, srcs := [a], dst := d, temp := true }
  | .fdot _ d a b c _ => { op := 0x8B, pipe := 1, lat := 3, rnd := true, sat := true, ftz := true, nox := true, srcs := [a, b, c], dst := d, temp := true }
  | .rcp _ d a f => { op := 0x90, pipe := 1, beats := specBeats f, lat := 4, sat := true, ftz := true, nox := true, srcs := [a], dst := d, temp := true }
  | .rsqrt _ d a f => { op := 0x91, pipe := 1, beats := specBeats f, lat := 4, sat := true, ftz := true, nox := true, srcs := [a], dst := d, temp := true }
  | .exp2 _ d a f => { op := 0x92, pipe := 1, beats := specBeats f, lat := 4, sat := true, ftz := true, nox := true, srcs := [a], dst := d, temp := true }
  | .log2 _ d a f => { op := 0x93, pipe := 1, beats := specBeats f, lat := 4, sat := true, ftz := true, nox := true, srcs := [a], dst := d, temp := true }
  | .sin _ d a f => { op := 0x94, pipe := 1, beats := specBeats f, lat := 4, sat := true, ftz := true, nox := true, srcs := [a], dst := d, temp := true }
  | .cos _ d a f => { op := 0x95, pipe := 1, beats := specBeats f, lat := 4, sat := true, ftz := true, nox := true, srcs := [a], dst := d, temp := true }
  | .tanh _ d a f => { op := 0x96, pipe := 1, beats := specBeats f, lat := 4, sat := true, ftz := true, nox := true, srcs := [a], dst := d, temp := true }
  | .cvt _ d a f _ _ _ => { op := 0xA0, pipe := 1, lat := 2, rnd := true, sat := !f.isInt, ftz := true, nox := true, srcs := [a], dst := d, temp := true }
  | .pack _ d a b f _ _ => { op := 0xA1, pipe := 1, lat := 2, rnd := !f.isInt, sat := true, ftz := !f.isInt, nox := !f.isInt, srcs := [a, b], dst := d, temp := true }
  | .unpack _ d a f _ _ => { op := 0xA2, pipe := 1, lat := 2, ftz := fmtIsFloat f, nox := fmtIsFloat f, srcs := [a], dst := d, temp := true }
  | .shfl _ d a b _ _ _ => { op := 0xA8, pipe := 1, lat := 2, srcs := [a, b], dst := d, temp := true }
  | .bcast _ d a b _ _ => { op := 0xA9, pipe := 1, lat := 2, srcs := [a, b], dst := d, temp := true }
  | .lreduce _ d a f _ _ _ _ => { op := 0xAA, pipe := 1, lat := 4, rnd := !f.isInt, sat := true, ftz := !f.isInt, nox := !f.isInt, srcs := [a], dst := d, temp := true }
  | .lscan _ d a f _ _ _ _ _ => { op := 0xAB, pipe := 1, lat := 4, rnd := !f.isInt, sat := true, ftz := !f.isInt, nox := !f.isInt, srcs := [a], dst := d, temp := true }
  | .swiz _ d a _ _ => { op := 0xAC, pipe := 1, lat := 2, srcs := [a], dst := d, temp := true }
  | .qset _ a _ _ => { op := 0xC0, pipe := 1, beats := 2, lat := 4, nox := true, srcs := [a] }
  | .qadd _ d a b _ qm => { op := 0xC1, pipe := 1, lat := 2, nox := true, srcs := [a, b], dst := d, temp := true, qm := some qm.toNat }
  | .qsub _ d a b _ qm => { op := 0xC2, pipe := 1, lat := 2, nox := true, srcs := [a, b], dst := d, temp := true, qm := some qm.toNat }
  | .qmul _ d a b f qm => { op := 0xC3, pipe := 1, beats := qBeats f, lat := 4, nox := true, srcs := [a, b], dst := d, temp := true, qm := some qm.toNat }
  | .qmac _ d a b c f qm => { op := 0xC4, pipe := 1, beats := qBeats f, lat := 4, nox := true, srcs := [a, b, c], dst := d, temp := true, qm := some qm.toNat }
  | .qred _ d a _ _ qm => { op := 0xC5, pipe := 1, lat := 4, srcs := [a], dst := d, temp := true, qm := some qm.toNat }
  | .qbfly _ d a b c f qm => { op := 0xC6, pipe := 1, beats := qBeats f, lat := 4, nox := true, srcs := [a, b, c], dst := .v d, temp := true, pair := true, qm := some qm.toNat }
  | .qibfly _ d a b c f qm => { op := 0xC7, pipe := 1, beats := qBeats f, lat := 4, nox := true, srcs := [a, b, c], dst := .v d, temp := true, pair := true, qm := some qm.toNat }
  | .hperm _ d a b _ _ => { op := 0xC8, pipe := 1, beats := 2, lat := 4, srcs := [a, b], dst := d, temp := true }
  | .hauto _ d a b _ qm _ => { op := 0xC9, pipe := 1, beats := 2, lat := 4, nox := true, srcs := [a, b], dst := d, temp := true, qm := some qm.toNat }
  | .mma _ d _ b slot _ _ => { op := 0xE0, pipe := 2, rnd := true, srcs := [d, b], slot := some slot.toNat }
  | .mmai _ d _ b slot _ _ _ => { op := 0xE1, pipe := 2, sat := true, srcs := [d, b], slot := some slot.toNat }
  | .mmag _ d _ b slot _ _ _ => { op := 0xE2, pipe := 2, rnd := true, srcs := [d, b], slot := some slot.toNat }
  | .mmac _ d _ b slot _ => { op := 0xE3, pipe := 2, rnd := true, srcs := [d, b], slot := some slot.toNat }
  | .accalloc _ d slot => { op := 0xE8, pipe := 2, dst := .s d, slot := some slot.toNat }
  | .acctry _ d slot pn => { op := 0xE9, pipe := 2, dst := .s d, slot := some slot.toNat, pdst := pn.toNat, plat := 0 }
  | .accfree _ d slot => { op := 0xEA, pipe := 2, srcs := [d], slot := some slot.toNat }
  | .acczero _ d slot => { op := 0xEB, pipe := 2, srcs := [d], slot := some slot.toNat }
  | .accld _ d a _ slot _ => { op := 0xEC, pipe := 2, srcs := [d, .s a], slot := some slot.toNat }
  | .accst _ d a _ slot => { op := 0xED, pipe := 2, srcs := [d, .s a], slot := some slot.toNat }
  | .mread _ d a slot _ _ => { op := 0xEE, pipe := 2, srcs := [a], dst := .v d, span := 16, slot := some slot.toNat }
  | .lds _ d a _ _ => { op := 0x100, pipe := 2, srcs := [a], dst := d, temp := true, lat := 4 }
  | .sts _ d a _ => { op := 0x101, pipe := 2, srcs := [d, a] }
  | .ldsfe _ d a _ _ => { op := 0x102, pipe := 2, srcs := [a], dst := d, temp := true, lat := 4 }
  | .stsfe _ d a _ => { op := 0x103, pipe := 2, srcs := [d, a] }
  | .sfe _ a _ _ => { op := 0x104, pipe := 2, srcs := [a] }
  | .tlook _ d a _ pn => { op := 0x108, pipe := 2, srcs := [a], dst := d, temp := true, lat := 4, plat := 4, pdst := pn.toNat }
  | .tset _ a b _ => { op := 0x109, pipe := 2, srcs := [a, b] }
  | .tinv _ b _ => { op := 0x10A, pipe := 2, srcs := [b] }
  | .racq _ d a pn => { op := 0x110, pipe := 2, srcs := [a], dst := .s d, temp := true, lat := 2, plat := 2, pdst := pn.toNat }
  | .rpub _ a b => { op := 0x111, pipe := 2, srcs := [a, b] }
  | .rtake _ d a pn => { op := 0x112, pipe := 2, srcs := [a], dst := .s d, temp := true, lat := 2, plat := 2, pdst := pn.toNat }
  | .rrel _ a b => { op := 0x113, pipe := 2, srcs := [a, b] }
  | .barinit _ a b => { op := 0x118, pipe := 2, srcs := [a, b] }
  | .bararr _ d a b => { op := 0x119, pipe := 2, srcs := [a, b], dst := d, temp := true, lat := 2 }
  | .barwait _ a b => { op := 0x11A, pipe := 2, srcs := [a, b] }
  | .ld _ d a _ slot _ _ _ => { op := 0x120, pipe := 2, srcs := [a], dst := d, slot := some slot.toNat }
  | .st _ d a _ slot _ _ => { op := 0x121, pipe := 2, srcs := [d, a], slot := some slot.toNat }
  | .atom _ d a b c slot _ => { op := 0x122, pipe := 2, srcs := [a, b, c], dst := d, slot := some slot.toNat }
  | .redms _ a b _ _ _ => { op := 0x123, pipe := 2, srcs := [a, b] }
  | .pref _ a _ _ => { op := 0x124, pipe := 2, srcs := [a] }
  | .fence _ _ _ _ => { op := 0x128, pipe := 2 }
  | .waitf _ _ => { op := 0x129, pipe := 2 }
  | .waitv _ d a b c _ => { op := 0x12A, pipe := 2, srcs := [a, b, c], dst := d }
  | .wakev _ d a b slot _ => { op := 0x12B, pipe := 2, srcs := [a, b], dst := d, slot := some slot.toNat }
  | .copy _ d a b slot _ _ _ _ _ => { op := 0x140, pipe := 2, rnd := true, sat := true, srcs := d :: b :: (List.range 14).map fun i => .s (a + BitVec.ofNat 6 i), slot := some slot.toNat }
  | .copyl _ d a b c slot _ _ => { op := 0x141, pipe := 2, srcs := [d, a, b, c], slot := some slot.toNat }
  | .cmap _ a _ slot _ => { op := 0x142, pipe := 2, srcs := [.s a], slot := some slot.toNat }
  | .stgpost _ d a b slot => { op := 0x148, pipe := 2, srcs := [a, b], dst := d, slot := some slot.toNat }
  | .stgadv _ a b _ => { op := 0x149, pipe := 2, srcs := [a, b] }
  | .npost _ d a b slot => { op := 0x150, pipe := 2, srcs := [a, b], dst := d, slot := some slot.toNat }
  | .ncqw _ d a b _ _ => { op := 0x151, pipe := 2, srcs := [a, b], dst := d }
  | .launch _ d a b slot => { op := 0x158, pipe := 2, srcs := [a, b], dst := d, slot := some slot.toNat }
  | .rngset _ a b slot _ => { op := 0x160, pipe := 2, srcs := [.s a, .s (a + 1), .s (a + 2), b], slot := some slot.toNat }
  | .atinv _ a b slot _ => { op := 0x161, pipe := 2, srcs := [a, b], slot := some slot.toNat }
  | .pgq _ d a b slot => { op := 0x162, pipe := 2, srcs := [a, b], dst := d, slot := some slot.toNat }
  | .ecreate _ d a slot => { op := 0x168, pipe := 2, srcs := [a], dst := .s d, slot := some slot.toNat }
  | .eadd _ d a slot => { op := 0x169, pipe := 2, srcs := [a], dst := .s d, slot := some slot.toNat }
  | .eaddDev _ d a slot => { op := 0x169, pipe := 2, srcs := [a], dst := .s d, slot := some slot.toNat }
  | .einit _ d a slot => { op := 0x16A, pipe := 2, srcs := [a], dst := .s d, slot := some slot.toNat }
  | .eenter _ d a b => { op := 0x16B, pipe := 2, srcs := [a, b], dst := .s d }
  | .eexit _ => { op := 0x16C, pipe := 2 }
  | .eseal _ d a slot => { op := 0x16D, pipe := 2, srcs := [.s a, .s (a + 1), .s (a + 2), .s (a + 3)], dst := .s d, slot := some slot.toNat }
  | .eunseal _ d a slot => { op := 0x16E, pipe := 2, srcs := [.s a, .s (a + 1), .s (a + 2)], dst := .s d, slot := some slot.toNat }
  | .ereport _ d a b slot => { op := 0x16F, pipe := 2, srcs := [a, b], dst := .s d, slot := some slot.toNat }
  | .edestroy _ d a slot => { op := 0x170, pipe := 2, srcs := [a], dst := .s d, slot := some slot.toNat }
  | _ => {}

/-- The head of a word: chain bit, stall count and guard (R13, R19). -/
def headOfInstr : Instr → Head
  | .nop h => h
  | .pfx _ _ _ _ _ _ => ⟨false, 0, 0⟩
  | .chartWord ch st _ _ => ⟨ch, st.setWidth 4, 0⟩
  | .bind h _ => h
  | .ifence h => h
  | .rcv h => h
  | .fend h => h
  | .yield h => h
  | .exit h => h
  | .movBase h _ _ => h
  | .movsBase h _ _ => h
  | .taggetBase h _ _ => h
  | .tagsetBase h _ _ _ => h
  | .addBase h _ _ _ => h
  | .subBase h _ _ _ => h
  | .mulBase h _ _ _ => h
  | .mulhiIBase h _ _ _ => h
  | .mulhiUiBase h _ _ _ => h
  | .minIBase h _ _ _ => h
  | .minUiBase h _ _ _ => h
  | .maxIBase h _ _ _ => h
  | .maxUiBase h _ _ _ => h
  | .andBase h _ _ _ => h
  | .orBase h _ _ _ => h
  | .xorBase h _ _ _ => h
  | .shlBase h _ _ _ => h
  | .shrBase h _ _ _ => h
  | .sarBase h _ _ _ => h
  | .rotBase h _ _ _ => h
  | .faddBase h _ _ _ => h
  | .fsubBase h _ _ _ => h
  | .fmulBase h _ _ _ => h
  | .fminBase h _ _ _ => h
  | .fmaxBase h _ _ _ => h
  | .ldsBase h _ _ _ => h
  | .stsBase h _ _ _ => h
  | .ldBase h _ _ _ => h
  | .stBase h _ _ _ => h
  | .qaddBase h _ _ _ => h
  | .qsubBase h _ _ _ => h
  | .qmulBase h _ _ _ => h
  | .chartld h _ _ _ _ => h
  | .chartrd h _ _ _ => h
  | .bindBr h _ _ => h
  | .bindBc h _ _ _ => h
  | .bindCall h _ _ _ => h
  | .bindRet h _ _ => h
  | .bindJmp h _ _ _ => h
  | .fork h _ _ _ => h
  | .elect h _ _ => h
  | .vote h _ _ _ _ => h
  | .phase h _ => h
  | .sysc h _ => h
  | .trap h _ => h
  | .eret h _ _ => h
  | .csrr h _ _ => h
  | .csrw h _ _ => h
  | .csrx h _ _ _ _ => h
  | .halt h => h
  | .wfi h _ => h
  | .mov h _ _ => h
  | .movi h _ _ _ => h
  | .movs h _ _ => h
  | .tagset h _ _ _ => h
  | .tagsetFl h _ => h
  | .tagget h _ _ => h
  | .taggetFl h _ => h
  | .add h _ _ _ _ _ => h
  | .sub h _ _ _ _ _ => h
  | .mul h _ _ _ _ _ => h
  | .mulhi h _ _ _ _ _ => h
  | .mad h _ _ _ _ _ _ => h
  | .div h _ _ _ _ _ => h
  | .rem h _ _ _ _ _ => h
  | .min h _ _ _ _ _ => h
  | .max h _ _ _ _ _ => h
  | .abs h _ _ _ => h
  | .neg h _ _ _ => h
  | .and h _ _ _ _ => h
  | .or h _ _ _ _ => h
  | .xor h _ _ _ _ => h
  | .andn h _ _ _ _ => h
  | .not h _ _ _ => h
  | .shl h _ _ _ _ => h
  | .shr h _ _ _ _ => h
  | .sar h _ _ _ _ => h
  | .rot h _ _ _ _ => h
  | .clz h _ _ _ => h
  | .popc h _ _ _ => h
  | .cmp h _ _ _ _ _ _ _ _ => h
  | .sel h _ _ _ _ _ => h
  | .addi h _ _ _ _ _ => h
  | .pand h _ _ _ _ _ => h
  | .por h _ _ _ _ _ => h
  | .pxor h _ _ _ _ _ => h
  | .pnot h _ _ _ => h
  | .pget h _ => h
  | .pset h _ _ => h
  | .fadd h _ _ _ _ _ => h
  | .fsub h _ _ _ _ _ => h
  | .fmul h _ _ _ _ _ => h
  | .fma h _ _ _ _ _ => h
  | .fmin h _ _ _ _ => h
  | .fmax h _ _ _ _ => h
  | .fabs h _ _ _ => h
  | .fneg h _ _ _ => h
  | .fcmp h _ _ _ _ _ _ _ => h
  | .fdiv h _ _ _ _ _ => h
  | .fsqrt h _ _ _ _ => h
  | .fdot h _ _ _ _ _ => h
  | .rcp h _ _ _ => h
  | .rsqrt h _ _ _ => h
  | .exp2 h _ _ _ => h
  | .log2 h _ _ _ => h
  | .sin h _ _ _ => h
  | .cos h _ _ _ => h
  | .tanh h _ _ _ => h
  | .cvt h _ _ _ _ _ _ => h
  | .pack h _ _ _ _ _ _ => h
  | .unpack h _ _ _ _ _ => h
  | .shfl h _ _ _ _ _ _ => h
  | .bcast h _ _ _ _ _ => h
  | .lreduce h _ _ _ _ _ _ _ => h
  | .lscan h _ _ _ _ _ _ _ _ => h
  | .swiz h _ _ _ _ => h
  | .qset h _ _ _ => h
  | .qadd h _ _ _ _ _ => h
  | .qsub h _ _ _ _ _ => h
  | .qmul h _ _ _ _ _ => h
  | .qmac h _ _ _ _ _ _ => h
  | .qred h _ _ _ _ _ => h
  | .qbfly h _ _ _ _ _ _ => h
  | .qibfly h _ _ _ _ _ _ => h
  | .hperm h _ _ _ _ _ => h
  | .hauto h _ _ _ _ _ _ => h
  | .mma h _ _ _ _ _ _ => h
  | .mmai h _ _ _ _ _ _ _ => h
  | .mmag h _ _ _ _ _ _ _ => h
  | .mmac h _ _ _ _ _ => h
  | .accalloc h _ _ => h
  | .acctry h _ _ _ => h
  | .accfree h _ _ => h
  | .acczero h _ _ => h
  | .accld h _ _ _ _ _ => h
  | .accst h _ _ _ _ => h
  | .mread h _ _ _ _ _ => h
  | .lds h _ _ _ _ => h
  | .sts h _ _ _ => h
  | .ldsfe h _ _ _ _ => h
  | .stsfe h _ _ _ => h
  | .sfe h _ _ _ => h
  | .tlook h _ _ _ _ => h
  | .tset h _ _ _ => h
  | .tinv h _ _ => h
  | .racq h _ _ _ => h
  | .rpub h _ _ => h
  | .rtake h _ _ _ => h
  | .rrel h _ _ => h
  | .barinit h _ _ => h
  | .bararr h _ _ _ => h
  | .barwait h _ _ => h
  | .ld h _ _ _ _ _ _ _ => h
  | .st h _ _ _ _ _ _ => h
  | .atom h _ _ _ _ _ _ => h
  | .redms h _ _ _ _ _ => h
  | .pref h _ _ _ => h
  | .fence h _ _ _ => h
  | .waitf h _ => h
  | .waitv h _ _ _ _ _ => h
  | .wakev h _ _ _ _ _ => h
  | .copy h _ _ _ _ _ _ _ _ _ => h
  | .copyl h _ _ _ _ _ _ _ => h
  | .cmap h _ _ _ _ => h
  | .stgpost h _ _ _ _ => h
  | .stgadv h _ _ _ => h
  | .npost h _ _ _ _ => h
  | .ncqw h _ _ _ _ _ => h
  | .launch h _ _ _ _ => h
  | .rngset h _ _ _ _ => h
  | .atinv h _ _ _ _ => h
  | .pgq h _ _ _ _ => h
  | .ecreate h _ _ _ => h
  | .eadd h _ _ _ => h
  | .eaddDev h _ _ _ => h
  | .einit h _ _ _ => h
  | .eenter h _ _ _ => h
  | .eexit h => h
  | .eseal h _ _ _ => h
  | .eunseal h _ _ _ => h
  | .ereport h _ _ _ _ => h
  | .edestroy h _ _ _ => h
  | _ => ⟨false, 0, 0⟩

/-- R60: the layout of each legal long opcode. -/
def opLayout (op : Nat) : Option Layout :=
  if [0x044, 0x057, 0x083, 0x08B, 0x0C4, 0x0C6, 0x0C7, 0x0C8, 0x122, 0x12A, 0x141].contains op then some .l3
  else if [0x001, 0x002, 0x010, 0x013, 0x014, 0x018, 0x01A, 0x01B, 0x01C, 0x058, 0x0EC, 0x0ED, 0x100, 0x101, 0x102, 0x103, 0x104, 0x120, 0x121, 0x124, 0x142].contains op then some .li
  else if [0x008, 0x009, 0x00A, 0x00B, 0x00C, 0x021].contains op then some .lw
  else if [0x011, 0x012, 0x019, 0x01D, 0x01E, 0x020, 0x022, 0x023, 0x024, 0x040, 0x041, 0x042, 0x043, 0x045, 0x046, 0x047, 0x048, 0x049, 0x04A, 0x04B, 0x04C, 0x04D, 0x04E, 0x04F, 0x050, 0x051, 0x052, 0x053, 0x054, 0x055, 0x056, 0x060, 0x061, 0x062, 0x063, 0x064, 0x065, 0x080, 0x081, 0x082, 0x084, 0x085, 0x086, 0x087, 0x088, 0x089, 0x08A, 0x090, 0x091, 0x092, 0x093, 0x094, 0x095, 0x096, 0x0A0, 0x0A1, 0x0A2, 0x0A8, 0x0A9, 0x0AA, 0x0AB, 0x0AC, 0x0C0, 0x0C1, 0x0C2, 0x0C3, 0x0C5, 0x0C9, 0x0E0, 0x0E1, 0x0E2, 0x0E3, 0x0E8, 0x0E9, 0x0EA, 0x0EB, 0x0EE, 0x108, 0x109, 0x10A, 0x110, 0x111, 0x112, 0x113, 0x118, 0x119, 0x11A, 0x123, 0x128, 0x129, 0x12B, 0x140, 0x148, 0x149, 0x150, 0x151, 0x158, 0x160, 0x161, 0x162, 0x168, 0x169, 0x16A, 0x16B, 0x16C, 0x16D, 0x16E, 0x16F, 0x170].contains op then some .lm
  else none

end Sys2Proof.Machine
end

