-- ==== Sys2Proof/Machine/Ops.lean ====
section
/-! DEFINITION.  Named operations over plies, fibres and courses; taking an exception and returning from one
(01 R32, R49; 02 R65 to R70; 13 R355 to R364, R425; 11 R320). -/

namespace Sys2Proof.Machine

/-! ### Plies, courses, fibres -/

def Temp.none : Temp := ⟨false, 0, 0⟩

/-- The run state past an instruction that leaves no temporary (R31): the temporary that names it is stale. -/
def Run.pass (r : Run) (len : Nat) : Run :=
  { pc := r.pc + len, pos := r.pos + 1, temps := (Temp.none :: r.temps).take 7, pfx := none }


/-- When a temporary can be read, in a fibre below 32 or in one above (R77). -/
def Temp.at (t : Temp) (late : Bool) : Nat := if late then t.late else t.ready

/-- A course that starts a run. -/
def Course.fresh (id age : Nat) (fs : List Nat) (pc : Nat) : Course :=
  ⟨id, age, fs, Run.start pc, .ready, [], 0, [], 0, 0, false⟩

def State.ply (s : State) (h : Nat) : Option Ply := s.plies.find? (·.handle == h)

def State.putPly (s : State) (p : Ply) : State :=
  { s with plies := updateWhere (·.handle == p.handle) (fun _ => p) s.plies }

def State.modPly (s : State) (h : Nat) (f : Ply → Ply) : State :=
  { s with plies := updateWhere (·.handle == h) f s.plies }

def Ply.fibre (p : Ply) (f : Nat) : Fibre := p.fibres.getD f Fibre.dormant

def Ply.modFibre (p : Ply) (f : Nat) (g : Fibre → Fibre) : Ply :=
  { p with fibres := p.fibres.modify f g }

def Ply.modFibres (p : Ply) (fs : List Nat) (g : Nat → Fibre → Fibre) : Ply :=
  fs.foldl (fun p f => p.modFibre f (g f)) p

def Ply.course (p : Ply) (c : Nat) : Option Course := p.courses.find? (·.id == c)

def Ply.putCourse (p : Ply) (c : Course) : Ply :=
  { p with courses := updateWhere (·.id == c.id) (fun _ => c) p.courses }

def Ply.dropCourse (p : Ply) (c : Nat) : Ply := { p with courses := p.courses.filter (·.id != c) }

def Ply.liveFibres (p : Ply) : List Nat := (List.range p.width).filter fun f => (p.fibre f).live

def Ply.isHub (p : Ply) : Bool := p.hub.isSome

def Ply.level3 (p : Ply) : Nat := match p.hub with | some h => h.level | none => 0

def Bank.get (l : List Bank) (n : Nat) : Bank := l.getD n Bank.empty

def Hub.bank (h : Hub) (n : Nat) : Bank := Bank.get h.banks n

def Hub.setBank (h : Hub) (n : Nat) (b : Bank) : Hub :=
  { h with banks := (List.range 3).map fun i => if i = n then b else h.bank i }

/-- R105: the fields of ply_ctl. -/
def Ply.sbcheck (p : Ply) : Bool := p.plyCtl.getLsbD 0
def Ply.divtrap (p : Ply) : Bool := p.plyCtl.getLsbD 1
def Ply.rm (p : Ply) : Nat := (p.plyCtl.extractLsb' 2 3).toNat
def Ply.ftz (p : Ply) : Bool := p.plyCtl.getLsbD 5
def Ply.te (p : Ply) : BitVec 5 := p.plyCtl.extractLsb' 6 5

/-- R65: the older of two courses, ties going to the lowest fibre. -/
def Course.key (c : Course) : Nat := c.age * 64 + c.fibres.headD 63

def oldestCourse (l : List Course) : Option Course := minBy Course.key l

/-- A course's references of R67 after some of its fibres leave it. -/
def restrictSb (fs : List Nat) (sb : List SbRef) : List SbRef :=
  sb.map fun r => { r with own := r.own.filter fs.contains }

/-- A course with only some of its fibres (R66, R69). -/
def Course.restrict (c : Course) (fs : List Nat) : Course := { c with fibres := fs, sb := restrictSb fs c.sb }

/-- Places a course's remaining fibres; without any, it ceases to exist (R91). -/
def Ply.keepCourse (p : Ply) (c : Course) : Ply := if c.fibres.isEmpty then p.dropCourse c.id else p.putCourse c

/-! ### Register writes (R101, R109, R110) -/

/-- The register without what had struck it: a write makes every codeword afresh. -/
def Ply.rewritten (p : Ply) (fibre : Option Nat) (n : Nat) : List Upset :=
  p.upsets.filter fun u => !(u.fibre == fibre && u.reg == n)

def Ply.setV (p : Ply) (f n : Nat) (r : Reg) : Ply :=
  { p.modFibre f fun x => { x with v := SMap.set Reg.zero x.v n r } with upsets := p.rewritten (some f) n }

def Ply.setS (p : Ply) (n : Nat) (r : Reg) : Ply :=
  { p with s := SMap.set Reg.zero p.s n r, upsets := p.rewritten none n }

/-- A destination register of a fibre; code 327 discards (R22). -/
def Ply.setDst (p : Ply) (f : Nat) (d : Dst) (r : Reg) : Ply :=
  match d with
  | .v n => p.setV f n.toNat r
  | .s n => p.setS n.toNat r
  | .none => p

/-! ### Landing of fixed-latency results (R15, R38, R134) -/

def setPred (w : BitVec 16) (n : Nat) (b : Bool) : BitVec 16 :=
  if n = 0 then w else if b then w ||| (1#16 <<< n) else w &&& ~~~ (1#16 <<< n)

def Ply.landOne (p : Ply) (l : Landing) : Ply :=
  match l.target with
  | .v f n => p.setV f n l.reg
  | .s n => p.setS n l.reg
  | .p f n => p.modFibre f fun x => { x with pred := setPred x.pred n (l.reg.val.getLsbD 0) }
  | .flags f => p.modFibre f fun x => { x with flags := x.flags ||| l.reg.val.setWidth 5 }
  | .qm n m => { p with qm := SMap.set QMod.empty p.qm n m }

/-- Everything that `due` selects lands, in the order of its cycles. -/
def Ply.landWhere (p : Ply) (due : Landing → Bool) : Ply :=
  (sortBy (·.time) (p.flight.filter due)).foldl Ply.landOne { p with flight := p.flight.filter (!due ·) }

def Ply.land (p : Ply) (t : Nat) : Ply := p.landWhere fun l => l.time ≤ t

/-- The fibre a landing belongs to. -/
def Target.fibre : Target → Option Nat
  | .v f _ => some f
  | .s _ => none
  | .p f _ => some f
  | .flags f => some f
  | .qm _ _ => none

/-- What an instruction issued at `t` sees: fibres 32 and above read `half` cycles later (R77). -/
def Ply.viewAt (p : Ply) (t half : Nat) : Ply :=
  p.landWhere fun l => match l.target.fibre with
    | some f => l.time ≤ (if 32 ≤ f then t + half else t)
    | none => l.time ≤ t

/-! ### Faults and parking -/

/-- A fault of one fibre: its cause and its eaux. -/
structure FaultAt where
  cause : Nat
  eaux : Word
  deriving DecidableEq, Repr

/-- R10: of the faults found at one stage, the one of lowest cause; the first of equals. -/
def lowestFault (l : List FaultAt) : Option FaultAt := minBy (·.cause) l

/-- A stage of R10: nothing found, or the fault reported. -/
def stage (l : List FaultAt) : Except FaultAt Unit :=
  match lowestFault l with
  | none => .ok ()
  | some f => .error f

/-- R355: the cause goes to the user's handler. -/
def userDirected (hub : Bool) (cause : Nat) (eaux : Word) : Bool :=
  match cause with
  | 0x10 => !(eaux.extractLsb' 61 2 == 0 || eaux.extractLsb' 61 2 == 2)
  | 0x11 | 0x13 | 0x14 | 0x3A => false
  | 0x38 => !hub
  | _ => true

/-- The distinct causes of a list of faults, rising. -/
def causesOf (l : List (Nat × FaultAt)) : List Nat :=
  sortBy id ((l.map (·.2.cause)).eraseDups)

/-- R69: the faulting fibres of a course park, one parked course for each cause, with the run state given.
`seq` numbers the first of them. -/
def Ply.parkGroups (p : Ply) (c : Course) (run : Run) (seq : Nat) (l : List (Nat × FaultAt)) : Ply :=
  let p := l.foldl (fun p x => p.modFibre x.1 fun f => { f with eaux := x.2.eaux }) p
  let rest := c.restrict (c.fibres.filter fun f => !(l.any (·.1 == f)))
  let kids : List Course := (causesOf l).zipIdx.map fun (cause, i) =>
    let fs := c.fibres.filter fun f => l.any fun x => x.1 == f && x.2.cause == cause
    { c.restrict fs with
        id := seq + i, run, chain := [], chainLast := 0, hold := 0,
        phase := .parked cause (seq + i) (p.h && fs.any fun f => (p.fibre f).handling) false }
  let p := p.keepCourse rest
  { p with courses := p.courses ++ kids }

/-- The machine emits something to the outside. -/
def State.emit (s : State) (o : Out) : State := { s with outs := s.outs ++ [o] }

/-- Moafer logs an event. -/
def State.logEvent (s : State) (kind : Nat) (data : List Nat) : State := { s with log := s.log ++ [⟨kind, data⟩] }

/-- An admin request is refused, or carried out (R398). -/
def State.refuse (s : State) (pkg : Nat) : State := s.emit (.admin pkg false)
def State.grant (s : State) (pkg : Nat) : State := s.emit (.admin pkg true)

/-- The capability table of a package changes: its generation advances and an event is raised (R400). -/
def State.tableChange (s : State) (pkg kind : Nat) (data : List Nat) : State :=
  let p := s.pkg pkg
  (s.putPkg { p with capGen := p.capGen + 1 }).emit (.event pkg kind data)

/-- The entries of the register-error log of a package (R110), which its capability table shows (R405). -/
def State.registerErrors (s : State) (pkg : Nat) : List (List Nat) :=
  (s.log.filter fun l => l.kind == 12 && l.data.headD 0 / 1024 == pkg).map (·.data)

/-- Each entry of that log is a change of the table: an event is raised for those that have none yet (R400). -/
def State.tellErrors (s : State) : State :=
  let all := (s.log.filter (·.kind == 12)).map (·.data)
  let told := s.outs.countP fun o => match o with | .event _ 9 _ => true | _ => false
  { s with outs := s.outs ++ (all.drop told).map fun d => .event (d.headD 0 / 1024) 9 d }

/-- The single course of a hub core, starting a run (R29). -/
def Ply.hubRestart (p : Ply) (run : Run) (temps : List Reg) : Ply :=
  let p := p.modFibre 0 fun f => { f with temps }
  { p with courses := p.courses.map fun (c : Course) => { c with run, phase := .ready, chain := [], chainLast := 0, hold := 0 } }

/-- How a hub thread leaves its enclave (R320). -/
inductive Leave where
  | eexit
  | finished               -- FEND or EXIT at user level (R82, R321)
  | sysc (n : Word)
  | trap (cause : Nat)     -- any other trap that reaches the supervisor, or pre-emption
  deriving DecidableEq, Repr

/-- R320: the status word left in s[D]. -/
def Leave.status : Leave → Word
  | .eexit => 0
  | .finished => 1
  | .sysc _ => 0x3840
  | .trap c => BitVec.ofNat 64 (0x40 + c % 256 * 256)

/-- The registers that stay visible to the supervisor (R320). -/
def Leave.visible : Leave → Bool
  | .trap _ => false
  | _ => true

/-- R425: a trap on a hub core is taken on the core itself; a thread that leaves its enclave does so when nothing of it
is outstanding (R320, R367).  A core whose level has no handler stops as HALT does: once its accesses have performed, and to
go on at the word after the one that trapped (DEDUCED, log 73).  A SYSC at user level without a thread, of which R425 does not
speak, is taken at the core's own bank of that level (DESIGN CHOICE, log 87). -/
def State.hubTrap (s : State) (p : Ply) (run : Run) (x : FaultAt) : State :=
  match p.hub with
  | none => s
  | some hub =>
    let inThread := hub.thread.isSome && hub.level == 0
    let len := match s.cur with | some c => c.len | none => 4
    if inThread && (!userDirected true x.cause x.eaux || (hub.bank 0).tvec == 0) then
      let run' := if x.cause = 0x38 then run.pass len else run
      let p := { p with
        hub := some { hub with leaving := some (x.cause, x.eaux) }
        courses := p.courses.map fun (c : Course) => { c with run := run', phase := .ready, chain := [], chainLast := 0, hold := 0 } }
      s.putPly (if x.cause = 0x38 then p.modFibre 0 fun f => { f with temps := (Reg.zero :: f.temps).take 7 } else p)
    else
      let b := hub.bank hub.level
      let taken : Bank := { b with
        cause := BitVec.ofNat 64 x.cause, epc := BitVec.ofNat 64 run.pc, eaux := x.eaux
        status := (b.status &&& ~~~0x18#64) ||| BitVec.ofNat 64 (8 * hub.level), taken := true, run, temps := (p.fibre 0).temps }
      let hub' := hub.setBank hub.level taken
      if b.tvec = 0 then
        let s := s.logEvent 1 [p.core, x.cause, run.pc]
        s.putPly (({ p with hub := some { hub' with stopping := true } }).hubRestart (run.pass len) ((Reg.zero :: (p.fibre 0).temps).take 7))
      else s.putPly (({ p with hub := some hub' }).hubRestart (Run.start b.tvec.toNat) [])

/-- TAKING AN EXCEPTION.  The fibres of a course that fault leave it: on a compute core they park, one parked
course for each cause, at the instruction and with its run state (R69, R49, R32); on a hub core the trap is taken at
once (R425).  `p` is the ply as the instruction leaves it but for these fibres; it is put into the state. -/
def State.raise (s : State) (p : Ply) (cid : Nat) (run : Run) (l : List (Nat × FaultAt)) : State :=
  match l, p.course cid with
  | [], _ => s.putPly p
  | _, none => s.putPly p
  | x :: _, some c =>
    if p.isHub then (s.putPly p).hubTrap p run x.2
    else
      let s' := s.putPly (p.parkGroups c run s.nextId l)
      { s' with nextId := s.nextId + (causesOf l).length }

def Course.isParked (c : Course) : Bool := match c.phase with | .parked .. => true | _ => false

/-- R81: no course is parked, and every live fibre waits at one RCV. -/
def Ply.atReconvergence (p : Ply) : Bool :=
  match p.courses with
  | [] => false
  | c :: l => c.phase == .rcv && !p.h && l.all fun k => k.phase == .rcv && k.run.pc == c.run.pc

/-- R367: every course that is not parked or in a handler waits at an RCV, and one is parked. -/
def Ply.atWaiting (p : Ply) : Bool :=
  (p.courses.any Course.isParked) && p.courses.all fun c => c.isParked || c.phase == .rcv || c.fibres.any fun f => (p.fibre f).handling

/-- R298: a course waits for the supervisor's answer, and every other is parked or waits at an RCV. -/
def Ply.awaitsAnswer (p : Ply) : Bool :=
  (p.courses.any fun c => match c.phase with | .parked _ _ _ reported => reported | _ => false)
    && p.courses.all fun c => c.isParked || c.phase == .rcv

/-- The ply has come to the point at which it is saved (R367, R298), or a peer is lost (R375): it issues nothing more but
the rest of an open chain. -/
def Ply.stops (p : Ply) : Bool :=
  p.lost.isSome || p.awaitsAnswer || (p.saveAsked.isSome && (p.atReconvergence || p.atWaiting))

/-- A parked course that the handler may take (R359): none while an EXIT waits or has stopped the ply (R92, R361), or while
the ply stops (R367, R375). -/
def Course.takeable (p : Ply) (c : Course) : Bool :=
  match c.phase with
  | .parked cause _ nested _ =>
    !nested && p.tvec != 0 && !p.h && p.exiting.isNone && !p.stops
      && userDirected false cause ((p.fibre (c.fibres.headD 0)).eaux)
  | _ => false

/-- When a course parked. -/
def Course.parkSeq (c : Course) : Nat :=
  match c.phase with
  | .parked cause n _ _ => if cause = 0x31 then 0 else n
  | _ => 0

/-- R359: the parked course that the handler takes next; a peer loss is taken ahead of every other (R375). -/
def Ply.nextTaken (p : Ply) : Option Course := minBy Course.parkSeq (p.courses.filter (Course.takeable p))

/-- TAKING A PARKED COURSE to the ply's handler (R359): what is saved, the control registers, and the new run. -/
def Ply.takeCourse (p : Ply) (c : Course) (cause : Nat) : Ply :=
  let save : HandlerSave :=
    { course := c.id, run := c.run, cause, fibres := c.fibres
      eaux := c.fibres.map fun f => (f, (p.fibre f).eaux)
      temps := c.fibres.map fun f => (f, (p.fibre f).temps) }
  let p := p.modFibres c.fibres fun _ f => { f with handling := true, temps := [] }
  let c' := { c with run := Run.start p.tvec.toNat, phase := .ready, chain := [], chainLast := 0, hold := 0, retry := false }
  { p with h := true, cause := BitVec.ofNat 64 cause, epc := BitVec.ofNat 64 c.run.pc, handler := some save }.putCourse c'

/-! ### RCV, splits and the end of fibres -/

/-- Passes the instruction at which a course stands: its run position grows and a temporary that names it is stale
(R31). -/
def Course.pass (c : Course) (len : Nat) : Course :=
  { c with run := c.run.pass len }

def Ply.passTemps (p : Ply) (fs : List Nat) : Ply :=
  p.modFibres fs fun _ f => { f with temps := (Reg.zero :: f.temps).take 7 }

/-- The union of the operations outstanding for courses that merge (R67). -/
def mergeSb (l : List SbRef) : List SbRef :=
  l.foldl (init := []) fun r x =>
    if r.any (·.op == x.op) then updateWhere (·.op == x.op) (fun y => { y with own := sortBy id (y.own ++ x.own) }) r
    else r ++ [x]

/-- Courses of one ply become one (R65, R67): the oldest age, every fibre. -/
def mergeCourses (c : Course) (l : List Course) : Course :=
  { c with
    age := l.foldl (fun a x => Nat.min a x.age) c.age
    fibres := sortBy id (l.flatMap (·.fibres))
    sb := mergeSb (l.flatMap (·.sb))
    nextIssue := l.foldl (fun a x => Nat.max a x.nextIssue) c.nextIssue }

/-- R70: the release of courses that wait at an RCV, when every live fibre of the ply waits there.  A fibre that is
parked or in its handler waits at none (R361).  A ply whose save is requested stays there (R81, R367). -/
def Ply.releaseRcv (p : Ply) (now : Nat) : Ply :=
  let wait := p.courses.filter (·.phase == .rcv)
  let held := p.liveFibres.any fun f => (p.fibre f).handling || !(wait.any (·.fibres.contains f))
  if held || p.atReconvergence && p.saveAsked.isSome then p
  else
    match oldestCourse wait with
    | none => p
    | some old =>
      let same := wait.filter (·.run.pc == old.run.pc)
      let m := mergeCourses old same
      let m := { m with phase := .ready, nextIssue := Nat.max m.nextIssue now }.pass 4
      let p := { p with courses := p.courses.filter fun c => c.id == old.id || !(same.any (·.id == c.id)) }
      (p.passTemps m.fibres).putCourse m

/-- R91: fibres end.  Their pending faults are discarded (R424); empty courses cease to exist. -/
def Ply.endFibres (p : Ply) (fs : List Nat) (now : Nat) : Ply :=
  let p := p.modFibres fs fun _ f => { f with live := false, handling := false }
  let p := if p.h && !(p.fibres.any (·.handling)) then { p with h := false, handler := none } else p
  let p := { p with
    courses := (p.courses.map fun (c : Course) => c.restrict (c.fibres.filter (!fs.contains ·))).filter (!·.fibres.isEmpty)
    deferred := (p.deferred.map fun (d : Deferred) => { d with fibres := d.fibres.filter (!fs.contains ·) }).filter (!·.fibres.isEmpty) }
  p.releaseRcv now

/-- R66: the fibres of a course grouped by next address; each group becomes a course, in the order of its lowest
fibre, the first keeping the course's number. -/
def Ply.splitCourse (p : Ply) (c : Course) (next : List (Nat × Nat)) (newId : Nat) : Ply :=
  let addrs : List Nat := (next.map (·.2)).eraseDups
  let kid (a i : Nat) : Course :=
    { c.restrict ((next.filter (·.2 == a)).map (·.1)) with
      id := if i = 0 then c.id else newId + i, run := Run.start a }
  let kids : List Course := addrs.zipIdx.map fun x => kid x.1 x.2
  let p := p.modFibres c.fibres fun _ f => { f with temps := [] }
  match kids with
  | [] => p
  | k :: r => let p := p.putCourse k; { p with courses := p.courses ++ r }

/-! ### Return from a handler (R364) -/

inductive EretMode where
  | retry | next | to (target : Nat) | discard
  deriving DecidableEq, Repr

/-- RETURN on a compute core: the fibres leave the handler as one course (R364), which issues from cycle `next` on.  `len` is
the length of the instruction at the saved epc. -/
def Ply.eret (p : Ply) (c : Course) (fs : List Nat) (mode : EretMode) (len newId now next : Nat) : Ply :=
  match p.handler with
  | none => p
  | some save =>
    let p := p.modFibres fs fun _ f => { f with handling := false }
    let p := if p.fibres.any (·.handling) then p else { p with h := false, handler := none }
    let tempsOf (f : Nat) : List Reg := SMap.get [] save.temps f
    let start (run : Run) (p : Ply) : Ply :=
      let rest := c.restrict (c.fibres.filter (!fs.contains ·))
      let kid := { c.restrict fs with
        id := newId, run, phase := .ready, chain := [], chainLast := 0, hold := 0, retry := false, nextIssue := next }
      let p := p.keepCourse rest
      { p with courses := p.courses ++ [kid] }
    match mode with
    | .retry => start save.run (p.modFibres fs fun i f => { f with temps := tempsOf i })
    | .next =>
      start (save.run.pass len)
        (p.modFibres fs fun i f => { f with temps := (Reg.zero :: tempsOf i).take 7 })
    | .to a => start (Run.start a) (p.modFibres fs fun _ f => { f with temps := [] })
    | .discard => p.endFibres fs now

/-- RETURN on a hub core: at the level PL, with the bank's epc (R364).  Where epc is no longer that of the run kept, a new run
starts (R32). -/
def Ply.eretHub (p : Ply) (mode : EretMode) (len : Nat) : Ply :=
  match p.hub with
  | none => p
  | some hub =>
    let b := hub.bank hub.level
    let hub' := { hub.setBank hub.level { b with taken := false } with level := (b.status.extractLsb' 3 2).toNat }
    let p := { p with hub := some hub' }
    let kept := b.run.pc == b.epc.toNat
    let run : Run := if kept then b.run else Run.start b.epc.toNat
    let temps := if kept then b.temps else []
    match mode with
    | .retry => p.hubRestart run temps
    | .next => if kept then p.hubRestart (run.pass len) ((Reg.zero :: temps).take 7) else p.hubRestart (Run.start (run.pc + len)) []
    | .to a => p.hubRestart (Run.start a) []
    | .discard => p

/-- R366: an event that ends WFI reaches the hub cores of a package. -/
def State.wakeHubs (s : State) (pkg : Nat) : State :=
  { s with plies := s.plies.map fun (p : Ply) =>
      if p.core / 1024 = pkg then { p with hub := p.hub.map fun (h : Hub) => { h with wfi := none } } else p }

end Sys2Proof.Machine
end

