-- ==== Sys2Proof/Machine/Place.lean ====
section
/-! DEFINITION.  A program placed from outside: one ply of one course that stands at its first word (log 5). -/

namespace Sys2Proof.Machine

/-- A link of a page tree to the table at a physical address (R288). -/
def linkEntry (pa : Nat) : Nat := 2 ^ 62 + pa

/-- A leaf of a page tree (R288): RC, every right, no rights of peers, generation 0. -/
def leafEntry (aper frame : Nat) : Nat := 2 ^ 63 + 2 ^ 60 + 7 * 2 ^ 57 + aper * 2 ^ 42 + frame * 2 ^ 16

/-- Where a placed program stands: virtual page 1, frame 3 of die 0. -/
def placeVa : Nat := 0x10000

/-- A tree of four levels in frames 1 and 2 of die 0 that maps virtual page 1 of ASID 0 to frame 3. -/
def State.placeTree (s : State) : State :=
  let put (m : List Host.Cell) (a e : Nat) : List Host.Cell := memWrite m a (bytesLE 8 e)
  let m := put s.mem 0x10000 (linkEntry 0x20000)
  let m := put m 0x20000 (linkEntry 0x11000)
  let m := put m 0x11000 (linkEntry 0x12000)
  let m := put m 0x12008 (leafEntry 0 3)
  let s := { s with mem := m, roots := SMap.set none s.roots 0 (some 0x10000) }
  let s := s.setOwner 0 1 { Owner.free with state := 1 }
  let s := s.setOwner 0 2 { Owner.free with state := 1 }
  s.setOwner 0 3 { state := 1, kind := 1, ceil := 7, enc := 0, gen := 0, iapg := 1 }

/-- A ply of eight fibres in partition 0 of core 0. -/
def placedPly (h c now : Nat) : Ply where
  handle := h
  enc := 0
  asid := 0
  launch := 0
  skein := 0
  core := 0
  part := 0
  slot := 0
  base := 0
  group := 0
  width := 8
  window := 256
  level := 0
  role := 3
  index := 0
  plies := 1
  skeinIndex := 0
  hank := 0
  cone := 0
  fs := false
  h := false
  cause := 0
  epc := 0
  tvec := 0
  plyCtl := 4
  stale := 0
  chart := 0
  chartBase := 0
  gaugeBase := 0
  tensionBase := 0
  fibres := List.replicate 8 { Fibre.dormant with live := true }
  courses := [Course.fresh c now (List.range 8) placeVa]
  s := []
  qm := []
  flight := []
  upsets := []
  deferred := []
  handler := none
  gauge := none
  overrun := none
  lost := none
  hub := none
  residence := .resident
  saved := none
  saveAsked := none
  hold := false
  boost := none
  exiting := none
  eligibleSince := now
  sliceStart := now

/-- The state in which the bytes given stand where the next turn fetches. -/
def State.place (s : State) (bytes : List Byte) : State :=
  let s := s.placeTree
  let s := { s with mem := memWrite s.mem (flat 0 (3 * 65536)) bytes }
  let h := s.nextId
  let k := s.core 0
  let s := s.putCore { k with runs := ⟨0, s.clock, false, [(h, h + 1)]⟩ :: k.runs }
  { s with
    plies := s.plies ++ [placedPly h (h + 1) s.clock]
    agenda := .course h (h + 1) 0 :: s.agenda
    nextId := h + 2 }

end Sys2Proof.Machine
end

