-- ==== Sys2Proof/Machine/Flags.lean ====
section
/-! DEFINITION.  Floating-point values, rounding, saturation and the sticky flags they raise (03 R113, R114,
R119 to R122; 04 R154). -/

namespace Sys2Proof.Machine

/-- Widths of exponent and fraction of a binary format (R113). -/
structure Bin where
  e : Nat
  f : Nat
  deriving DecidableEq, Repr

def bin64 : Bin := ⟨11, 52⟩
def bin32 : Bin := ⟨8, 23⟩
def bin16 : Bin := ⟨5, 10⟩
def binB16 : Bin := ⟨8, 7⟩

def binOf : Fmt → Bin
  | .f64 => bin64
  | .f16 => bin16
  | .bf16 => binB16
  | _ => bin32

def Bin.width (b : Bin) : Nat := 1 + b.e + b.f
def Bin.bias (b : Bin) : Int := 2 ^ (b.e - 1) - 1
def Bin.emin (b : Bin) : Int := 1 - b.bias

/-- The exponents of R113's "all ones". -/
def Bin.top (b : Bin) : Nat := 2 ^ b.e - 1

/-- R114: the canonical quiet NaN. -/
def Bin.nan (b : Bin) : Nat := b.top * 2 ^ b.f + 2 ^ (b.f - 1)
def Bin.inf (b : Bin) (neg : Bool) : Nat := b2n neg * 2 ^ (b.e + b.f) + b.top * 2 ^ b.f
def Bin.zero (b : Bin) (neg : Bool) : Nat := b2n neg * 2 ^ (b.e + b.f)
def Bin.maxFinite (b : Bin) (neg : Bool) : Nat := b.inf neg - 1
def Bin.one (b : Bin) : Nat := (2 ^ (b.e - 1) - 1) * 2 ^ b.f

/-- A number: not a number, infinite, or (−1)^neg × m × 2^e. -/
inductive Num where
  | nan (signalling : Bool)
  | inf (neg : Bool)
  | fin (neg : Bool) (m : Nat) (e : Int)
  deriving DecidableEq, Repr

/-- The value of a bit pattern (R113). -/
def Bin.decode (b : Bin) (x : Nat) : Num :=
  let neg := bitOf x (b.e + b.f)
  let ex := bitsOf x b.f b.e
  let fr := bitsOf x 0 b.f
  if ex = b.top then
    if fr = 0 then .inf neg else .nan (!bitOf x (b.f - 1))
  else if ex = 0 then .fin neg fr (b.emin - b.f)
  else .fin neg (fr + 2 ^ b.f) (b.emin - b.f + (ex - 1))

/-- R121 under FTZ: a subnormal input is a zero of its sign. -/
def Bin.decodeFtz (b : Bin) (ftz : Bool) (x : Nat) : Num :=
  if ftz && bitsOf x b.f b.e = 0 then .fin (bitOf x (b.e + b.f)) 0 0 else b.decode x

/-- The five flags (R121). -/
abbrev FlagBits := BitVec 5
def fInvalid : FlagBits := 1
def fDivZero : FlagBits := 2
def fOverflow : FlagBits := 4
def fUnderflow : FlagBits := 8
def fInexact : FlagBits := 16

/-- A result and the flags it raises. -/
structure Res where
  bits : Nat
  flags : FlagBits
  deriving DecidableEq, Repr

/-- Whether the magnitude is raised to the next representable one: `odd` is the last bit kept, `half` compares what
is dropped with half a unit (−1, 0, 1), `some` says that something is dropped (R119). -/
def roundsUp (mode : Rnd) (neg odd : Bool) (half : Int) (some : Bool) : Bool :=
  match mode with
  | .rz => false
  | .ru => some && !neg
  | .rd => some && neg
  | .rna => 0 ≤ half && some
  | _ => 0 < half || (half == 0 && some && odd)

/-- R120: the result of an overflow. -/
def Bin.overflowed (b : Bin) (mode : Rnd) (neg : Bool) : Nat :=
  match mode with
  | .rz => b.maxFinite neg
  | .ru => if neg then b.maxFinite neg else b.inf neg
  | .rd => if neg then b.inf neg else b.maxFinite neg
  | _ => b.inf neg

/-- R119 to R121: rounds a magnitude that is m × 2^e, or, when `sticky`, lies strictly between that and
(m + 1) × 2^e, the caller then giving m at least two bits more than the format holds. -/
def Bin.round (b : Bin) (mode : Rnd) (ftz neg : Bool) (m : Nat) (e : Int) (sticky : Bool) : Res :=
  if m = 0 && !sticky then ⟨b.zero neg, 0⟩
  else
    let top : Int := e + bitLen m - 1
    let tiny := decide (top < b.emin)
    if tiny && ftz then ⟨b.zero neg, fUnderflow ||| fInexact⟩
    else
      let q : Int := (if tiny then b.emin else top) - b.f
      let sh : Int := q - e
      let n := sh.toNat
      let kept := if sh ≤ 0 then m * 2 ^ (-sh).toNat else m / 2 ^ n
      let rest := if sh ≤ 0 then 0 else m % 2 ^ n
      let lost := rest != 0 || sticky
      let half : Int :=
        if sh ≤ 0 then -1
        else if 2 * rest < 2 ^ n then -1
        else if 2 ^ n < 2 * rest || sticky then 1 else 0
      let k := if roundsUp mode neg (bitOf kept 0) half lost then kept + 1 else kept
      let bits := k + (q - (b.emin - b.f)).toNat * 2 ^ b.f   -- the hidden bit carries into the exponent
      let fl := (if lost then fInexact else 0) ||| (if tiny && lost then fUnderflow else 0)
      if b.top * 2 ^ b.f ≤ bits then ⟨b.overflowed mode neg, fOverflow ||| fInexact⟩
      else ⟨b.zero neg + bits, fl⟩

/-- R120: SAT on a rounded result; 1 clamps infinities to the range, 2 clamps to [0, 1]. -/
def Bin.saturate (b : Bin) (sat : BitVec 2) (r : Res) : Res :=
  match b.decode r.bits with
  | .nan _ => if sat = 2 then { r with bits := 0 } else r
  | .inf neg =>
    if sat = 1 then { r with bits := b.maxFinite neg }
    else if sat = 2 then { r with bits := if neg then 0 else b.one } else r
  | .fin neg _ _ =>
    if sat = 2 then
      if neg then { r with bits := 0 } else if b.one < r.bits then { r with bits := b.one } else r
    else r

/-- R114, R147: the canonical NaN. -/
def Bin.nanRes (b : Bin) (invalid : Bool) : Res := ⟨b.nan, if invalid then fInvalid else 0⟩

def Num.isNan : Num → Bool
  | .nan _ => true
  | _ => false

def Num.isSnan : Num → Bool
  | .nan s => s
  | _ => false

/-- A product before rounding; 0 × ∞ is marked. -/
inductive Term where
  | bad                    -- 0 × ∞
  | nan (signalling : Bool)
  | inf (neg : Bool)
  | fin (neg : Bool) (m : Nat) (e : Int)
  deriving DecidableEq, Repr

def Num.term : Num → Term
  | .nan s => .nan s
  | .inf n => .inf n
  | .fin n m e => .fin n m e

def Num.neg : Num → Num
  | .nan s => .nan s
  | .inf n => .inf !n
  | .fin n m e => .fin (!n) m e

/-- The exact product of two values. -/
def Num.times : Num → Num → Term
  | .nan s, b => .nan (s || b.isSnan)
  | _, .nan s => .nan s
  | .inf a, .inf b => .inf (a ^^ b)
  | .inf a, .fin b m _ => if m = 0 then .bad else .inf (a ^^ b)
  | .fin a m _, .inf b => if m = 0 then .bad else .inf (a ^^ b)
  | .fin a m e, .fin b n f => .fin (a ^^ b) (m * n) (e + f)

/-- The least exponent among finite terms. -/
def leastExp (l : List Term) : Int :=
  l.foldl (init := 0) fun a t => match t with
    | .fin _ _ e => if e < a then e else a
    | _ => a

/-- R147, R148, R152, R164: the exact sum of terms, rounded once. -/
def Bin.sum (b : Bin) (mode : Rnd) (ftz : Bool) (l : List Term) : Res :=
  let snan := l.any fun t => t == .nan true
  let isBad := l.any fun t => t == .bad
  let pinf := l.any fun t => t == .inf false
  let ninf := l.any fun t => t == .inf true
  let invalid := snan || isBad || (pinf && ninf)
  if invalid || l.any (fun t => t == .nan false) then b.nanRes invalid
  else if pinf then ⟨b.inf false, 0⟩
  else if ninf then ⟨b.inf true, 0⟩
  else
    let e := leastExp l
    let x : Int := l.foldl (init := 0) fun a t => match t with
      | .fin neg m f => let v : Int := m * 2 ^ (f - e).toNat; if neg then a - v else a + v
      | _ => a
    if x = 0 then
      let signs := l.filterMap fun t => match t with
        | .fin neg m _ => some (neg, m)
        | _ => none
      let allNeg := signs.all (fun s => s.1 && s.2 = 0) && !signs.isEmpty
      let allPos := signs.all (fun s => !s.1 && s.2 = 0)
      ⟨b.zero (allNeg || (!allPos && mode == .rd)), 0⟩
    else b.round mode ftz (decide (x < 0)) x.natAbs e false

/-- R147: the exact quotient, rounded once. -/
def Bin.div (b : Bin) (mode : Rnd) (ftz : Bool) (x y : Num) : Res :=
  match x, y with
  | .nan s, y => b.nanRes (s || y.isSnan)
  | _, .nan s => b.nanRes s
  | .inf _, .inf _ => b.nanRes true
  | .inf a, .fin c _ _ => ⟨b.inf (a ^^ c), 0⟩
  | .fin a _ _, .inf c => ⟨b.zero (a ^^ c), 0⟩
  | .fin a m e, .fin c n f =>
    if n = 0 then (if m = 0 then b.nanRes true else ⟨b.inf (a ^^ c), fDivZero⟩)
    else
      let k := b.f + 4 + bitLen n
      let q := m * 2 ^ k
      b.round mode ftz (a ^^ c) (q / n) (e - f - k) (q % n != 0)

/-- R147: the square root, rounded once. -/
def Bin.sqrt (b : Bin) (mode : Rnd) (ftz : Bool) : Num → Res
  | .nan s => b.nanRes s
  | .inf true => b.nanRes true
  | .inf false => ⟨b.inf false, 0⟩
  | .fin neg m e =>
    if m = 0 then ⟨b.zero neg, 0⟩
    else if neg then b.nanRes true
    else
      let k := 2 * (b.f + 4)
      let (m, e) := if e % 2 = 0 then (m, e) else (2 * m, e - 1)
      let x := m * 2 ^ k
      let r := isqrt x
      b.round mode ftz false r ((e - k) / 2) (r * r != x)

/-- Comparison of two values that are not NaNs, the zeros equal: −1, 0 or 1. -/
def Num.cmp : Num → Num → Int
  | .inf a, .inf b => if a = b then 0 else if a then -1 else 1
  | .inf a, _ => if a then -1 else 1
  | _, .inf b => if b then 1 else -1
  | .fin a m e, .fin b n f =>
    let g := if e < f then e else f
    let x : Int := (m * 2 ^ (e - g).toNat : Nat)
    let y : Int := (n * 2 ^ (f - g).toNat : Nat)
    let x := if a then -x else x
    let y := if b then -y else y
    if x < y then -1 else if y < x then 1 else 0
  | _, _ => 0

/-- R149: −0 is ordered below +0. -/
def Num.less (x y : Num) : Bool :=
  match x, y with
  | .fin a 0 _, .fin b 0 _ => a && !b
  | x, y => x.cmp y == -1

/-- R149: fmin (`lesser`) or fmax of two patterns, read with FTZ. -/
def Bin.minmax (b : Bin) (lesser ftz : Bool) (x y : Nat) : Res :=
  let flush (v : Nat) (n : Num) : Nat := match n with
    | .fin neg 0 _ => b.zero neg
    | _ => v
  let nx := b.decodeFtz ftz x
  let ny := b.decodeFtz ftz y
  let fl := if nx.isSnan || ny.isSnan then fInvalid else 0
  if nx.isNan && ny.isNan then ⟨b.nan, fl⟩
  else if nx.isNan then ⟨flush y ny, fl⟩
  else if ny.isNan then ⟨flush x nx, fl⟩
  else
    let first := if lesser then !ny.less nx else !nx.less ny
    ⟨if first then flush x nx else flush y ny, fl⟩

/-- R156: conversion of a value to a floating-point format. -/
def Bin.convert (b : Bin) (mode : Rnd) (ftz : Bool) : Num → Res
  | .nan s => b.nanRes s
  | .inf n => ⟨b.inf n, 0⟩
  | .fin neg m e => b.round mode ftz neg m e false

/-- A magnitude rounded to an integer, and whether it changed (R156). -/
def roundToInt (mode : Rnd) (neg : Bool) (m : Nat) (e : Int) : Nat × Bool :=
  if 0 ≤ e then (m * 2 ^ e.toNat, false)
  else
    let n := (-e).toNat
    let kept := m / 2 ^ n
    let rest := m % 2 ^ n
    let half : Int := if 2 * rest < 2 ^ n then -1 else if 2 ^ n < 2 * rest then 1 else 0
    (if roundsUp mode neg (bitOf kept 0) half (rest != 0) then kept + 1 else kept, rest != 0)

/-- R156: a floating-point format to itself. -/
def Bin.toIntegral (b : Bin) (mode : Rnd) : Num → Res
  | .nan s => b.nanRes s
  | .inf n => ⟨b.inf n, 0⟩
  | .fin neg m e =>
    let (k, changed) := roundToInt mode neg m e
    let r := b.round mode false neg k 0 false
    ⟨r.bits, if changed then fInexact else 0⟩

/-- R156: floating point to an integer of range lo to hi. -/
def toInteger (mode : Rnd) (lo hi : Int) : Num → Int × FlagBits
  | .nan _ => (0, fInvalid)
  | .inf neg => (if neg then lo else hi, fInvalid)
  | .fin neg m e =>
    let (k, changed) := roundToInt mode neg m e
    let x : Int := if neg then -(k : Int) else k
    if hi < x then (hi, fInvalid) else if x < lo then (lo, fInvalid)
    else (x, if changed then fInexact else 0)

/-- The mode in effect (R119): the prefix's, else the instruction's own, else ply_ctl's (R105). -/
def effRnd (pfx own : Rnd) (rm : Nat) : Rnd :=
  match pfx, own with
  | .inherit, .inherit => match rm with | 2 => .rz | 3 => .ru | 4 => .rd | 5 => .rna | _ => .rne
  | .inherit, o => o
  | p, _ => p

end Sys2Proof.Machine
end

