-- ==== Sys2Proof/Machine/Views.lean ====
section
/-! DEFINITION.  What the accesses of a ply find and leave: the order that they owe (08 R244, R247), a speculation's own
writes and what it has read (12 R341, R343), and the fetch of words (01 R12, R58). -/

namespace Sys2Proof.Machine

/-! ### Order -/

/-- A fibre of those given has an access before operation `id` that has not performed; `all` counts those of UN pages
too.  The reads of a CHARTLD are loads of its lowest active fibre (R54). -/
def State.owing (s : State) (h id : Nat) (fs : List Nat) (all : Bool) : Bool :=
  s.ops.any fun o => o.ply == h && o.id < id && match o.body with
    | .mem m _ => m.cls != .redms && m.items.any fun i =>
        fs.contains i.fibre && o.left.contains i.fibre && i.state != .done && (all || i.kind != 2)
    | .chartld .. => fs.contains (o.left.headD 64) && o.pages.any fun q => all || q.2.2 != 2
    | _ => false

/-- The ply of an operation, under the ASID with which the operation issued (R284). -/
def State.issuer (s : State) (o : Op) : Option Ply := (s.ply o.ply).map fun p => { p with asid := o.asid }

/-- R247: an engine operation may make its accesses (log 10). -/
def State.forkReady (s : State) (o : Op) : Bool := !s.owing o.ply o.id o.left true

/-- R244: a release of fibres at issue may take place. -/
def State.releaseReady (s : State) (h : Nat) (fs : List Nat) : Bool := !s.owing h s.nextId fs false

/-! ### Speculations (R342 to R344) -/

/-- The speculation that a ply is part of. -/
def State.specOf (s : State) (p : Ply) : Option Spec := s.specs.find? fun x => x.launch == p.launch && x.enc == p.enc

/-- A speculation's own write of a granule (R343). -/
def State.ownWrite (s : State) (p : Ply) (ia : Nat) : Option Granule :=
  ((s.specOf p).bind fun x => x.swatch.find? (·.1 == ia / 8)).map (·.2)

/-- A granule as the reads of a ply find it: a speculation finds its own writes, and notes every other line. -/
def State.granuleFor (s : State) (p : Ply) (a ia : Nat) : Granule × Bool :=
  match s.ownWrite p ia with
  | some g => (g, false)
  | none => (s.granule a ia, s.tagFail.contains (a / 64))

/-- What a consumer finds in a granule; its integrity tag comes first. -/
def judged (g : Granule × Bool) (ia : Nat) : Delivered := if g.2 then .badTag else g.1.judge ia

/-- The causes found in granules, each once, rising. -/
def judgedCauses (l : List Delivered) (poison : Bool) : List Nat :=
  (if l.contains .badTag then [0x15] else []) ++ (if l.contains .badCode then [0x16] else [])
    ++ if poison && l.contains .poison then [0x17] else []

/-- R343: the line of a read is noted, and whether the word was predicted as unread (R341). -/
def State.noteRead (s : State) (p : Ply) (a ia : Nat) : State :=
  let note (x : Spec) : Spec :=
    if x.launch == p.launch && x.enc == p.enc && !(x.swatch.any (·.1 == ia / 8)) && !x.reads.contains (a / 64) then
      { x with reads := a / 64 :: x.reads, unreadHit := x.unreadHit || x.words.contains (ia / 8) }
    else if x.launch == p.launch && x.words.contains (ia / 8) then { x with unreadHit := true } else x
  { s with specs := s.specs.map note }

/-- A write of a ply or of an engine for it (R343): a speculation's goes to the swatch store; one to a peer page is the
end of it (R344). -/
def State.writeFor (s : State) (p : Ply) (a ia : Nat) (g : Granule) : State :=
  match s.specOf p with
  | none => s.store a ia g
  | some x =>
    let put (y : Spec) : Spec :=
      if y.launch == x.launch then { y with
        swatch := y.swatch.filter (·.1 != ia / 8) ++ [(ia / 8, g)], peerHit := y.peerHit || a / 2 ^ 38 != coreAper p.core } else y
    { s with specs := s.specs.map put }

def State.writeRegFor (s : State) (p : Ply) (a ia : Nat) (r : Reg) : State :=
  s.writeFor p a ia (if r.tag = .poison then ⟨0, poisonCode ia⟩ else ⟨r.val, selv r.val ia⟩)

/-- R350: the skein of a ply has made an effect that cannot be made again. -/
def State.unrestartable (s : State) (p : Ply) : State :=
  { s with skeins := updateWhere (·.handle == p.skein) (fun (k : Skein) => { k with restartable := false }) s.skeins }

/-- A write to a granule whose home is another die cannot be made again (R350). -/
def State.peerWrite (s : State) (p : Ply) (a : Nat) : State := if a / 2 ^ 38 = coreAper p.core then s else s.unrestartable p

/-! ### Budgets of plies (15 R402) -/

/-- The holder to whose budget a ply's memory traffic goes. -/
def State.holderOf (s : State) (p : Ply) : Nat := if (s.specOf p).isSome then activity 2 else p.enc

/-- A line of a stack for a ply's access at address `a`: it is within its budget, and it is charged. -/
def State.lineWithin (s : State) (p : Ply) (a : Nat) : Bool :=
  match s.budgets.find? fun b => b.is (a / 2 ^ 41) (s.holderOf p) 0 (stackUnit a) with
  | some b => 64 ≤ s.room b
  | none => true

def State.payLine (s : State) (p : Ply) (a : Nat) : State :=
  { s with budgets := s.budgets.map fun b =>
      if b.is (a / 2 ^ 41) (s.holderOf p) 0 (stackUnit a) then { b with used := b.used + 64 } else b }

/-! ### Copies in caches (R1, R2, R224, R238) -/

/-- A granule's name in the caches: its ASID and its IA. -/
def cacheKey (asid ia : Nat) : Nat := asid * 2 ^ 49 + ia / 8

def Core.copy (k : Core) (key : Nat) : Option Granule := (k.l1.find? (·.1 == key)).map (·.2)

/-- The L2 slice of a core's hank (R1), by package × 72 + hank, and the die of a slice. -/
def sliceOf (core : Nat) : Nat := core / 1024 * 72 + core % 1024 / 12
def sliceDie (slice : Nat) : Nat := slice / 72 * 8 + slice % 72 / 12

/-- The copy of a granule that the slices of a die hold. -/
def State.l2Copy (s : State) (die key : Nat) : Option Granule :=
  (s.l2.find? fun e => sliceDie e.1 == die && e.2.1 == key).map (·.2.2)

/-- The copies, newest first, of the first `n` lines among them: the line filled longest ago leaves a cache that is full,
since no rule says which does (DESIGN CHOICE, log 79). -/
def keepLines {α : Type} (n : Nat) (line : α → Nat) (l : List α) : List α :=
  let lines := (l.map line).eraseDups
  if lines.length ≤ n then l else l.filter fun e => (lines.take n).contains (line e)

/-- The lines of 64 bytes that an L1 and an L2 slice hold (R1, R2). -/
def l1Lines : Nat := 4096
def l2Lines : Nat := 262144

def Core.l1Fill (k : Core) (key : Nat) (g : Granule) : Core :=
  { k with l1 := keepLines l1Lines (·.1 / 8) ((key, g) :: k.l1.filter (·.1 != key)) }

def State.l2Fill (s : State) (core key : Nat) (g : Granule) : State :=
  let slice := sliceOf core
  let old := s.l2.filter fun e => !(sliceDie e.1 == sliceDie slice && e.2.1 == key)
  let mine := keepLines l2Lines (·.2.1 / 8) ((slice, key, g) :: old.filter (·.1 == slice))
  { s with l2 := mine ++ old.filter (·.1 != slice) }

/-- A load from the home leaves copies in the caches that keep its page (R238); the hub die has no L2 (R1), and what a
speculation reads or writes stays out of them (R343, R344). -/
def State.cacheFill (s : State) (p : Ply) (i : MItem) (g : Granule) : State :=
  if i.kind = 0 ∨ (s.specOf p).isSome then s
  else
    let key := cacheKey p.asid i.ia
    let s := s.putCore ((s.core p.core).l1Fill key g)
    if i.home = coreAper p.core ∨ isHubCore p.core then s else s.l2Fill p.core key g

/-- A write passes through the copies of its own core and die; one whose result is made at the home drops them. -/
def State.cacheWrite (s : State) (p : Ply) (ia : Nat) (g : Option Granule) : State :=
  if (s.specOf p).isSome then s
  else
    let key := cacheKey p.asid ia
    let k := s.core p.core
    let die := coreAper p.core
    let s := if (k.copy key).isNone then s
      else s.putCore { k with l1 := match g with
        | some v => updateWhere (·.1 == key) (fun _ => (key, v)) k.l1
        | none => k.l1.filter (·.1 != key) }
    if (s.l2Copy die key).isNone then s
    else { s with l2 := match g with
      | some v => updateWhere (fun e => sliceDie e.1 == die && e.2.1 == key) (fun e => (e.1, key, v)) s.l2
      | none => s.l2.filter fun e => !(sliceDie e.1 == die && e.2.1 == key) }

/-- An engine of a core writes device memory: what it writes leaves the core's L1 and its die's L2 (R224, R247). -/
def State.engineWrote (s : State) (p : Ply) (ia : Nat) : State := s.cacheWrite p ia none

/-! ### Acquire (R244) -/

/-- R244: an acquire at a scope drops copies that may be old. -/
def State.acquire (s : State) (core scope : Nat) : State :=
  let s := if 3 ≤ scope then
      let k := s.core core
      if k.l1.isEmpty then s else s.putCore { k with l1 := [] }
    else s
  if 5 ≤ scope then { s with l2 := s.l2.filter fun e => sliceDie e.1 != coreAper core } else s

/-! ### Fetch -/

/-- The word at a virtual address as a ply fetches it (R12): from its home, or from the ply's own speculative writes (R343).
On failure, eaux of cause 0x10. -/
def State.fetchFor (s : State) (p : Ply) (va : Nat) : Except Word IWord :=
  match s.fetchPlace p.core p.asid va with
  | .error e => .error e
  | .ok (a, ia) => match s.ownWrite p ia with
    | some g => .ok (BitVec.ofNat 32 (g.data.toNat / 2 ^ (8 * (ia % 8))))
    | none => .ok (BitVec.ofNat 32 (ofBytesLE (memRead s.mem a 4)))

end Sys2Proof.Machine
end

