-- ==== Sys2Proof/Machine/Operands.lean ====
section
/-! DEFINITION.  An instruction at its issue, and its operands (01 R17 to R24, R31, R38; 03 R106 to R109). -/

namespace Sys2Proof.Machine

/-- An instruction that issues: whose it is, as the ply stands at issue (`ply`) and as its operands are read
(`view`), where it stands, its timing and its active fibres (R7, R15, R19, R26). -/
structure Issue where
  ply : Ply
  view : Ply
  course : Course
  ins : Instr
  sh : Shape
  head : Head
  addr : Nat
  len : Nat
  tick : Nat               -- issue cycle, in the cycles that its course counts (R39)
  time : Nat               -- issue cycle
  first : Nat              -- last beat of fibres 0 to 31
  last : Nat               -- last beat
  pfx : Option Pfx
  active : List Nat
  boot : Nat               -- cycle of the last reset of its package (R24)
  fresh : List (Option Nat × Nat)   -- registers whose poison arose on this very read, by fibre, or none for an s register (R109)
  deriving DecidableEq, Repr

def Issue.hub (x : Issue) : Bool := x.ply.isHub

/-- Whether fibre `f` goes in the second half of the beats (R77). -/
def Issue.late (x : Issue) (f : Nat) : Bool := x.ply.width == 64 && 32 ≤ f

/-- The cycle in which a fibre reads its operands (R77, R167, R181). -/
def Issue.readAt (x : Issue) (f : Nat) : Nat := if x.late f || oneshot x.sh then x.time + (x.last - x.first) else x.time

/-- The cycle in which it reads an s register (R167, R181). -/
def Issue.scalarAt (x : Issue) : Nat := if oneshot x.sh then x.time + (x.last - x.first) else x.time

/-- R24: the special sources; code 328 + k.  On a hub core, to which R24 gives no %fibre, it is computed from the fields of
the hub core's ply as on a compute core (DESIGN CHOICE, log 59). -/
def Issue.special (x : Issue) (f k : Nat) : Nat :=
  let p := x.ply
  match k with
  | 0 => if x.hub then 0 else f
  | 2 => (p.skeinIndex * p.plies + p.index) * p.width + (if x.hub then 0 else f)
  | 3 => if x.hub then 0 else p.index
  | 4 => p.skeinIndex
  | 5 => p.hank
  | 6 => p.cone
  | 7 => p.core / 1024
  | 8 => x.time - x.boot
  | 9 => if x.hub then (Config.hubCoreNumber p.core).toNat else p.core % 1024  -- R24 gives a hub core no number (log 4)
  | 10 => if x.hub then 0 else p.part
  | 11 => p.width
  | _ => 0

/-- A sub-element pattern in every sub-element of a format. -/
def replicateSub (f : Fmt) (x : Nat) : Nat :=
  (List.range f.subs).foldl (fun a e => a + x % 2 ^ f.width * 2 ^ (f.width * e)) 0

/-- An integer of few bits as a floating-point pattern, exact (R23). -/
def Bin.ofInt (b : Bin) (k : Int) : Nat := (b.round .rne false (decide (k < 0)) k.natAbs 0 false).bits

/-- R23: a constant in every sub-element of the format an operand requires. -/
def constBits (f : Fmt) (k : Int) : Nat :=
  match f with
  | .cf32 => bin32.ofInt k
  | .f64 | .f32 | .f16 | .bf16 => replicateSub f ((binOf f).ofInt k)
  | _ => replicateSub f (wrap f.width k)

/-- R24: %subel, in the required format. -/
def subelBits (f : Fmt) : Nat :=
  (List.range f.subs).foldl (init := 0) fun a e =>
    a + (match f with
      | .cf32 | .f64 | .f32 | .f16 | .bf16 => (binOf f).ofInt e
      | _ => e) * 2 ^ (f.width * e)

/-- A register or temporary, or the value with the tag of R24 and R23 of a source that is neither (R123).  Where an
instruction requires no format, %subel (code 329) is the 0 of sub-element 0 with tag I64 (DESIGN CHOICE, log 60). -/
def Issue.reg (x : Issue) (f : Nat) : Src → Reg
  | .v n => SMap.get Reg.zero (x.view.fibre f).v n.toNat
  | .s n => SMap.get Reg.zero x.view.s n.toNat
  | .tmp n =>
    let t := x.course.run.temps.getD (n.toNat - 1) Temp.none
    -- R38: a temporary read too early is 0 with tag Raw; R39: never on a hub core
    if x.hub || t.at (x.late f) ≤ x.readAt f then (x.ply.fibre f).temps.getD (n.toNat - 1) Reg.zero else Reg.zero
  | .zero => ⟨0, .i64⟩
  | .special k => ⟨BitVec.ofNat 64 (x.special f k.toNat), .i64⟩
  | .imm k => ⟨k.signExtend 64, .i64⟩

/-- A source whose value comes from a register or temporary (R107). -/
def Src.isReg : Src → Bool
  | .v _ | .s _ | .tmp _ => true
  | _ => false

/-- The lane pattern of an operand that is read in a format (R23, R24). -/
def Issue.lanes (x : Issue) (f : Nat) (fmt : Fmt) : Src → Nat
  | .zero => 0
  | .imm k => constBits fmt k.toInt
  | .special k => if k = 1 then subelBits fmt else x.special f k.toNat
  | src => (x.reg f src).val.toNat

/-- eaux of R107: operand code and tag. -/
def tagEaux (src : Src) (tag : Fmt) : Word := src.code.setWidth 64 ||| (tag.code.setWidth 64 <<< 9)

/-- R106: bits that a Q64 or Q32x2 value keeps zero (R108). -/
def reservedBits : Fmt → Word
  | .q64 => 0xC000000000000000
  | .q32 => 0x8000000080000000
  | _ => 0

/-- R109: eaux of a poisoned operand: its code, and whether the poison arose on this very read. -/
def Issue.poisonEaux (x : Issue) (f : Nat) (src : Src) : Word :=
  let arose := match src with
    | .v n => x.fresh.contains (some f, n.toNat)
    | .s n => x.fresh.contains (none, n.toNat)
    | _ => false
  src.code.setWidth 64 ||| if arose then 0x200 else 0

/-- The faults of one operand at operand read (R107, R109): poison, or a tag that is not accepted.  Constants and the
zero code satisfy every check (R23); a special source has tag I64, %subel the required format. -/
def Issue.check (x : Issue) (f : Nat) (accept : Fmt → Bool) (src : Src) : List FaultAt :=
  match src with
  | .zero | .imm _ => []
  | .special k => if k = 1 || accept .i64 then [] else [⟨0x09, tagEaux src .i64⟩]
  | _ =>
    let r := x.reg f src
    if r.tag = .poison then [⟨0x17, x.poisonEaux f src⟩]
    else if accept r.tag then [] else [⟨0x09, tagEaux src r.tag⟩]

/-- R108: the reserved bits of an operand read in a modular format. -/
def Issue.checkQ (x : Issue) (f : Nat) (fmt : Fmt) (src : Src) : List FaultAt :=
  match src with
  | .v _ | .s _ | .tmp _ =>
    let r := x.reg f src
    if r.tag = fmt && r.val &&& reservedBits fmt != 0 then [⟨0x09, tagEaux src r.tag⟩] else []
  | _ => []

/-- The tag of a control operand (R107). -/
def okCtl (t : Fmt) : Bool := t == .i64 || t == .raw

/-- A uniform source read once for the course (R107): its value and the faults every active fibre takes. -/
def Issue.uniform (x : Issue) (src : Src) : Word :=
  match src with
  | .imm k => k.signExtend 64
  | .zero => 0
  | s => (x.reg (x.active.headD 0) s).val

def Issue.checkUniform (x : Issue) (accept : Fmt → Bool) (src : Src) : List FaultAt :=
  x.check (x.active.headD 0) accept src

/-- R132: the format of a base word in a fibre: the tag of the first register or temporary source that is not
poisoned; I64 when there is none. -/
def Issue.baseFmt (x : Issue) (f : Nat) (srcs : List Src) : Fmt :=
  match (srcs.filter fun s => s.isReg && (x.reg f s).tag != .poison) with
  | s :: _ => (x.reg f s).tag
  | [] => .i64

/-- The old contents of a destination, which an inactive fibre's temporary holds (R31). -/
def Issue.oldDst (x : Issue) (f : Nat) : Dst → Reg
  | .v n => SMap.get Reg.zero (x.view.fibre f).v n.toNat
  | .s n => SMap.get Reg.zero x.view.s n.toNat
  | .none => Reg.zero

/-- A predicate bit of a fibre (R103). -/
def Issue.pred (x : Issue) (f n : Nat) : Bool := n == 0 || (x.view.fibre f).pred.getLsbD n

/-- The mode in effect (R119), saturation and FTZ of the prefix (R26), and FTZ in effect (R121). -/
def Issue.rnd (x : Issue) (own : Rnd) : Rnd :=
  effRnd (match x.pfx with | some p => p.rnd | none => .inherit) own x.ply.rm
def Issue.sat (x : Issue) : BitVec 2 := match x.pfx with | some p => p.sat | none => 0
def Issue.ftz (x : Issue) : Bool := x.ply.ftz || (match x.pfx with | some p => p.ftz | none => false)
def Issue.nox (x : Issue) : Bool := match x.pfx with | some p => p.nox | none => false

end Sys2Proof.Machine
end

