-- ==== Sys2Proof/Machine/Words.lean ====
section
/-! DEFINITION.  What stands at an address: words, chart words and what they stand for, and the members of a chain
(01 R12, R14, R28, R40 to R46, R58, R88). -/

namespace Sys2Proof.Machine

/-! ### Looking at words -/

/-- What stands at an address: no word can be fetched (with eaux), a word that is no instruction, or one. -/
inductive Look where
  | unfetchable (eaux : Word)
  | rejected
  | found (i : Instr) (len : Nat)
  deriving DecidableEq, Repr

/-- Fetch and decode at a virtual address for a ply (R12, R28).  R10 and R28 do not order an unlisted opcode of W1 (0x01)
and a W2 that cannot be fetched; the model reports the fetch fault, since a word that is not whole is not decoded
(DESIGN CHOICE, log 58). -/
def State.look (s : State) (p : Ply) (addr : Nat) : Look :=
  match s.fetchFor p addr with
  | .error e => .unfetchable e
  | .ok w1 =>
    if isLong w1 then
      match s.fetchFor p (addr + 4) with
      | .error e => .unfetchable e
      | .ok w2 => match decodeWords w1 w2 with
        | .ok i => .found i 8
        | .error _ => .rejected
    else
      match decodeWords w1 0 with
      | .ok i => .found i 4
      | .error _ => .rejected

/-- The word at an address is a bind of any form, by its opcode (R14, R58, R88). -/
def State.bindAt (s : State) (p : Ply) (addr : Nat) : Except Word Bool :=
  match s.fetchFor p addr with
  | .error e => .error e
  | .ok w =>
    .ok ((w.extractLsb' 30 2 == 1 && w.extractLsb' 20 7 == 1)
      || (w.extractLsb' 30 2 == 2 && 8 ≤ (w.extractLsb' 18 9).toNat && (w.extractLsb' 18 9).toNat ≤ 12))

/-- The word at an address is a prefix. -/
def State.prefixAt (s : State) (p : Ply) (addr : Nat) : Bool :=
  match s.fetchFor p addr with
  | .error _ => false
  | .ok w => w.extractLsb' 30 2 == 3

/-! ### The chart (R40 to R46) -/

/-- An entry of a chart: W1 in the low word, W2, then the hole map (R41). -/
abbrev ChartEntry := BitVec 96

def chartW1 (e : ChartEntry) : IWord := e.extractLsb' 0 32
def chartW2 (e : ChartEntry) : IWord := e.extractLsb' 32 32
def chartHoles (e : ChartEntry) : BitVec 32 := e.extractLsb' 64 32
def chartValid (e : ChartEntry) : Bool := (chartHoles e).getLsbD 31

/-- A hole of a hole map (R42): the field it names, its width (0 when absent), its lowest filler bit. -/
structure Hole where
  tgt : Nat
  wid : Nat
  pos : Nat
  deriving DecidableEq, Repr

def holeAt (m : BitVec 32) (i : Nat) : Hole :=
  let h := (m.extractLsb' (10 * i) 10).toNat
  let w := bitsOf h 4 3
  ⟨bitsOf h 7 3, if w = 0 then 0 else w + 1, bitsOf h 0 4⟩

def holesOf (e : ChartEntry) : List Hole :=
  ((List.range 3).map (holeAt (chartHoles e))).filter (·.wid != 0)

/-- Where a layout keeps the field that a hole names: in W2 (else W1), its lowest bit and its width (R20, R42). -/
def holeField (l : Layout) (tgt : Nat) : Option (Bool × Nat × Nat) :=
  match tgt, l with
  | 0, .lw => some (false, 2, 9)
  | 0, _ => some (true, 23, 9)
  | 1, .lw => none
  | 1, _ => some (true, 14, 9)
  | 2, .l3 => some (true, 5, 9)
  | 2, .lm => some (true, 5, 9)
  | 3, .l3 => some (false, 2, 9)
  | 4, _ => some (false, 13, 5)
  | 5, .li => some (true, 0, 14)
  | 5, .lw => some (true, 0, 32)
  | _, _ => none

/-- A word with the bits [lo + n − 1 : lo] replaced. -/
def setBits (w : IWord) (lo n v : Nat) : IWord :=
  let m : IWord := BitVec.ofNat 32 ((2 ^ n - 1) * 2 ^ lo)
  (w &&& ~~~ m) ||| (BitVec.ofNat 32 (v % 2 ^ n * 2 ^ lo))

/-- R44: one hole filled. -/
def fillHole (l : Layout) (f : Nat) (w : IWord × IWord) (h : Hole) : Option (IWord × IWord) :=
  match holeField l h.tgt with
  | none => none
  | some (second, lo, n) =>
    let v := bitsOf f h.pos h.wid
    let v := if h.tgt = 5 then wrap n (signed h.wid v) else v
    let k := if h.tgt = 5 then n else Nat.min h.wid n
    some (if second then (w.1, setBits w.2 lo k v) else (setBits w.1 lo k v, w.2))

/-- R44: the long instruction that a chart word expands to, or cause 0x01 at the chart word. -/
def expandEntry (e : ChartEntry) (ch : Bool) (st : BitVec 2) (f : Nat) : Option (IWord × IWord) :=
  let w1 := setBits (setBits (chartW1 e) 29 1 (b2n ch)) 27 2 st.toNat
  let covered := (holesOf e).foldl (fun a h => a ||| ((2 ^ h.wid - 1) * 2 ^ h.pos)) 0
  if w1.extractLsb' 30 2 ≠ 2 then none
  else
    match opLayout (w1.extractLsb' 18 9).toNat with
    | none => none
    | some l =>
      match (holesOf e).foldlM (fillHole l f) (w1, chartW2 e) with
      | none => none
      | some w => if (f ||| covered) = covered then some w else none

/-- The slot of a ply's chart (R40, R47). -/
def State.chartOf (s : State) (p : Ply) : Option ChartSlot := SMap.get none (s.core p.core).charts p.chart

def ChartSlot.entry (c : Option ChartSlot) (i : Nat) : ChartEntry :=
  match c with
  | none => 0
  | some c => SMap.get 0 c.entries i

/-- What a chart word stands for (R44, R46): its instruction, or the fault of the word. -/
def State.expand (s : State) (p : Ply) (ch : Bool) (st : BitVec 2) (ix : BitVec 8) (f : BitVec 19) : Except FaultAt Instr :=
  let e := ChartSlot.entry (s.chartOf p) ix.toNat
  let stale := p.stale.getLsbD (ix.toNat / 32)
  if !chartValid e || stale then .error ⟨0x03, ix.setWidth 64 ||| (if stale then 0x100 else 0)⟩
  else
    match expandEntry e ch st f.toNat with
    | none => .error ⟨0x01, 0⟩
    | some (w1, w2) =>
      match decodeWords w1 w2 with
      | .ok i => .ok i
      | .error _ => .error ⟨0x01, 0⟩

/-- R45: an entry may be loaded. -/
def entryLoads (e : ChartEntry) : Bool :=
  let w1 := chartW1 e
  let op := (w1.extractLsb' 18 9).toNat
  let hs := holesOf e
  !chartValid e ||
    (w1.extractLsb' 30 2 == 2 && w1.extractLsb' 27 3 == 0 && !(chartHoles e).getLsbD 30
      && op != 1 && op != 2 && !(8 ≤ op && op ≤ 12)
      && match opLayout op with
        | none => false
        | some l =>
          (hs.all fun h => match holeField l h.tgt with
            | none => false
            | some (_, _, n) => (h.tgt == 5 || h.wid ≤ n) && h.pos + h.wid ≤ 19)
          && decide (hs.Pairwise fun a b => a.tgt ≠ b.tgt ∧ (a.pos + a.wid ≤ b.pos ∨ b.pos + b.wid ≤ a.pos)))

/-- The instruction that a word acts as: a chart word acts as its expansion (R44); none where it has none. -/
def State.standsFor (s : State) (p : Ply) : Instr → Option Instr
  | .chartWord ch st ix f => (s.expand p ch st ix f).toOption
  | i => some i

/-- The instruction at an address, past a prefix, with its own address and length. -/
def State.instrAt (s : State) (p : Ply) (addr : Nat) : Option (Instr × Nat × Nat) :=
  let a := if s.prefixAt p addr then addr + 4 else addr
  match s.look p a with
  | .found w len => (s.standsFor p w).map fun i => (i, a, len)
  | _ => none

/-- The instructions of the chain that `i` begins (R14): at most `n` more, as far as they can be read. -/
def State.chainFrom (s : State) (p : Ply) : Nat → Instr → Nat → Nat → List Instr
  | 0, i, _, _ => [i]
  | n + 1, i, addr, len =>
    i :: if (headOfInstr i).ch then
        match s.instrAt p (addr + len) with
        | some (j, a, l) => s.chainFrom p n j a l
        | none => []
      else []

end Sys2Proof.Machine
end

