-- ==== Sys2Proof/Machine/Protect.lean ====
section
/-! DEFINITION.  The protection of the register file (03 R109 to R111, R129): what a port read finds in the cells that an
upset has struck.  An upset itself is a turn of the agenda (log 18). -/

namespace Sys2Proof.Machine

/-- An upset flips a bit of a register cell; the same bit struck again stands as it was. -/
def Ply.strike (p : Ply) (fibre : Option Nat) (reg quarter bit : Nat) : Ply :=
  let mine (u : Upset) : Bool := u.fibre == fibre && u.reg == reg && u.quarter == quarter
  let old := match p.upsets.find? mine with | some u => u.bits | none => []
  let bits := if old.contains bit then old.filter (· != bit) else old ++ [bit]
  { p with upsets := p.upsets.filter (!mine ·) ++ if bits.isEmpty then [] else [⟨fibre, reg, quarter, bits⟩] }

/-- SEC-DED corrects one bit; two and more are uncorrectable (R110 says nothing of more than two; DESIGN CHOICE, log 18). -/
def Upset.corrects (u : Upset) : Bool := u.bits.length ≤ 1

/-- R99: the physical v register of a fibre. -/
def Ply.physical (p : Ply) (f n : Nat) : Nat := p.base + n + if p.width = 64 ∧ 32 ≤ f then p.window else 0

/-- R64: the lane of a fibre. -/
def Ply.laneOf (p : Ply) (f : Nat) : Nat :=
  if p.width = 8 then 8 * p.group + f else if p.width = 16 then 16 * p.group + f else f % 32

/-- R110: the entry of the register-error log: core, partition, lane, physical register and quarter.  An s register, which
stands in no lane, has lane 32 and 64 times its ply's slot before its number (DESIGN CHOICE, log 18). -/
def Ply.upsetLog (p : Ply) (u : Upset) : List Nat :=
  match u.fibre with
  | some f => [p.core, p.part, p.laneOf f, p.physical f u.reg, u.quarter]
  | none => [p.core, p.part, 32, 64 * p.slot + u.reg, u.quarter]

/-- The struck cells that the port reads of an instruction find (R110), as the registers stand when it reads them: a v register is
read in every lane of the partition, so in the registers of other narrow plies too that stand in the same row; each with the
ply that holds it. -/
def State.struck (s : State) (x : Issue) : List (Ply × Upset) :=
  let p := x.ply
  let srcs := x.sh.srcs
  let rows := srcs.flatMap fun src => match src with
    | .v n => [p.physical 0 n.toNat, p.physical 32 n.toNat]
    | _ => []
  let hit (q : Ply) (u : Upset) : Bool := match u.fibre with
    | some f => rows.contains (q.physical f u.reg)
    | none => q.handle == p.handle && srcs.contains (.s (BitVec.ofNat 6 u.reg))
  (s.plies.filter fun q => q.core == p.core && q.part == p.part && q.residence == .resident && !q.upsets.isEmpty).flatMap
    fun q =>
      let q := if q.handle == p.handle then x.view else q.land x.time
      (q.upsets.filter (hit q)).map fun u => (q, u)

/-- The cells after a port read has found them: a corrected one is written back, the register of another takes tag 15. -/
def Ply.afterRead (p : Ply) (l : List Upset) : Ply :=
  let p := { p with upsets := p.upsets.filter (!l.contains ·) }
  l.foldl (init := p) fun p u =>
    if u.corrects then p
    else match u.fibre with
      | some f => p.modFibre f fun x =>
          { x with v := SMap.set Reg.zero x.v u.reg { SMap.get Reg.zero x.v u.reg with tag := .poison } }
      | none => { p with s := SMap.set Reg.zero p.s u.reg { SMap.get Reg.zero p.s u.reg with tag := .poison } }

/-- R110: the instruction consumes a quarter of its operand: every one, but for the entries that state that they read a part
of it: MOVI.HI keeps [31:0] (R125), TAGSET.fl uses [4:0] (R127), HPERM the low bits of its indices (R182), the barrier commands
use [31:0] or [0] of B (R235), NCQW [31:0] of B (R394). -/
def consumes (i : Instr) (u : Upset) : Bool :=
  let here (src : Src) : Bool := match src, u.fibre with
    | .v n, some _ => n.toNat == u.reg
    | .s n, none => n.toNat == u.reg
    | _, _ => false
  u.quarter == 4 || match i with
    | .movi .. => u.quarter < 2
    | .tagsetFl .. => u.quarter < 1
    | .hperm _ _ a b f _ => here a || (here b && (u.quarter == 0 || f == .q32 && u.quarter == 2))
    | .ncqw _ _ a b _ _ => here a || (here b && u.quarter < 2)
    | .barinit _ a b => here a || (here b && u.quarter < 2)
    | .bararr _ _ a b => here a || (here b && u.quarter < 2)
    | .barwait _ a b => here a || (here b && u.quarter < 1)
    | _ => true

/-- The issue after its port reads: the registers poisoned, and those whose poison arose on this very read (R109), which the
instruction finds poisoned as it reads them. -/
def Issue.afterRead (x : Issue) (hits : List (Ply × Upset)) : Issue :=
  if hits.isEmpty then x
  else
    let mine := (hits.filter (·.1.handle == x.ply.handle)).map (·.2)
    let eaten := mine.filter fun u => !u.corrects && consumes x.ins u
    { x with ply := x.ply.afterRead mine, view := x.view.afterRead eaten, fresh := x.fresh ++ eaten.map fun u => (u.fibre, u.reg) }

/-- What port reads leave beside the reading ply: corrections counted, errors logged, registers of other plies poisoned. -/
def State.settleRead (s : State) (own : Nat) (hits : List (Ply × Upset)) : State :=
  hits.foldl (init := s) fun s (q, u) =>
    let s := if q.handle = own then s else s.modPly q.handle (·.afterRead [u])
    if u.corrects then { s with corrected := SMap.set 0 s.corrected q.core (SMap.get 0 s.corrected q.core + 1) }
    else s.logEvent 12 (q.upsetLog u)

/-- Every register of a ply is read to be saved (R109: saved with tag 15, without a fault). -/
def State.scrub (s : State) (p : Ply) : State × Ply :=
  (s.settleRead p.handle (p.upsets.map fun u => (p, u)), p.afterRead p.upsets)

/-- R320, R319: the hub thread on a hub core leaves its enclave; control returns to the word after EENTER.  Its registers are
read as its context is saved (R109, R110).  The flags stay as the thread left them (R121); R320 names v, s and p registers, so the
modulus registers stay too, and eaux and fence tokens are empty (DESIGN CHOICE, log 85).  The supervisor's faults that were
pending at EENTER are pending again (R424). -/
def State.leaveThread (s : State) (p : Ply) (how : Leave) : State :=
  match p.hub with
  | none => s
  | some hub =>
    match hub.thread, hub.sup with
    | some (enc, n), some sup =>
      let core := s.core p.core
      let (s, p) := s.scrub p
      let slot := SMap.get none core.charts 0
      let s := match s.enclave enc with
        | none => s
        | some e =>
          let upd (t : Thread) : Thread := match how with
            | .eexit | .finished => { t with state := .fresh, context := none, chartSlot := none }
            | .sysc _ => { t with state := .left true, context := some p, chartSlot := slot }
            | .trap _ => { t with state := .left false, context := some p, chartSlot := slot }
          s.putEnclave { e with threads := e.threads.modify n upd }
      let f := p.fibre 0
      let keep : SMap Reg := if how.visible then f.v.filter (·.1 < 8) else []
      let hub := { hub with level := 1, bell := none, thread := none, leaving := none, sup := none }
      let hub := hub.setBank 0 Bank.empty
      let hub := match how with
        | .sysc k => hub.setBank 1 { hub.bank 1 with eaux := k }
        | _ => hub
      let f' : Fibre := { Fibre.dormant with live := true, v := keep, flags := f.flags }
      let c : Course := { Course.fresh s.nextId s.clock [0] 0 with run := sup.run, nextIssue := 4 * s.clock }
      let p' : Ply := { p with
        enc := sup.enc, asid := sup.asid, plyCtl := sup.plyCtl, chartBase := sup.chartBase
        gaugeBase := sup.gaugeBase, tensionBase := sup.tensionBase, stale := sup.stale
        s := SMap.set Reg.zero [] sup.d ⟨how.status, .i64⟩
        fibres := [f'], courses := [c], flight := [], upsets := [], deferred := sup.deferred, hub := some hub, residence := .resident }
      let core := { core with
        charts := SMap.set none core.charts 0 (sup.chart.map fun es => ⟨(0, 0), sup.enc, es⟩) }
      { (s.putPly p').putCore core with nextId := s.nextId + 1 }
    | _, _ => s

end Sys2Proof.Machine
end

