-- ==== Sys2Proof/Machine/Issue.lean ====
section
/-! DEFINITION.  How an instruction issues: the checks that the stream makes of every word, timing, and the
completion of the instruction in its course (00 R10; 01 R13 to R15, R18, R27 to R38, R49; 02 R71 to R77, R83;
03 R122; 04 R134; 12 R334). -/

namespace Sys2Proof.Machine

/-! ### Scoreboards and long-latency destinations -/

/-- R67: an operation counts for a course while a fibre of the course that was active at its issue waits, or, where
none was, while it is not complete. -/
def State.refPending (s : State) (r : SbRef) : Bool :=
  match s.ops.find? (·.id == r.op) with
  | none => false
  | some o => if o.perFibre && !r.own.isEmpty then r.own.any o.left.contains else true

/-- R36, R67: the count of a slot for a course. -/
def State.sbCount (s : State) (c : Course) (slot : Nat) : Nat :=
  (c.sb.filter fun r => r.slot == slot && s.refPending r).length

/-- Registers that operations of a course will still write (R37): a fibre takes its own with it into every course that it
joins, and an s register is that of each course which counts the operation (R67). -/
def State.longDests (s : State) (h : Nat) (c : Course) : List Target :=
  (s.ops.filter (·.ply == h)).flatMap fun o => o.dests.filter fun t => match t.fibre with
    | some f => c.fibres.contains f
    | none => o.course == c.id || c.sb.any (·.op == o.id)

/-! ### Issue -/

/-- Engine ports and beats do not enter here (log 19); the beats of a base qmul follow its sources' tags (R175). -/
def beatsOf (p : Ply) (fs : List Nat) (i : Instr) : Nat :=
  match i with
  | .qmulBase _ _ a b =>
    let q64 (src : Src) : Bool := fs.any fun f => match src with
      | .v n => (SMap.get Reg.zero (p.fibre f).v n.toNat).tag == .q64
      | .s n => (SMap.get Reg.zero p.s n.toNat).tag == .q64
      | .tmp n => ((p.fibre f).temps.getD (n.toNat - 1) Reg.zero).tag == .q64
      | _ => false
    if q64 a || q64 b then 2 else 1
  | i => (shapeOf i).beats

/-- R7, R19, R26: the guard of an instruction, the prefix's override first. -/
def guardOf (h : Head) (p : Option Pfx) : BitVec 5 :=
  match p with
  | some q => if q.gv then q.go else h.g
  | none => h.g

def guardTrue (w : BitVec 16) (g : BitVec 5) : Bool :=
  (g.extractLsb' 0 4 == 0 || w.getLsbD (g.extractLsb' 0 4).toNat) ^^ g.getLsbD 4

/-- v registers read, by bank, and s registers read (R74). -/
def bankReads (l : List Src) : List Nat × Nat :=
  ((List.range 4).map fun b => (l.filter fun s => match s with | .v n => n.toNat % 4 == b | _ => false).length,
   (l.filter fun s => match s with | .s _ => true | _ => false).length)

/-- R74: the extra cycles of a chain whose reads exceed the ports. -/
def portExtra (r : List Nat × Nat) : Nat := r.1.foldl (fun a k => a + (k - 2)) 0 + (r.2 - 4)

/-- Lane groups of a narrow ply, in units of eight lanes (R64). -/
def Ply.lanes (p : Ply) : List Nat :=
  if p.width = 8 then [p.group] else if p.width = 16 then [2 * p.group, 2 * p.group + 1] else [0, 1, 2, 3]

/-- The v registers that an instruction writes in a fibre: one, two (R179), or those of MREAD (R209). -/
def Shape.vdsts (sh : Shape) : List Nat :=
  match sh.dst with
  | .v n => (List.range (if sh.pair then 2 else sh.span)).map (n.toNat + ·)
  | _ => []

/-- R73, R74: the ports that an instruction takes: in each group of eight lanes a read port (4 × group + bank) and a write port
(17 + 4 × group + bank) of a bank of v registers; port 16 reads s registers and 33 writes them.  A read goes through in the cycle
in which the fibres read, a write in that in which the result is readable (R74 names no cycle: DESIGN CHOICE, log 86). -/
def portUses (p : Ply) (sh : Shape) (time first last : Nat) : List (Nat × Nat) :=
  let lanes := p.lanes
  let wide := p.width == 64
  let late := time + (last - first)
  let reads := sh.srcs.flatMap fun src => match src with
    | .v n => (if !wide then [time] else if oneshot sh then [late] else [time, late]).flatMap fun t =>
        lanes.map fun g => (t, 4 * g + n.toNat % 4)
    | .s _ => [(if oneshot sh then late else time, 16)]
    | _ => []
  let writes := (if !wide || oneshot sh then [last + sh.lat] else [first + sh.lat, last + sh.lat]).flatMap fun t =>
    lanes.flatMap fun g => sh.vdsts.map fun n => (t, 17 + 4 * g + n % 4)
  let scalar := match sh.dst with
    | .s _ => List.replicate sh.span (last + sh.lat, 33)
    | _ => []
  reads ++ if sh.lat = 0 then [] else writes ++ scalar

/-- What a port serves in a cycle (R74). -/
def portLimit (n : Nat) : Nat := if n < 16 then 2 else if n = 16 then 4 else 1

/-- R73: the ports that an issue of this cycle has taken do not leave room for these uses too. -/
def PortUse.clash (u : PortUse) (l : List (Nat × Nat)) : Bool :=
  l.any fun x =>
    let held := u.uses.count x
    held != 0 && portLimit x.2 < held + Nat.min (l.count x) (portLimit x.2)

/-- R75: the engine port that an instruction's command goes to: scratchpad, matrix, copy engine, memory. -/
def enginePort (sh : Shape) : Option Nat :=
  if sh.pipe != 2 then none
  else if !sh.long then some (if sh.op ≤ 0x29 then 0 else 3)
  else if 0xE0 ≤ sh.op ∧ sh.op ≤ 0xEE then some 1
  else if 0x100 ≤ sh.op ∧ sh.op ≤ 0x11A then some 0
  else if 0x140 ≤ sh.op ∧ sh.op ≤ 0x149 then some 2
  else some 3

/-- The packed run in which a course stands (R76). -/
def State.packedRun (s : State) (p : Ply) (c : Nat) : Option RunSlot :=
  (s.core p.core).runs.find? fun r => r.packed && r.members.contains (p.handle, c)

/-- The plies whose courses issue as one with a course of a ply (R76). -/
def State.runPlies (s : State) (p : Ply) (c : Nat) : List Ply :=
  match s.packedRun p c with
  | some r => r.members.filterMap fun m => s.ply m.1
  | none => [p]

/-- R221: the commands that hold the scratchpad port for their beats: LDS, STS, LDSFE, STSFE, SFE. -/
def dataCommand (sh : Shape) : Bool := sh.pipe == 2 && (if sh.long then 0x100 ≤ sh.op && sh.op ≤ 0x104 else sh.op == 0x28 || sh.op == 0x29)

/-- The first cycle at which a compute run, of courses of these plies, may issue the chain of these instructions: its pipes are
free (R71, R133), the ports of the register banks and of the engines too (R73, R75), with one cycle for each read too many
(R74): lanes read side by side, and each ply its own s registers (R76). -/
def Core.earliest (k : Core) (plies : List Ply) (part from' : Nat) (chain : List Instr) : Nat :=
  let shapes := chain.map shapeOf
  let (banks, scalars) := bankReads (shapes.flatMap (·.srcs))
  let pipes := shapes.map fun sh => SMap.get 0 k.pipeFree (part * 4 + sh.pipe)
  let ports := shapes.filterMap fun sh => (enginePort sh).map (SMap.get 0 k.engineFree)
  let t := (pipes ++ ports).foldl Nat.max from'
  let u := SMap.get PortUse.none k.ports part
  let uses (q : Ply) (sh : Shape) : List (Nat × Nat) :=
    let first := t + sh.beats - 1
    portUses q sh t first (if q.width = 64 then first + sh.beats else first)
  let t := if u.time = t ∧ u.clash (plies.flatMap fun q => shapes.flatMap (uses q)) then t + 1 else t
  t + portExtra (banks, scalars * plies.length)

/-- The clock as the course of a ply counts it: a hub core runs at four times 600 MHz (R39, R82). -/
def Ply.ticks (p : Ply) (t : Nat) : Nat := if p.isHub then 4 * t else t

/-- The first cycle at which a course may issue an instruction (R14, R15), in the cycles that the course counts. -/
def State.earliest (s : State) (p : Ply) (c : Course) (i : Instr) (addr len : Nat) : Nat :=
  let t := Nat.max (p.ticks s.clock) c.nextIssue
  if p.isHub then t else (s.core p.core).earliest (s.runPlies p c.id) p.part t (s.chainFrom p (2 - c.chain.length) i addr len)

/-- The issue of an instruction by the course that `cur` names.  A permutation at width 64 reads its sources at the first
beat of its second pass: R181 names the second beat, which is that of a ply of width 32 (DESIGN CHOICE, log 69). -/
def State.issue (s : State) (i : Instr) : Option Issue := do
  let cur ← s.cur
  let p ← s.ply cur.ply
  let c ← p.course cur.course
  let tick := match cur.cycle with
    | some t => t
    | none => s.earliest p c i cur.addr cur.len
  let time := if p.isHub then tick / 4 else tick
  let ply := if p.isHub then p.land (time + 1000) else p.land time
  -- the beats of the later fibres follow the tags that they read (R77)
  let sh := { shapeOf i with beats := beatsOf (if p.width = 64 then ply.viewAt time 1 else ply) c.fibres i }
  let lastTick := tick + sh.beats - 1
  let first := if p.isHub then lastTick / 4 else lastTick
  let last := if p.width = 64 then time + 2 * sh.beats - 1 else first
  let view := if oneshot sh then ply.land (time + (last - first)) else ply.viewAt time (last - first)
  let head := headOfInstr i
  let active := c.fibres.filter fun f => guardTrue (view.fibre f).pred (guardOf head c.run.pfx)
  some { ply, view, course := c, ins := i, sh, head, addr := cur.addr, len := cur.len, tick, time, first, last
         pfx := c.run.pfx, active, boot := (s.pkg (p.core / 1024)).bootCycle, fresh := [] }

/-! ### Faults that a word raises at decode (R10, R49) -/

/-- R18: a v register of a field is not below the window. -/
def windowOk (x : Issue) : Bool :=
  let ok (n : BitVec 8) : Bool := n.toNat < x.ply.window
  (x.sh.srcs.all fun s => match s with | .v n => ok n | _ => true)
    && (match x.sh.dst with | .v n => ok n && (!x.sh.pair || n.toNat + 1 < x.ply.window) | _ => true)

/-- R31: a distance operand that names no fixed-latency result of this run. -/
def staleTemp (x : Issue) : Bool :=
  x.sh.srcs.any fun s => match s with
    | .tmp n => x.course.run.pos < n.toNat || !((x.course.run.temps.getD (n.toNat - 1) Temp.none).valid)
    | _ => false

/-- R14: the breaches of a chain that are attributed to this instruction. -/
def State.chainBreach (s : State) (x : Issue) : Bool :=
  let next := x.addr + x.len
  let next := if s.prefixAt x.ply next then next + 4 else next
  if x.sh.isBind then x.head.ch
  else
    x.course.chain.contains x.sh.pipe
      || (x.head.ch && (2 ≤ x.course.chain.length || x.head.st != 0
            || (match s.bindAt x.ply next with | .ok b => b | .error _ => false)))

/-- R334: the opcodes that a role admits. -/
def roleAdmits (role : Nat) (sh : Shape) : Bool :=
  let o := sh.op
  let within (a b : Nat) : Bool := sh.long && a ≤ o && o ≤ b
  match role with
  | 0 => sh.pipe == 0 || within 0x110 0x11A || within 0x128 0x129 || within 0x140 0x149
  | 1 => sh.pipe == 0 || within 0xE0 0xEE || within 0x110 0x11A || within 0x128 0x129
  | 2 => sh.pipe ≤ 1 || (!sh.long && 0x28 ≤ o && o ≤ 0x2B) || within 0x100 0x11A || within 0x120 0x12B
  | _ => true

/-- R83, R313: the opcode's unit is absent where it executes. -/
def unitAbsent (hub : Bool) (sh : Shape) : Bool :=
  let o := sh.op
  if hub then
    (sh.long && ((0xE0 ≤ o && o ≤ 0xEE) || (0x100 ≤ o && o ≤ 0x11A) || (0xA8 ≤ o && o ≤ 0xAC) || (0x140 ≤ o && o ≤ 0x142)))
      || (!sh.long && (o == 0x28 || o == 0x29))
  else sh.long && (o == 0x16B || o == 0x16C)

/-- R3, R302, R303, R313, R366, R82: the level an opcode needs, and those that user code alone may execute. -/
def levelBreach (p : Ply) (sh : Shape) : Bool :=
  let o := sh.op
  let sup := sh.long && (o == 0x1D || o == 0x1E || o == 0x160 || o == 0x161 || (0x168 ≤ o && o ≤ 0x16A) || (o == 0x16B && p.isHub)
    || o == 0x16D || o == 0x16E || o == 0x170)
  (sup && p.level3 == 0)
    || (p.isHub && p.level3 != 0 && ((!sh.long && (o == 4 || o == 6)) || (sh.long && (o == 0x14 || o == 0x16C))))
    || (p.isHub && sh.long && o == 0x16C && (match p.hub with | some h => h.thread.isNone | none => false))

/-- R188: MMA, MMAI, MMAG, MMAC and MREAD need a ply of width 32; a hub core has no such unit (R83). -/
def matrixWidth (p : Ply) (sh : Shape) : Bool :=
  sh.long && ((0xE0 ≤ sh.op && sh.op ≤ 0xE3) || sh.op == 0xEE) && p.width != 32 && !p.isHub

/-- R423: the instructions after which a bind must stand. -/
def wantsBind (sh : Shape) : Bool :=
  (!sh.long && (sh.op == 2 || sh.op == 3)) || (sh.long && (sh.op == 0x19 || sh.op == 0x16B))

/-- Every fault that the stream raises for a word at decode; `extra` are those of the entry itself. -/
def State.wordFaults (s : State) (x : Issue) (extra : List FaultAt) : List FaultAt :=
  let flag (b : Bool) (c : Nat) : List FaultAt := if b then [⟨c, 0⟩] else []
  extra
    ++ flag (!windowOk x || s.chainBreach x || levelBreach x.ply x.sh || matrixWidth x.ply x.sh) 0x01
    ++ flag (staleTemp x) 0x05
    ++ flag (!x.sh.isBind && 24 ≤ x.course.run.pos) 0x06
    ++ (if !x.hub && !roleAdmits x.ply.role x.sh then [⟨0x0A, BitVec.ofNat 64 x.sh.op⟩] else [])
    ++ flag (unitAbsent x.hub x.sh) 0x0B
    ++ (if wantsBind x.sh then
          match s.bindAt x.ply (x.addr + x.len) with
          | .ok true => []
          | .ok false => [⟨0x01, 0⟩]
          | .error e => [⟨0x10, e⟩]
        else [])

/-! ### R37: the checking scoreboard -/

/-- The cycle from which a fibre's result can be read (R15, R77, R167). -/
def Issue.ready (x : Issue) (f lat : Nat) : Nat := (if x.late f || oneshot x.sh then x.last else x.first) + lat

/-- The predicates that an instruction writes. -/
def Issue.pdsts (x : Issue) : List Nat :=
  match x.ins with
  | .pset _ _ mask => (membersOf 15 mask.toNat).map (· + 1)
  | _ => if x.sh.pdst = 0 then [] else [x.sh.pdst]

/-- A landing is under way to a place the instruction reads or writes, or a long-latency operation of the course will
write it. -/
def Issue.stallBreach (x : Issue) (long : List Target) : Bool :=
  let fs := x.course.fibres
  let flies (t : Target) (test : Landing → Bool) : Bool := x.ply.flight.any fun l => l.target == t && test l
  let reads (s : Src) : Bool := match s with
    | .v n => fs.any fun f => flies (.v f n.toNat) (x.readAt f < ·.time) || long.contains (.v f n.toNat)
    | .s n => flies (.s n.toNat) (x.scalarAt < ·.time) || long.contains (.s n.toNat)
    | .tmp n => fs.any fun f => x.readAt f < (x.course.run.temps.getD (n.toNat - 1) Temp.none).at (x.late f)
    | _ => false
  let readsPred (n : Nat) : Bool := n != 0 && fs.any fun f => flies (.p f n) (x.readAt f < ·.time) || long.contains (.p f n)
  let writes (n : Nat) : Bool := fs.any fun f =>
    flies (.v f n) (fun l => 0 < x.sh.lat && x.ready f x.sh.lat ≤ l.time) || long.contains (.v f n)
  let scalars : List Nat := match x.sh.dst with
    | .s n => (List.range x.sh.span).map (n.toNat + ·)
    | _ => []
  let writesS (n : Nat) : Bool :=
    flies (.s n) (fun l => 0 < x.sh.lat && fs.any l.course.contains && x.last + x.sh.lat ≤ l.time) || long.contains (.s n)
  let writesPred (n : Nat) : Bool := fs.any fun f =>
    flies (.p f n) (fun l => 0 < x.sh.plat && x.ready f x.sh.plat ≤ l.time) || long.contains (.p f n)
  let qm : Bool := match x.sh.qm with
    | some n => x.ply.flight.any fun l => (match l.target with | .qm k _ => k == n | _ => false) && x.scalarAt < l.time
    | none => false
  x.ply.sbcheck && !x.hub
    && (x.sh.srcs.any reads || x.sh.preds.any readsPred || qm
        || readsPred ((guardOf x.head x.pfx).extractLsb' 0 4).toNat
        || x.sh.vdsts.any writes || scalars.any writesS || x.pdsts.any writesPred)

/-! ### Completion -/

/-- What an instruction gives a fibre: its destination, the register after it (R179), a predicate bit, flags. -/
structure LaneOut where
  d : Option Reg := none
  d1 : Option Reg := none
  pred : Option Bool := none
  preds : List (Nat × Bool) := []     -- several predicate bits (R145)
  flags : BitVec 5 := 0
  deriving DecidableEq, Repr

/-- A result on its way; on a hub core it is there at once (R39). -/
def Issue.emit (x : Issue) (time : Nat) (t : Target) (r : Reg) (p : Ply) : Ply :=
  let l : Landing := ⟨time, x.course.fibres, t, r⟩
  if x.hub then p.landOne l else { p with flight := p.flight ++ [l] }

/-- A fibre's destination register (R22: code 327 discards). -/
def Issue.emitDst (x : Issue) (f : Nat) (d : Dst) (r : Reg) (p : Ply) : Ply :=
  match d with
  | .v n => x.emit (x.ready f x.sh.lat) (.v f n.toNat) r p
  | .s n => if f = x.active.headD f then x.emit (x.last + x.sh.lat) (.s n.toNat) r p else p   -- once for the course
  | .none => p

def Dst.succ : Dst → Dst
  | .v n => .v (n + 1)
  | d => d

/-- The instruction can raise flags, which it merges when its result becomes readable (R134, R138). -/
def Issue.raisesFlags (x : Issue) : Bool := x.sh.nox || (x.sh.long && (x.sh.op == 0x45 || x.sh.op == 0x46))

/-- What a fibre's results and flags leave on their way; flags of which none was raised too (R134). -/
def Issue.emitLane (x : Issue) (p : Ply) (o : Nat × LaneOut) : Ply :=
  let (f, r) := o
  let p := match r.d with | some v => x.emitDst f x.sh.dst v p | none => p
  let p := match r.d1 with | some v => x.emitDst f (Dst.succ x.sh.dst) v p | none => p
  let p := match r.pred with
    | some b => if x.sh.pdst = 0 then p else x.emit (x.ready f x.sh.plat) (.p f x.sh.pdst) ⟨BitVec.ofNat 64 (b2n b), .raw⟩ p
    | none => p
  let p := r.preds.foldl (init := p) fun p b =>
    x.emit (x.ready f x.sh.plat) (.p f b.1) ⟨BitVec.ofNat 64 (b2n b.2), .raw⟩ p
  if r.flags = 0 && !x.raisesFlags then p
  else x.emit (x.ready f x.sh.flagLat) (.flags f) ⟨if x.nox then 0 else r.flags.setWidth 64, .raw⟩ p

/-- R134: until when the course issues nothing after this instruction. -/
def Issue.holdsUntil (x : Issue) : Nat :=
  if (x.ply.te != 0 && x.sh.pipe == 1 && x.sh.nox) || (x.ply.divtrap && x.sh.long && (x.sh.op == 0x45 || x.sh.op == 0x46)) then
    x.ply.ticks (x.last + x.sh.flagLat)
  else 0

/-- The last beat of an instruction, in the cycles that its course counts. -/
def Issue.lastTick (x : Issue) : Nat := if x.hub then x.tick + x.sh.beats - 1 else x.last

/-- R15: the first cycle in which the course may issue after this instruction, where it ends a chain. -/
def Issue.after (x : Issue) : Nat := Nat.max x.course.chainLast x.lastTick + x.head.st.toNat + 1

/-- R15, R14, R134: when the course may issue again, and the chain that stays open.  The members of a chain issue in one
cycle, so a wait of R134 that one of them asks for begins with the end of the chain (DEDUCED, log 70). -/
def Issue.nextCourse (x : Issue) (c : Course) : Course :=
  let hold := Nat.max c.hold x.holdsUntil
  { c with
    run := { pc := x.addr + x.len, pos := c.run.pos + 1
             temps := (⟨x.sh.temp, x.ready 0 x.sh.lat, x.ready 32 x.sh.lat⟩ :: c.run.temps).take 7, pfx := none }
    nextIssue := if x.head.ch then x.tick else Nat.max x.after hold
    chain := if x.head.ch then c.chain ++ [x.sh.pipe] else []
    chainLast := if x.head.ch then Nat.max c.chainLast x.lastTick else 0
    hold := if x.head.ch then hold else 0 }

/-- The value that a fibre's new temporary holds (R31). -/
def Issue.tempValue (x : Issue) (outs : List (Nat × LaneOut)) (f : Nat) : Reg :=
  if !x.sh.temp then Reg.zero
  else match outs.find? (·.1 == f) with
    | some (_, o) => o.d.getD (x.oldDst f x.sh.dst)
    | none => x.oldDst f x.sh.dst

/-- R71, R133: the pipe is held until the last beat; R73, R75: the ports have served; the clock stands at the issue
cycle. -/
def Issue.holdPipe (x : Issue) (s : State) : State :=
  let c := s.core x.ply.core
  let clock := Nat.max s.clock x.time
  if x.hub then { s with clock }
  else
    let old := SMap.get PortUse.none c.ports x.ply.part
    let mine := portUses x.ply x.sh x.time x.first x.last
    let use : PortUse := ⟨x.time, if old.time = x.time then old.uses ++ mine else mine⟩
    let port := enginePort x.sh
    { s.putCore { c with
        pipeFree := c.pipeFree.put (x.ply.part * 4 + x.sh.pipe)
          (Nat.max (SMap.get 0 c.pipeFree (x.ply.part * 4 + x.sh.pipe)) (x.last + 1))
        ports := c.ports.put x.ply.part use
        engineFree := match port with
          | some n => c.engineFree.put n
              (Nat.max (SMap.get 0 c.engineFree n) (if dataCommand x.sh then x.last + 1 else x.time + 1))
          | none => c.engineFree
        engineLast := match port with
          | some n => c.engineLast.put n x.ply.part
          | none => c.engineLast } with
      clock }

/-- R76: a packed run separates when a member parks or blocks; each of its members stays active and goes on by itself
(DESIGN CHOICE, log 71: R72 names no exception that would make the others inactive). -/
def State.separate (s : State) (p : Ply) (c : Nat) : State :=
  let k := s.core p.core
  if k.runs.any (fun r => r.packed && r.members.contains (p.handle, c)) then
    let apart (r : RunSlot) : RunSlot := { r with packed := false }
    s.putCore { k with runs := updateWhere (·.members.contains (p.handle, c)) apart k.runs }
  else s

/-- The instruction completes in the fibres that do not fault, and the others park (R69).  `p` is the ply with the
effects of the instruction made. -/
def Issue.finish (x : Issue) (s : State) (p : Ply) (outs : List (Nat × LaneOut)) (faults : List (Nat × FaultAt)) : State :=
  let go := x.course.fibres.filter fun f => !(faults.any (·.1 == f))
  let p := p.modFibres go fun f y => { y with temps := (x.tempValue outs f :: y.temps).take 7 }
  let c := (p.course x.course.id).getD x.course
  let p := p.putCourse (x.nextCourse c)
  let p := { p with eligibleSince := x.time }
  let s := x.holdPipe s
  let s := if faults.isEmpty then s else s.separate p x.course.id
  s.raise p x.course.id x.course.run faults

/-- Every fibre of the course parks at the word (R49). -/
def Issue.wordFault (x : Issue) (s : State) (f : FaultAt) : State :=
  let s := { s with clock := Nat.max s.clock x.time }
  (s.separate x.ply x.course.id).raise x.ply x.course.id x.course.run (x.course.fibres.map (·, f))

/-- The instruction waits at issue: its course tries again in the next cycle. -/
def Issue.wait (x : Issue) (s : State) : State :=
  let later (c : Course) : Course := { c with nextIssue := x.tick + 1 }
  { s.putPly { x.ply with courses := updateWhere (·.id == x.course.id) later x.ply.courses } with clock := Nat.max s.clock x.time }

/-- R39: on a hub core an instruction waits for the results it reads or replaces, its second one among them (R57). -/
def Issue.interlock (x : Issue) (long : List Target) : Bool :=
  let scalars : List Nat := match x.sh.dst with
    | .s n => (List.range x.sh.span).map (n.toNat + ·)
    | _ => []
  x.hub && ((x.sh.srcs.any fun s => match s with
      | .v n => long.contains (.v 0 n.toNat)
      | .s n => long.contains (.s n.toNat)
      | _ => false)
    || (x.sh.vdsts.any fun n => long.contains (.v 0 n)) || scalars.any fun n => long.contains (.s n))

/-- THE ISSUE OF EVERY INSTRUCTION: the faults of its word, the waits at issue, then its meaning.  `adjust` gives the beats
of an instruction whose beats depend on its operands; `extra` are the decode faults of the entry; `act` receives the
stall-check fault, which enters the operand stage (R10).  The ports read its source registers (R110). -/
def runIssueAs (s : State) (i : Instr) (adjust : Issue → Issue) (extra : Issue → List FaultAt)
    (act : Issue → List FaultAt → State) : Host.Outcome State Fault Refusal :=
  match (s.issue i).map adjust with
  | none => .fault .noIssuer
  | some x =>
    match lowestFault (s.wordFaults x (extra x)) with
    | some f => .next (x.wordFault s f)
    | none =>
      let long := s.longDests x.ply.handle x.course
      let full := match x.sh.slot with | some n => 63 ≤ s.sbCount x.course n | none => false
      if full || x.interlock long then .next (x.wait s)
      else
        let hits := s.struck x
        let y := x.afterRead hits
        .next ((act y (if y.stallBreach long then [⟨0x07, 0⟩] else [])).settleRead x.ply.handle hits)

/-- The issue of an instruction whose beats its entry fixes. -/
def runIssue (s : State) (i : Instr) (extra : Issue → List FaultAt) (act : Issue → List FaultAt → State) :
    Host.Outcome State Fault Refusal :=
  runIssueAs s i id extra act

/-- The faults of the fibres of a course at operand read, from those of each active fibre; the stall-check fault
concerns every fibre (R37, R49). -/
def Issue.inactiveFaults (x : Issue) (sb : List FaultAt) : List (Nat × FaultAt) :=
  match sb with
  | [] => []
  | f :: _ => (x.course.fibres.filter fun g => !x.active.contains g).map (·, f)

/-- R122: a flag whose trap is enabled parks the fibre. -/
def Issue.trapsOn (x : Issue) (fl : BitVec 5) : Bool := x.sh.pipe == 1 && !x.nox && fl &&& x.ply.te != 0

/-- R138: div and rem with divtrap; their flags stand one place above the bits of eaux. -/
def Issue.divTraps (x : Issue) (fl : BitVec 5) : Bool :=
  x.ply.divtrap && x.sh.long && (x.sh.op == 0x45 || x.sh.op == 0x46) && fl != 0

def Issue.parksOn (x : Issue) (fl : BitVec 5) : Bool := x.trapsOn fl || x.divTraps fl

/-- The fault of fibres that park by their flags, these being the flags of all of them. -/
def Issue.flagFault (x : Issue) (fl : BitVec 5) : FaultAt :=
  if x.sh.pipe == 1 then ⟨0x21, fl.setWidth 64⟩ else ⟨0x20, (fl >>> 1).setWidth 64⟩

/-- A parked fibre's sticky flags take those that the instruction raised. -/
def Issue.keepFlags (x : Issue) (p : Ply) (l : List (Nat × BitVec 5)) : Ply :=
  if x.nox then p else l.foldl (fun p t => p.modFibre t.1 fun y => { y with flags := y.flags ||| t.2 }) p

/-- A fibre that completes, with what the instruction gives it. -/
def Issue.okOf (x : Issue) (r : Nat × Except FaultAt LaneOut) : Option (Nat × LaneOut) :=
  match r.2 with
  | .ok o => if x.parksOn o.flags then none else some (r.1, o)
  | .error _ => none

/-- A fibre that parks by its flags. -/
def Issue.trapOf (x : Issue) (r : Nat × Except FaultAt LaneOut) : Option (Nat × BitVec 5) :=
  match r.2 with
  | .ok o => if x.parksOn o.flags then some (r.1, o.flags) else none
  | .error _ => none

/-- A fibre that faults. -/
def faultOf (r : Nat × Except FaultAt LaneOut) : Option (Nat × FaultAt) :=
  match r.2 with
  | .ok _ => none
  | .error e => some (r.1, e)

/-- The completion of an instruction that acts per fibre, with the result or the fault of each active fibre. -/
def Issue.finishLanes (x : Issue) (s : State) (sb : List FaultAt) (res : List (Nat × Except FaultAt LaneOut)) : State :=
  let trapped := res.filterMap x.trapOf
  let outs := res.filterMap x.okOf
  let trap := x.flagFault (trapped.foldl (fun a t => a ||| t.2) 0)
  let faults := res.filterMap faultOf ++ trapped.map (fun t => (t.1, trap)) ++ x.inactiveFaults sb
  x.finish s (outs.foldl x.emitLane (x.keepFlags x.ply trapped)) outs faults

/-- Instructions that act per active fibre and give each a result (R130).  `f` gives a fibre's result or fault. -/
def runLane (s : State) (i : Instr) (f : Issue → List FaultAt → Nat → Except FaultAt LaneOut) :
    Host.Outcome State Fault Refusal :=
  runIssue s i (fun _ => []) fun x sb => x.finishLanes s sb (x.active.map fun g => (g, f x sb g))

/-- The completion of an instruction that acts once for its course and gives one value (R94, R124, R365): to an s
register once, to a v register in every active fibre. -/
def Issue.finishOnce (x : Issue) (s : State) (p : Ply) (d : Option Reg) : State :=
  match d with
  | none => x.finish s p [] []
  | some r =>
    let p := match x.sh.dst with
      | .s _ => x.emitDst (x.active.headD 0) x.sh.dst r p
      | _ => x.active.foldl (fun p f => x.emitDst f x.sh.dst r p) p
    x.finish s p (x.active.map fun f => (f, ({ d := some r } : LaneOut))) []

/-- The active fibres of a course take a fault at operand read; the inactive ones only that of the stall check. -/
def Issue.refuse (x : Issue) (s : State) (sb : List FaultAt) (e : FaultAt) : State :=
  x.finish s x.ply [] (x.active.map (·, e) ++ x.inactiveFaults sb)

/-- Instructions that act once for the course when a fibre is active (R124, R94): `chk` gives the faults that every
active fibre takes, `act` the ply with the effect, and the value of the destination. -/
def runOnce (s : State) (i : Instr) (extra : Issue → List FaultAt) (chk : Issue → List FaultAt)
    (act : Issue → Ply → Ply × Option Reg) : Host.Outcome State Fault Refusal :=
  runIssue s i extra fun x sb =>
    match lowestFault (sb ++ (if x.active.isEmpty then [] else chk x)) with
    | some e => x.refuse s sb e
    | none =>
      if x.active.isEmpty then x.finish s x.ply [] []
      else
        let (p, d) := act x x.ply
        x.finishOnce s p d

end Sys2Proof.Machine
end

