-- ==== Sys2Proof/Machine/Lanes.lean ====
section
/-! DEFINITION.  Moves and tags (03 R123 to R128), the integer family and the predicate operations (04 R130 to R145). -/

namespace Sys2Proof.Machine

/-! ### Sub-elements -/

/-- Sub-element `e` of a value in a format (R106). -/
def subAt (f : Fmt) (x e : Nat) : Nat := bitsOf x (f.width * e) f.width

/-- A value from its sub-elements. -/
def buildSub (f : Fmt) (g : Nat → Nat) : Word :=
  BitVec.ofNat 64 ((List.range f.subs).foldl (fun a e => a + g e % 2 ^ f.width * 2 ^ (f.width * e)) 0)

/-- A sub-element read as .i or .ui (R112). -/
def readInt (ui : Bool) (w x : Nat) : Int := if ui then (x % 2 ^ w : Nat) else signed w x

/-- The range of a reading (R112). -/
def intLo (ui : Bool) (w : Nat) : Int := if ui then 0 else -(2 ^ (w - 1))
def intHi (ui : Bool) (w : Nat) : Int := if ui then 2 ^ w - 1 else 2 ^ (w - 1) - 1

def clampInt (lo hi x : Int) : Int := if x < lo then lo else if hi < x then hi else x

/-- SAT on an exact integer (R136). -/
def satInt (sat : BitVec 2) (ui : Bool) (w : Nat) (x : Int) : Int :=
  if sat = 1 then clampInt (intLo ui w) (intHi ui w) x
  else if sat = 2 then clampInt 0 (2 ^ w - 1) x else x

/-- The faults of an operand that must hold a format (R107 to R109). -/
def Issue.need (x : Issue) (f : Nat) (fmt : Fmt) (src : Src) : List FaultAt :=
  x.check f (· == fmt) src ++ x.checkQ f fmt src

/-- R132, R107, R108: the faults of a fibre's own sources in a base word. -/
def Issue.ownBase (x : Issue) (allow : Fmt → Bool) (srcs : List Src) (f : Nat) : List FaultAt :=
  let fmt := x.baseFmt f srcs
  if srcs.any fun a => a.isReg && (x.reg f a).tag == .poison then srcs.flatMap (x.check f fun _ => true)
  else srcs.flatMap fun a => x.check f (fun t => t == fmt && allow t) a ++ x.checkQ f fmt a

/-- R107: a fault of cause 0x09 that names an s register in one active fibre is raised in every active fibre. -/
def Issue.sharedBase (x : Issue) (allow : Fmt → Bool) (srcs : List Src) : List FaultAt :=
  x.active.flatMap fun g =>
    (x.ownBase allow srcs g).filter fun e => e.cause == 0x09 && e.eaux.extractLsb' 6 3 == 4

/-- The faults of a base word's sources (R132). -/
def Issue.needBase (x : Issue) (f : Nat) (allow : Fmt → Bool) (srcs : List Src) : List FaultAt :=
  x.ownBase allow srcs f ++ x.sharedBase allow srcs

/-- A destination, in a fibre's register for each fibre or once for the course in an s register (R124, R126). -/
def runPlace (s : State) (i : Instr) (f : Issue → Nat → Except FaultAt Reg) : Host.Outcome State Fault Refusal :=
  match (shapeOf i).dst with
  | .s _ =>
    runOnce s i (fun _ => [])
      (fun x => match f x (x.active.headD 0) with | .error e => [e] | .ok _ => [])
      (fun x p => (p, (f x (x.active.headD 0)).toOption))
  | _ => runLane s i fun x sb g => do
    stage sb
    let r ← f x g
    return { d := some r }

/-! ### Moves and tags -/

/-- MOV (R123).  It copies a register whose very read finds an uncorrectable error with tag 15 and no fault, as R109 has it for
MOV, MOVS and stores; R110 names cause 0x17 for the consumer and does not except them (DESIGN CHOICE, log 18). -/
def execMov (h : Head) (d : Dst) (a : Src) (s : State) : Host.Outcome State Fault Refusal :=
  runLane s (.mov h d a) fun x sb f => do
    stage sb
    return { d := some (x.reg f a) }

/-- MOV_BASE (R123). -/
def execMovBase (h : Head) (d : BitVec 6) (a : Src) (s : State) : Host.Outcome State Fault Refusal :=
  runLane s (.movBase h d a) fun x sb f => do
    stage sb
    return { d := some (x.reg f a) }

/-- MOVS (R124). -/
def execMovs (h : Head) (d : BitVec 6) (a : Src) (s : State) : Host.Outcome State Fault Refusal :=
  runOnce s (.movs h d a) (fun _ => []) (fun _ => []) fun x p => (p, some (x.reg (x.active.headD 0) a))

/-- MOVS_BASE (R124). -/
def execMovsBase (h : Head) (d : BitVec 6) (a : Src) (s : State) : Host.Outcome State Fault Refusal :=
  runOnce s (.movsBase h d a) (fun _ => []) (fun _ => []) fun x p => (p, some (x.reg (x.active.headD 0) a))

/-- The value of MOVI (R125). -/
def moviValue (mode : BitVec 2) (imm : BitVec 32) (old : Reg) : Reg :=
  match mode.toNat with
  | 0 => ⟨imm.signExtend 64, .i64⟩
  | 1 => ⟨imm ++ imm, .f32⟩
  | 2 => ⟨imm.setWidth 64, .raw⟩
  | _ => ⟨imm ++ old.val.extractLsb' 0 32, old.tag⟩

/-- MOVI (R125). -/
def execMovi (h : Head) (d : Dst) (mode : BitVec 2) (imm : BitVec 32) (s : State) :
    Host.Outcome State Fault Refusal :=
  runLane s (.movi h d mode imm) fun x sb f => do
    stage (sb ++ if mode = 3 then x.check f (fun _ => true) (dstSrc d) else [])
    return { d := some (moviValue mode imm (x.oldDst f d)) }

/-- TAGSET (R126). -/
def execTagset (h : Head) (d : Dst) (a : Src) (tag : Fmt) (s : State) : Host.Outcome State Fault Refusal :=
  runPlace s (.tagset h d a tag) fun x f => do
    stage (x.check f (fun _ => true) a)
    return ⟨(x.reg f a).val, tag⟩

/-- TAGSET_BASE (R126). -/
def execTagsetBase (h : Head) (d : BitVec 6) (a : Src) (tag : Fmt) (s : State) : Host.Outcome State Fault Refusal :=
  runPlace s (.tagsetBase h d a tag) fun x f => do
    stage (x.check f (fun _ => true) a)
    return ⟨(x.reg f a).val, tag⟩

/-- TAGGET (R128). -/
def execTagget (h : Head) (d : Dst) (a : Src) (s : State) : Host.Outcome State Fault Refusal :=
  runPlace s (.tagget h d a) fun x f => .ok ⟨(x.reg f a).tag.code.setWidth 64, .i64⟩

/-- TAGGET_BASE (R128). -/
def execTaggetBase (h : Head) (d : BitVec 6) (a : Src) (s : State) : Host.Outcome State Fault Refusal :=
  runPlace s (.taggetBase h d a) fun x f => .ok ⟨(x.reg f a).tag.code.setWidth 64, .i64⟩

/-- R134: an earlier instruction of the course has not merged its flags yet. -/
def Issue.flagsPending (x : Issue) : Bool :=
  x.ply.flight.any fun l => match l.target with
    | .flags f => x.course.fibres.contains f
    | _ => false

/-- TAGGET_FL (R128, R134). -/
def execTaggetFl (h : Head) (d : Dst) (s : State) : Host.Outcome State Fault Refusal :=
  runIssue s (.taggetFl h d) (fun _ => []) fun x sb =>
    if x.flagsPending then x.wait s
    else
      match lowestFault sb with
      | some e => x.refuse s sb e
      | none =>
        let flags (f : Nat) : Reg := ⟨(x.view.fibre f).flags.setWidth 64, .i64⟩
        match d with
        | .s _ => if x.active.isEmpty then x.finish s x.ply [] [] else x.finishOnce s x.ply (some (flags (x.active.headD 0)))
        | _ =>
          let outs := x.active.map fun f => (f, ({ d := some (flags f) } : LaneOut))
          x.finish s (outs.foldl x.emitLane x.ply) outs []

/-- TAGSET_FL (R127, R134). -/
def execTagsetFl (h : Head) (a : Src) (s : State) : Host.Outcome State Fault Refusal :=
  runIssue s (.tagsetFl h a) (fun _ => []) fun x sb =>
    if x.flagsPending then x.wait s
    else
      let faults := (x.active.filterMap fun f => (lowestFault (sb ++ x.check f okCtl a)).map (f, ·)) ++ x.inactiveFaults sb
      let good := x.active.filter fun f => !(faults.any (·.1 == f))
      let p := x.ply.modFibres good fun f y => { y with flags := (x.reg f a).val.setWidth 5 }
      x.finish s p [] faults

/-! ### Integer arithmetic -/

inductive IntFn where
  | add | sub | mul | mad | mulhi | min | max | abs | neg
  deriving DecidableEq, Repr

/-- R136: the exact result. -/
def IntFn.eval (fn : IntFn) (w : Nat) (a b k : Int) : Int :=
  match fn with
  | .add => a + b
  | .sub => a - b
  | .mul => a * b
  | .mad => a * b + k
  | .mulhi => a * b / 2 ^ w
  | .min => if a ≤ b then a else b
  | .max => if b ≤ a then a else b
  | .abs => a.natAbs
  | .neg => -a

/-- R136: the result in every sub-element. -/
def IntFn.value (fn : IntFn) (sat : BitVec 2) (fmt : Fmt) (ui : Bool) (a b k : Nat) : Word :=
  let w := fmt.width
  let rd (x e : Nat) : Int := readInt ui w (subAt fmt x e)
  buildSub fmt fun e => wrap w (satInt sat ui w (fn.eval w (rd a e) (rd b e) (rd k e)))

/-- R136: the long forms. -/
def intLane (s : State) (i : Instr) (fn : IntFn) (fmt : Fmt) (ui : Bool) (a b c : Src) : Host.Outcome State Fault Refusal :=
  runLane s i fun x sb f => do
    stage (sb ++ x.need f fmt a ++ x.need f fmt b ++ x.need f fmt c)
    return { d := some ⟨fn.value x.sat fmt ui (x.lanes f fmt a) (x.lanes f fmt b) (x.lanes f fmt c), fmt⟩ }

/-- R132, R136: the base forms. -/
def intBase (s : State) (i : Instr) (fn : IntFn) (ui : Bool) (a b : Src) : Host.Outcome State Fault Refusal :=
  runLane s i fun x sb f => do
    stage (sb ++ x.needBase f Fmt.isInt [a, b])
    let fmt := x.baseFmt f [a, b]
    return { d := some ⟨fn.value x.sat fmt ui (x.lanes f fmt a) (x.lanes f fmt b) 0, fmt⟩ }

/-- ADD (R136). -/
def execAdd (h : Head) (d : Dst) (a : Src) (b : Src) (f : Fmt) (ui : Bool) (s : State) :
    Host.Outcome State Fault Refusal :=
  intLane s (.add h d a b f ui) .add f ui a b .zero

/-- SUB (R136). -/
def execSub (h : Head) (d : Dst) (a : Src) (b : Src) (f : Fmt) (ui : Bool) (s : State) :
    Host.Outcome State Fault Refusal :=
  intLane s (.sub h d a b f ui) .sub f ui a b .zero

/-- MUL (R136). -/
def execMul (h : Head) (d : Dst) (a : Src) (b : Src) (f : Fmt) (ui : Bool) (s : State) :
    Host.Outcome State Fault Refusal :=
  intLane s (.mul h d a b f ui) .mul f ui a b .zero

/-- MULHI (R136). -/
def execMulhi (h : Head) (d : Dst) (a : Src) (b : Src) (f : Fmt) (ui : Bool) (s : State) :
    Host.Outcome State Fault Refusal :=
  intLane s (.mulhi h d a b f ui) .mulhi f ui a b .zero

/-- MIN (R136). -/
def execMin (h : Head) (d : Dst) (a : Src) (b : Src) (f : Fmt) (ui : Bool) (s : State) :
    Host.Outcome State Fault Refusal :=
  intLane s (.min h d a b f ui) .min f ui a b .zero

/-- MAX (R136). -/
def execMax (h : Head) (d : Dst) (a : Src) (b : Src) (f : Fmt) (ui : Bool) (s : State) :
    Host.Outcome State Fault Refusal :=
  intLane s (.max h d a b f ui) .max f ui a b .zero

/-- MAD (R136). -/
def execMad (h : Head) (d : Dst) (a : Src) (b : Src) (c : Src) (f : Fmt) (ui : Bool) (s : State) :
    Host.Outcome State Fault Refusal :=
  intLane s (.mad h d a b c f ui) .mad f ui a b c

/-- ABS (R136). -/
def execAbs (h : Head) (d : Dst) (a : Src) (f : Fmt) (s : State) : Host.Outcome State Fault Refusal :=
  intLane s (.abs h d a f) .abs f false a .zero .zero

/-- NEG (R136). -/
def execNeg (h : Head) (d : Dst) (a : Src) (f : Fmt) (s : State) : Host.Outcome State Fault Refusal :=
  intLane s (.neg h d a f) .neg f false a .zero .zero

/-- ADDI (R136): the immediate is added exactly. -/
def execAddi (h : Head) (d : Dst) (a : Src) (imm : BitVec 14) (f : Fmt) (ui : Bool) (s : State) :
    Host.Outcome State Fault Refusal :=
  runLane s (.addi h d a imm f ui) fun x sb g => do
    stage (sb ++ x.need g f a)
    let w := f.width
    let r := buildSub f fun e => wrap w (satInt x.sat ui w (readInt ui w (subAt f (x.lanes g f a) e) + imm.toInt))
    return { d := some ⟨r, f⟩ }

/-- ADD_BASE (R136, R132). -/
def execAddBase (h : Head) (d : BitVec 6) (a : Src) (b : Src) (s : State) : Host.Outcome State Fault Refusal :=
  intBase s (.addBase h d a b) .add false a b

/-- SUB_BASE (R136, R132). -/
def execSubBase (h : Head) (d : BitVec 6) (a : Src) (b : Src) (s : State) : Host.Outcome State Fault Refusal :=
  intBase s (.subBase h d a b) .sub false a b

/-- MUL_BASE (R136, R132). -/
def execMulBase (h : Head) (d : BitVec 6) (a : Src) (b : Src) (s : State) : Host.Outcome State Fault Refusal :=
  intBase s (.mulBase h d a b) .mul false a b

/-- MULHI_I_BASE (R136, R132). -/
def execMulhiIBase (h : Head) (d : BitVec 6) (a : Src) (b : Src) (s : State) : Host.Outcome State Fault Refusal :=
  intBase s (.mulhiIBase h d a b) .mulhi false a b

/-- MULHI_UI_BASE (R136, R132). -/
def execMulhiUiBase (h : Head) (d : BitVec 6) (a : Src) (b : Src) (s : State) : Host.Outcome State Fault Refusal :=
  intBase s (.mulhiUiBase h d a b) .mulhi true a b

/-- MIN_I_BASE (R136, R132). -/
def execMinIBase (h : Head) (d : BitVec 6) (a : Src) (b : Src) (s : State) : Host.Outcome State Fault Refusal :=
  intBase s (.minIBase h d a b) .min false a b

/-- MIN_UI_BASE (R136, R132). -/
def execMinUiBase (h : Head) (d : BitVec 6) (a : Src) (b : Src) (s : State) : Host.Outcome State Fault Refusal :=
  intBase s (.minUiBase h d a b) .min true a b

/-- MAX_I_BASE (R136, R132). -/
def execMaxIBase (h : Head) (d : BitVec 6) (a : Src) (b : Src) (s : State) : Host.Outcome State Fault Refusal :=
  intBase s (.maxIBase h d a b) .max false a b

/-- MAX_UI_BASE (R136, R132). -/
def execMaxUiBase (h : Head) (d : BitVec 6) (a : Src) (b : Src) (s : State) : Host.Outcome State Fault Refusal :=
  intBase s (.maxUiBase h d a b) .max true a b

/-- R137: quotient, remainder and flags of one sub-element. -/
def divSub (ui : Bool) (w : Nat) (a b : Int) : Int × Int × FlagBits :=
  if b = 0 then (2 ^ w - 1, a, fDivZero)
  else if !ui && a == -(2 ^ (w - 1)) && b == -1 then (a, 0, fOverflow)
  else (Int.tdiv a b, Int.tmod a b, 0)

/-- R137, R138. -/
def divLane (s : State) (i : Instr) (rem : Bool) (fmt : Fmt) (ui : Bool) (a b : Src) : Host.Outcome State Fault Refusal :=
  runLane s i fun x sb f => do
    stage (sb ++ x.need f fmt a ++ x.need f fmt b)
    let w := fmt.width
    let one (e : Nat) := divSub ui w (readInt ui w (subAt fmt (x.lanes f fmt a) e)) (readInt ui w (subAt fmt (x.lanes f fmt b) e))
    let flags := (List.range fmt.subs).foldl (fun fl e => fl ||| (one e).2.2) 0
    return { d := some ⟨buildSub fmt fun e => wrap w (if rem then (one e).2.1 else (one e).1), fmt⟩, flags }

/-- DIV (R137, R138). -/
def execDiv (h : Head) (d : Dst) (a : Src) (b : Src) (f : Fmt) (ui : Bool) (s : State) :
    Host.Outcome State Fault Refusal :=
  divLane s (.div h d a b f ui) false f ui a b

/-- REM (R137, R138). -/
def execRem (h : Head) (d : Dst) (a : Src) (b : Src) (f : Fmt) (ui : Bool) (s : State) :
    Host.Outcome State Fault Refusal :=
  divLane s (.rem h d a b f ui) true f ui a b

/-! ### Bitwise and shifts -/

inductive BitFn where
  | and | or | xor | andn | not
  deriving DecidableEq, Repr

/-- R139: the result. -/
def BitFn.eval (fn : BitFn) (a b : Word) : Word :=
  match fn with
  | .and => a &&& b
  | .or => a ||| b
  | .xor => a ^^^ b
  | .andn => a &&& ~~~ b
  | .not => ~~~ a

/-- R139: a constant, or %subel, is an integer pattern of the result format's width. -/
def Issue.bits (x : Issue) (f : Nat) (fmt : Fmt) (src : Src) : Word := BitVec.ofNat 64 (x.lanes f fmt.index src)

def bitLane (s : State) (i : Instr) (fn : BitFn) (fmt : Fmt) (a b : Src) : Host.Outcome State Fault Refusal :=
  runLane s i fun x sb f => do
    stage (sb ++ x.check f (fun _ => true) a ++ x.check f (fun _ => true) b)
    return { d := some ⟨fn.eval (x.bits f fmt a) (x.bits f fmt b), fmt⟩ }

/-- R132, R139: the base forms; tags need not agree. -/
def bitBase (s : State) (i : Instr) (fn : BitFn) (a b : Src) : Host.Outcome State Fault Refusal :=
  runLane s i fun x sb f => do
    stage (sb ++ x.check f (fun _ => true) a ++ x.check f (fun _ => true) b)
    let fmt := x.baseFmt f [a, b]
    return { d := some ⟨fn.eval (x.bits f fmt a) (x.bits f fmt b), fmt⟩ }

/-- AND (R139). -/
def execAnd (h : Head) (d : Dst) (a : Src) (b : Src) (f : Fmt) (s : State) : Host.Outcome State Fault Refusal :=
  bitLane s (.and h d a b f) .and f a b

/-- OR (R139). -/
def execOr (h : Head) (d : Dst) (a : Src) (b : Src) (f : Fmt) (s : State) : Host.Outcome State Fault Refusal :=
  bitLane s (.or h d a b f) .or f a b

/-- XOR (R139). -/
def execXor (h : Head) (d : Dst) (a : Src) (b : Src) (f : Fmt) (s : State) : Host.Outcome State Fault Refusal :=
  bitLane s (.xor h d a b f) .xor f a b

/-- ANDN (R139). -/
def execAndn (h : Head) (d : Dst) (a : Src) (b : Src) (f : Fmt) (s : State) : Host.Outcome State Fault Refusal :=
  bitLane s (.andn h d a b f) .andn f a b

/-- NOT (R139). -/
def execNot (h : Head) (d : Dst) (a : Src) (f : Fmt) (s : State) : Host.Outcome State Fault Refusal :=
  bitLane s (.not h d a f) .not f a .zero

/-- AND_BASE (R139). -/
def execAndBase (h : Head) (d : BitVec 6) (a : Src) (b : Src) (s : State) : Host.Outcome State Fault Refusal :=
  bitBase s (.andBase h d a b) .and a b

/-- OR_BASE (R139). -/
def execOrBase (h : Head) (d : BitVec 6) (a : Src) (b : Src) (s : State) : Host.Outcome State Fault Refusal :=
  bitBase s (.orBase h d a b) .or a b

/-- XOR_BASE (R139). -/
def execXorBase (h : Head) (d : BitVec 6) (a : Src) (b : Src) (s : State) : Host.Outcome State Fault Refusal :=
  bitBase s (.xorBase h d a b) .xor a b

inductive ShiftFn where
  | shl | shr | sar | rot
  deriving DecidableEq, Repr

/-- R140: the result in one sub-element; the count is `b` modulo `w`. -/
def ShiftFn.eval (fn : ShiftFn) (w a b : Nat) : Nat :=
  let c := b % w
  match fn with
  | .shl => a * 2 ^ c
  | .shr => a / 2 ^ c
  | .sar => wrap w (signed w a / 2 ^ c)
  | .rot => a * 2 ^ c + a / 2 ^ (w - c)

def ShiftFn.value (fn : ShiftFn) (fmt : Fmt) (a b : Nat) : Word :=
  buildSub fmt fun e => fn.eval fmt.width (subAt fmt a e) (subAt fmt b e)

def shiftLane (s : State) (i : Instr) (fn : ShiftFn) (fmt : Fmt) (a b : Src) : Host.Outcome State Fault Refusal :=
  runLane s i fun x sb f => do
    stage (sb ++ x.need f fmt a ++ x.need f fmt b)
    return { d := some ⟨fn.value fmt (x.lanes f fmt a) (x.lanes f fmt b), fmt⟩ }

def shiftBase (s : State) (i : Instr) (fn : ShiftFn) (a b : Src) : Host.Outcome State Fault Refusal :=
  runLane s i fun x sb f => do
    stage (sb ++ x.needBase f Fmt.isInt [a, b])
    let fmt := x.baseFmt f [a, b]
    return { d := some ⟨fn.value fmt (x.lanes f fmt a) (x.lanes f fmt b), fmt⟩ }

/-- SHL (R140). -/
def execShl (h : Head) (d : Dst) (a : Src) (b : Src) (f : Fmt) (s : State) : Host.Outcome State Fault Refusal :=
  shiftLane s (.shl h d a b f) .shl f a b

/-- SHR (R140). -/
def execShr (h : Head) (d : Dst) (a : Src) (b : Src) (f : Fmt) (s : State) : Host.Outcome State Fault Refusal :=
  shiftLane s (.shr h d a b f) .shr f a b

/-- SAR (R140). -/
def execSar (h : Head) (d : Dst) (a : Src) (b : Src) (f : Fmt) (s : State) : Host.Outcome State Fault Refusal :=
  shiftLane s (.sar h d a b f) .sar f a b

/-- ROT (R140). -/
def execRot (h : Head) (d : Dst) (a : Src) (b : Src) (f : Fmt) (s : State) : Host.Outcome State Fault Refusal :=
  shiftLane s (.rot h d a b f) .rot f a b

/-- SHL_BASE (R140). -/
def execShlBase (h : Head) (d : BitVec 6) (a : Src) (b : Src) (s : State) : Host.Outcome State Fault Refusal :=
  shiftBase s (.shlBase h d a b) .shl a b

/-- SHR_BASE (R140). -/
def execShrBase (h : Head) (d : BitVec 6) (a : Src) (b : Src) (s : State) : Host.Outcome State Fault Refusal :=
  shiftBase s (.shrBase h d a b) .shr a b

/-- SAR_BASE (R140). -/
def execSarBase (h : Head) (d : BitVec 6) (a : Src) (b : Src) (s : State) : Host.Outcome State Fault Refusal :=
  shiftBase s (.sarBase h d a b) .sar a b

/-- ROT_BASE (R140). -/
def execRotBase (h : Head) (d : BitVec 6) (a : Src) (b : Src) (s : State) : Host.Outcome State Fault Refusal :=
  shiftBase s (.rotBase h d a b) .rot a b

/-- The number of one bits of a `w`-bit pattern. -/
def popcount (w a : Nat) : Nat := (membersOf w a).length

/-- R141: a count in every sub-element. -/
def countLane (s : State) (i : Instr) (fmt : Fmt) (a : Src) (count : Nat → Nat → Nat) : Host.Outcome State Fault Refusal :=
  runLane s i fun x sb f => do
    stage (sb ++ x.need f fmt a)
    return { d := some ⟨buildSub fmt fun e => count fmt.width (subAt fmt (x.lanes f fmt a) e), fmt⟩ }

/-- CLZ (R141). -/
def execClz (h : Head) (d : Dst) (a : Src) (f : Fmt) (s : State) : Host.Outcome State Fault Refusal :=
  countLane s (.clz h d a f) f a fun w x => w - bitLen x

/-- POPC (R141). -/
def execPopc (h : Head) (d : Dst) (a : Src) (f : Fmt) (s : State) : Host.Outcome State Fault Refusal :=
  countLane s (.popc h d a f) f a popcount

/-- R142: a condition on two integers. -/
def intCond (cond : BitVec 3) (a b : Int) : Bool :=
  match cond.toNat with
  | 0 => a == b
  | 1 => a != b
  | 2 => a < b
  | 3 => a ≤ b
  | 4 => b < a
  | _ => b ≤ a

/-- The mask and the predicate of a comparison (R142, R151). -/
def maskOut (fmt : Fmt) (any : Bool) (t : Nat → Bool) : LaneOut :=
  let l := (List.range fmt.subs).map t
  { d := some ⟨buildSub fmt fun e => if t e then 2 ^ fmt.width - 1 else 0, fmt⟩
    pred := some (if any then l.any id else l.all id) }

/-- CMP (R142). -/
def execCmp (h : Head) (d : Dst) (a : Src) (b : Src) (f : Fmt) (ui : Bool) (cond : BitVec 3) (pn : BitVec 4) (any : Bool) (s : State) :
    Host.Outcome State Fault Refusal :=
  runLane s (.cmp h d a b f ui cond pn any) fun x sb g => do
    stage (sb ++ x.need g f a ++ x.need g f b)
    let rd (src : Src) (e : Nat) : Int := readInt ui f.width (subAt f (x.lanes g f src) e)
    return maskOut f any fun e => intCond cond (rd a e) (rd b e)

/-- SEL (R143). -/
def execSel (h : Head) (d : Dst) (a : Src) (b : Src) (c : Src) (f : Fmt) (s : State) :
    Host.Outcome State Fault Refusal :=
  runLane s (.sel h d a b c f) fun x sb g => do
    stage (sb ++ x.need g f a ++ x.need g f b ++ x.need g f.index c)
    let pick (e : Nat) : Nat :=
      subAt f (if subAt f.index (x.lanes g f.index c) e ≠ 0 then x.lanes g f a else x.lanes g f b) e
    return { d := some ⟨buildSub f pick, f⟩ }

/-! ### Predicates (R144, R145) -/

/-- R144: an operation on two predicates, each negated or not. -/
def predLane (s : State) (i : Instr) (pa pb : BitVec 4) (na nb : Bool) (f : Bool → Bool → Bool) :
    Host.Outcome State Fault Refusal :=
  runLane s i fun x sb g => do
    stage sb
    return { pred := some (f (x.pred g pa.toNat ^^ na) (x.pred g pb.toNat ^^ nb)) }

/-- PAND (R144). -/
def execPand (h : Head) (pd : BitVec 4) (pa : BitVec 4) (pb : BitVec 4) (na : Bool) (nb : Bool) (s : State) :
    Host.Outcome State Fault Refusal :=
  predLane s (.pand h pd pa pb na nb) pa pb na nb fun a b => a && b

/-- POR (R144). -/
def execPor (h : Head) (pd : BitVec 4) (pa : BitVec 4) (pb : BitVec 4) (na : Bool) (nb : Bool) (s : State) :
    Host.Outcome State Fault Refusal :=
  predLane s (.por h pd pa pb na nb) pa pb na nb fun a b => a || b

/-- PXOR (R144). -/
def execPxor (h : Head) (pd : BitVec 4) (pa : BitVec 4) (pb : BitVec 4) (na : Bool) (nb : Bool) (s : State) :
    Host.Outcome State Fault Refusal :=
  predLane s (.pxor h pd pa pb na nb) pa pb na nb fun a b => a ^^ b

/-- PNOT (R144). -/
def execPnot (h : Head) (pd : BitVec 4) (pa : BitVec 4) (na : Bool) (s : State) : Host.Outcome State Fault Refusal :=
  predLane s (.pnot h pd pa na) pa 0 na false fun a _ => !a

/-- PGET (R145). -/
def execPget (h : Head) (d : BitVec 8) (s : State) : Host.Outcome State Fault Refusal :=
  runLane s (.pget h d) fun x sb f => do
    stage sb
    return { d := some ⟨(x.view.fibre f).pred.setWidth 64, .i64⟩ }

/-- PSET (R145). -/
def execPset (h : Head) (a : Src) (mask : BitVec 15) (s : State) : Host.Outcome State Fault Refusal :=
  runLane s (.pset h a mask) fun x sb f => do
    stage (sb ++ x.check f okCtl a)
    return { preds := (membersOf 15 mask.toNat).map fun k => (k + 1, (x.reg f a).val.getLsbD (k + 1)) }

end Sys2Proof.Machine
end

