-- ==== Sys2Proof/Machine/Special.lean ====
section
/-! DEFINITION.  The special functions (04 R153, R154): the exact value is enclosed between two dyadic numbers
by fixed-point series, more closely until both ends round alike. -/

namespace Sys2Proof.Machine

/-- Fixed-point numbers carry `w` fraction bits.  A series term by term, `n` terms. -/
def expTerms (w y : Nat) : Nat → Nat → Nat → Nat
  | 0, _, _ => 0
  | n + 1, k, t => t + expTerms w y n (k + 1) (t * y / 2 ^ w / (k + 1))

/-- e^y for 0 ≤ y < 1. -/
def expFix (w y : Nat) : Nat := expTerms w y (w / 2 + 8) 0 (2 ^ w)

/-- z + z³/3 + z⁵/5 + …, with z² given. -/
def atanhTerms (w zz : Nat) : Nat → Nat → Nat → Nat
  | 0, _, _ => 0
  | n + 1, k, t => t / (2 * k + 1) + atanhTerms w zz n (k + 1) (t * zz / 2 ^ w)

/-- The inverse hyperbolic tangent of z, 0 ≤ z ≤ 1/3. -/
def atanhFix (w z : Nat) : Nat := atanhTerms w (z * z / 2 ^ w) (w / 2 + 8) 0 z

def ln2Fix (w : Nat) : Nat := 2 * atanhFix w (2 ^ w / 3)

/-- 1/k − 1/(3k³) + …: the arc tangent of 1/k. -/
def atanInv (w k : Nat) : Nat → Nat → Nat → Int
  | 0, _, _ => 0
  | n + 1, j, t => (t / (2 * j + 1) : Nat) - atanInv w k n (j + 1) (t / (k * k))

/-- π by Machin's formula. -/
def piFix (w : Nat) : Nat :=
  (16 * atanInv w 5 (w / 4 + 8) 0 (2 ^ w / 5) - 4 * atanInv w 239 (w / 8 + 8) 0 (2 ^ w / 239)).toNat

/-- Alternating series in r²: sin r (from r) and cos r (from 1), for 0 ≤ r < 1. -/
def trigTerms (w rr : Nat) : Nat → Nat → Nat → Int
  | 0, _, _ => 0
  | n + 1, k, t => (t : Int) - trigTerms w rr n (k + 2) (t * rr / 2 ^ w / ((k + 1) * (k + 2)))

def sinFix (w r : Nat) : Int := trigTerms w (r * r / 2 ^ w) (w / 4 + 8) 1 r
def cosFix (w r : Nat) : Int := trigTerms w (r * r / 2 ^ w) (w / 4 + 8) 0 (2 ^ w)

/-- A magnitude with its enclosure: at most `err` away, in units of 2^−w. -/
structure Encl where
  neg : Bool
  mid : Nat
  err : Nat
  e : Int
  deriving DecidableEq, Repr

/-- The exact value as a fixed-point number, when its fraction fits. -/
def fixed (w m : Nat) (e : Int) : Nat :=
  if 0 ≤ e + w then m * 2 ^ (e + w).toNat else m / 2 ^ (-(e + w)).toNat

/-- 2^x for x = ±m·2^e that is no integer. -/
def exp2Encl (w : Nat) (neg : Bool) (m : Nat) (e : Int) : Encl :=
  if 12 < e + bitLen m then ⟨false, 2 ^ w, 1, (if neg then -5000 else 5000) - (w : Int)⟩
  else
    let x : Int := fixed w m e
    let x := if neg then -x else x
    let n := x / 2 ^ w
    let y := (x % 2 ^ w).toNat * ln2Fix w / 2 ^ w
    ⟨false, expFix w y, 4 * w, n - w⟩

/-- log2 of m·2^e, no power of two. -/
def log2Encl (w m : Nat) (e : Int) : Encl :=
  let l := bitLen m
  let f := m * 2 ^ w / 2 ^ (l - 1)
  let z := (f - 2 ^ w) * 2 ^ w / (f + 2 ^ w)
  let ln := 2 * atanhFix w z
  let v : Int := (e + l - 1) * 2 ^ w + (ln * 2 ^ w / ln2Fix w : Nat)
  ⟨decide (v < 0), v.natAbs, 8 * w, -(w : Int)⟩

/-- sin (or cos) of ±m·2^e, by exact argument reduction. -/
def trigEncl (w : Nat) (cosine neg : Bool) (m : Nat) (e : Int) : Encl :=
  let h := piFix w / 2
  let x := fixed w m e
  let q := x / h
  let r := x % h
  let c := (q + if cosine then 1 else 0) % 4
  -- above π/4 the complement keeps the series short of 1
  let v : Int := if c % 2 = 0 then
      (if 2 * r ≤ h then sinFix w r else cosFix w (h - r))
    else (if 2 * r ≤ h then cosFix w r else sinFix w (h - r))
  let neg' := (if cosine then false else neg) ^^ decide (2 ≤ c)
  ⟨neg', v.natAbs, 2 ^ 136 + 8 * w, -(w : Int)⟩

/-- tanh of m·2^e above 0. -/
def tanhEncl (w : Nat) (neg : Bool) (m : Nat) (e : Int) : Encl :=
  if 7 < e + bitLen m then ⟨neg, 2 ^ w - 1, 1, -(w : Int)⟩
  else
    let x := 2 * fixed w m e
    let t := x * 2 ^ w / ln2Fix w
    let n := t / 2 ^ w
    let y := t % 2 ^ w * ln2Fix w / 2 ^ w
    let ex := expFix w y * 2 ^ n
    ⟨neg, (ex - 2 ^ w) * 2 ^ w / (ex + 2 ^ w), 64 * w, -(w : Int)⟩

inductive SpecFn where
  | rcp | rsqrt | exp2 | log2 | sin | cos | tanh
  deriving DecidableEq, Repr

def SpecFn.encl (fn : SpecFn) (w : Nat) (neg : Bool) (m : Nat) (e : Int) : Encl :=
  match fn with
  | .exp2 => exp2Encl w neg m e
  | .log2 => log2Encl w m e
  | .sin => trigEncl w false neg m e
  | .cos => trigEncl w true neg m e
  | _ => tanhEncl w neg m e

/-- R154: rounded once by RNE, with closer enclosures until both ends agree. -/
def SpecFn.close (fn : SpecFn) (b : Bin) (ftz neg : Bool) (m : Nat) (e : Int) : List Nat → Res
  | [] => ⟨b.nan, 0⟩
  | w :: r =>
    let x := fn.encl w neg m e
    let lo := b.round .rne ftz x.neg (x.mid - x.err) x.e true
    let hi := b.round .rne ftz x.neg (x.mid + x.err) x.e true
    if lo = hi || r.isEmpty then lo else fn.close b ftz neg m e r

/-- The precisions tried. -/
def precisions : List Nat := [512, 1024, 2048, 4096]

/-- A value that is an integer, as one. -/
def asInteger (m : Nat) (e : Int) : Option Nat :=
  if 0 ≤ e then some (m * 2 ^ e.toNat) else if m % 2 ^ (-e).toNat = 0 then some (m / 2 ^ (-e).toNat) else none

/-- R154: a special function of an input read after FTZ. -/
def SpecFn.eval (fn : SpecFn) (b : Bin) (ftz : Bool) (x : Num) : Res :=
  match fn, x with
  | _, .nan s => b.nanRes s
  | .rcp, x => b.div .rne ftz (.fin false 1 0) x
  | .rsqrt, .inf neg => if neg then b.nanRes true else ⟨b.zero false, 0⟩
  | .rsqrt, .fin neg m e =>
    if m = 0 then ⟨b.inf neg, fDivZero⟩
    else if neg then b.nanRes true
    else
      -- 1/√(m·2^e) with e even is √(2^2k / m) / 2^(k + e/2)
      let (m, e) := if e % 2 = 0 then (m, e) else (2 * m, e - 1)
      let k := 2 * (b.f + 4) + bitLen m
      let q := 2 ^ (2 * k) / m
      let r := isqrt q
      b.round .rne ftz false r (-(k : Int) - e / 2) (r * r * m != 2 ^ (2 * k))
  | .exp2, .inf neg => ⟨if neg then b.zero false else b.inf false, 0⟩
  | .exp2, .fin neg m e =>
    if m = 0 then ⟨b.one, 0⟩
    else
      match asInteger m e with
      | some k => if k < 5000 then b.round .rne ftz false 1 (if neg then -(k : Int) else k) false
                  else b.round .rne ftz false 1 (if neg then -5000 else 5000) false
      | none => fn.close b ftz neg m e precisions
  | .log2, .inf neg => if neg then b.nanRes true else ⟨b.inf false, 0⟩
  | .log2, .fin neg m e =>
    if m = 0 then ⟨b.inf true, fDivZero⟩
    else if neg then b.nanRes true
    else if 2 ^ (bitLen m - 1) = m then
      let k : Int := e + bitLen m - 1
      b.round .rne ftz (decide (k < 0)) k.natAbs 0 false
    else fn.close b ftz false m e precisions
  | .sin, .inf _ => b.nanRes true
  | .sin, .fin neg m e => if m = 0 then ⟨b.zero neg, 0⟩ else fn.close b ftz neg m e precisions
  | .cos, .inf _ => b.nanRes true
  | .cos, .fin neg m e => if m = 0 then ⟨b.one, 0⟩ else fn.close b ftz neg m e precisions
  | .tanh, .inf neg => ⟨b.zero neg + b.one, 0⟩
  | .tanh, .fin neg m e => if m = 0 then ⟨b.zero neg, 0⟩ else fn.close b ftz neg m e precisions

end Sys2Proof.Machine
end

