-- ==== Sys2Proof/Machine/Floats.lean ====
section
/-! DEFINITION.  The floating-point family, the special functions and the conversions (04 R146 to R158). -/

namespace Sys2Proof.Machine

/-! ### Arithmetic -/

inductive FloatFn where
  | add | sub | mul | fma | div | sqrt
  deriving DecidableEq, Repr

/-- R147: the result of one sub-element, rounded once. -/
def FloatFn.eval (fn : FloatFn) (b : Bin) (mode : Rnd) (ftz : Bool) (x y z : Num) : Res :=
  match fn with
  | .add => b.sum mode ftz [x.term, y.term]
  | .sub => b.sum mode ftz [x.term, y.neg.term]
  | .mul => b.sum mode ftz [x.times y]
  | .fma => b.sum mode ftz [x.times y, z.term]
  | .div => b.div mode ftz x y
  | .sqrt => b.sqrt mode ftz x

/-- R148: the two parts of a complex result. -/
def FloatFn.parts (fn : FloatFn) (mode : Rnd) (ftz : Bool) (xr xi yr yi zr zi : Num) : Res × Res :=
  match fn with
  | .sub => (bin32.sum mode ftz [xr.term, yr.neg.term], bin32.sum mode ftz [xi.term, yi.neg.term])
  | .mul => (bin32.sum mode ftz [xr.times yr, xi.neg.times yi], bin32.sum mode ftz [xr.times yi, xi.times yr])
  | .fma => (bin32.sum mode ftz [xr.times yr, xi.neg.times yi, zr.term], bin32.sum mode ftz [xr.times yi, xi.times yr, zi.term])
  | _ => (bin32.sum mode ftz [xr.term, yr.term], bin32.sum mode ftz [xi.term, yi.term])

/-- Results of every sub-element, and the flags of all (R130). -/
def buildRes (f : Fmt) (g : Nat → Res) : Word × FlagBits :=
  (buildSub f fun e => (g e).bits, (List.range f.subs).foldl (fun a e => a ||| (g e).flags) 0)

/-- R147, R148: the value of a floating-point instruction, inputs read after FTZ, SAT after rounding. -/
def FloatFn.value (fn : FloatFn) (mode : Rnd) (sat : BitVec 2) (ftz : Bool) (fmt : Fmt) (a b c : Nat) : Word × FlagBits :=
  match fmt with
  | .cf32 =>
    let rd (x i : Nat) : Num := bin32.decodeFtz ftz (bitsOf x (32 * i) 32)
    let (r, i) := fn.parts mode ftz (rd a 0) (rd a 1) (rd b 0) (rd b 1) (rd c 0) (rd c 1)
    let r := bin32.saturate sat r
    let i := bin32.saturate sat i
    (BitVec.ofNat 64 (r.bits + i.bits * 2 ^ 32), r.flags ||| i.flags)
  | _ =>
    let bin := binOf fmt
    let rd (x e : Nat) : Num := bin.decodeFtz ftz (subAt fmt x e)
    buildRes fmt fun e => bin.saturate sat (fn.eval bin mode ftz (rd a e) (rd b e) (rd c e))

/-- A floating-point instruction. -/
def floatLane (s : State) (i : Instr) (fn : FloatFn) (fmt : Fmt) (own : Rnd) (a b c : Src) : Host.Outcome State Fault Refusal :=
  runLane s i fun x sb f => do
    stage (sb ++ x.need f fmt a ++ x.need f fmt b ++ x.need f fmt c)
    let (v, flags) := fn.value (x.rnd own) x.sat x.ftz fmt (x.lanes f fmt a) (x.lanes f fmt b) (x.lanes f fmt c)
    return { d := some ⟨v, fmt⟩, flags }

/-- Its base form (R132). -/
def floatBase (s : State) (i : Instr) (fn : FloatFn) (a b : Src) : Host.Outcome State Fault Refusal :=
  runLane s i fun x sb f => do
    stage (sb ++ x.needBase f Fmt.isFlt5 [a, b])
    let fmt := x.baseFmt f [a, b]
    let (v, flags) := fn.value (x.rnd .inherit) x.sat x.ftz fmt (x.lanes f fmt a) (x.lanes f fmt b) 0
    return { d := some ⟨v, fmt⟩, flags }

/-- FADD (R147). -/
def execFadd (h : Head) (d : Dst) (a : Src) (b : Src) (f : Fmt) (rnd : Rnd) (s : State) :
    Host.Outcome State Fault Refusal :=
  floatLane s (.fadd h d a b f rnd) .add f rnd a b .zero

/-- FSUB (R147). -/
def execFsub (h : Head) (d : Dst) (a : Src) (b : Src) (f : Fmt) (rnd : Rnd) (s : State) :
    Host.Outcome State Fault Refusal :=
  floatLane s (.fsub h d a b f rnd) .sub f rnd a b .zero

/-- FMUL (R147). -/
def execFmul (h : Head) (d : Dst) (a : Src) (b : Src) (f : Fmt) (rnd : Rnd) (s : State) :
    Host.Outcome State Fault Refusal :=
  floatLane s (.fmul h d a b f rnd) .mul f rnd a b .zero

/-- FDIV (R147). -/
def execFdiv (h : Head) (d : Dst) (a : Src) (b : Src) (f : Fmt) (rnd : Rnd) (s : State) :
    Host.Outcome State Fault Refusal :=
  floatLane s (.fdiv h d a b f rnd) .div f rnd a b .zero

/-- FMA (R147). -/
def execFma (h : Head) (d : Dst) (a : Src) (b : Src) (c : Src) (f : Fmt) (s : State) :
    Host.Outcome State Fault Refusal :=
  floatLane s (.fma h d a b c f) .fma f .inherit a b c

/-- FSQRT (R147). -/
def execFsqrt (h : Head) (d : Dst) (a : Src) (f : Fmt) (rnd : Rnd) (s : State) : Host.Outcome State Fault Refusal :=
  floatLane s (.fsqrt h d a f rnd) .sqrt f rnd a .zero .zero

/-- FADD_BASE (R147, R132). -/
def execFaddBase (h : Head) (d : BitVec 6) (a : Src) (b : Src) (s : State) : Host.Outcome State Fault Refusal :=
  floatBase s (.faddBase h d a b) .add a b

/-- FSUB_BASE (R147, R132). -/
def execFsubBase (h : Head) (d : BitVec 6) (a : Src) (b : Src) (s : State) : Host.Outcome State Fault Refusal :=
  floatBase s (.fsubBase h d a b) .sub a b

/-- FMUL_BASE (R147, R132). -/
def execFmulBase (h : Head) (d : BitVec 6) (a : Src) (b : Src) (s : State) : Host.Outcome State Fault Refusal :=
  floatBase s (.fmulBase h d a b) .mul a b

/-- R149. -/
def minmaxValue (lesser ftz : Bool) (fmt : Fmt) (a b : Nat) : Word × FlagBits :=
  buildRes fmt fun e => (binOf fmt).minmax lesser ftz (subAt fmt a e) (subAt fmt b e)

def minmaxLane (s : State) (i : Instr) (lesser : Bool) (fmt : Fmt) (a b : Src) : Host.Outcome State Fault Refusal :=
  runLane s i fun x sb f => do
    stage (sb ++ x.need f fmt a ++ x.need f fmt b)
    let (v, flags) := minmaxValue lesser x.ftz fmt (x.lanes f fmt a) (x.lanes f fmt b)
    return { d := some ⟨v, fmt⟩, flags }

def minmaxBase (s : State) (i : Instr) (lesser : Bool) (a b : Src) : Host.Outcome State Fault Refusal :=
  runLane s i fun x sb f => do
    stage (sb ++ x.needBase f Fmt.isFlt4 [a, b])
    let fmt := x.baseFmt f [a, b]
    let (v, flags) := minmaxValue lesser x.ftz fmt (x.lanes f fmt a) (x.lanes f fmt b)
    return { d := some ⟨v, fmt⟩, flags }

/-- FMIN (R149). -/
def execFmin (h : Head) (d : Dst) (a : Src) (b : Src) (f : Fmt) (s : State) : Host.Outcome State Fault Refusal :=
  minmaxLane s (.fmin h d a b f) true f a b

/-- FMAX (R149). -/
def execFmax (h : Head) (d : Dst) (a : Src) (b : Src) (f : Fmt) (s : State) : Host.Outcome State Fault Refusal :=
  minmaxLane s (.fmax h d a b f) false f a b

/-- FMIN_BASE (R149, R132). -/
def execFminBase (h : Head) (d : BitVec 6) (a : Src) (b : Src) (s : State) : Host.Outcome State Fault Refusal :=
  minmaxBase s (.fminBase h d a b) true a b

/-- FMAX_BASE (R149, R132). -/
def execFmaxBase (h : Head) (d : BitVec 6) (a : Src) (b : Src) (s : State) : Host.Outcome State Fault Refusal :=
  minmaxBase s (.fmaxBase h d a b) false a b

/-- The sign bits of a format; a complex value has two (R150, R148). -/
def signBits (fmt : Fmt) : Word :=
  match fmt with
  | .cf32 => 0x8000000080000000
  | f => buildSub f fun _ => 2 ^ (f.width - 1)

/-- FABS (R150). -/
def execFabs (h : Head) (d : Dst) (a : Src) (f : Fmt) (s : State) : Host.Outcome State Fault Refusal :=
  runLane s (.fabs h d a f) fun x sb g => do
    stage (sb ++ x.need g f a)
    return { d := some ⟨BitVec.ofNat 64 (x.lanes g f a) &&& ~~~ signBits f, f⟩ }

/-- FNEG (R150, R148). -/
def execFneg (h : Head) (d : Dst) (a : Src) (f : Fmt) (s : State) : Host.Outcome State Fault Refusal :=
  runLane s (.fneg h d a f) fun x sb g => do
    stage (sb ++ x.need g f a)
    return { d := some ⟨BitVec.ofNat 64 (x.lanes g f a) ^^^ signBits f, f⟩ }

/-- R151: the truth of a condition and the flag it raises. -/
def floatCond (cond : BitVec 3) (x y : Num) : Bool × FlagBits :=
  let nan := x.isNan || y.isNan
  let snan := x.isSnan || y.isSnan
  let c := x.cmp y
  let quiet (t : Bool) : Bool × FlagBits := (t, if snan then fInvalid else 0)
  let loud (t : Bool) : Bool × FlagBits := (!nan && t, if nan then fInvalid else 0)
  match cond.toNat with
  | 0 => quiet (!nan && c == 0)
  | 1 => quiet (nan || c != 0)
  | 2 => loud (c < 0)
  | 3 => loud (c ≤ 0)
  | 4 => loud (0 < c)
  | 5 => loud (0 ≤ c)
  | 6 => quiet nan
  | _ => quiet (!nan)

/-- FCMP (R151). -/
def execFcmp (h : Head) (d : Dst) (a : Src) (b : Src) (f : Fmt) (cond : BitVec 3) (pn : BitVec 4) (any : Bool) (s : State) :
    Host.Outcome State Fault Refusal :=
  runLane s (.fcmp h d a b f cond pn any) fun x sb g => do
    stage (sb ++ x.need g f a ++ x.need g f b)
    let rd (src : Src) (e : Nat) : Num := (binOf f).decodeFtz x.ftz (subAt f (x.lanes g f src) e)
    let one (e : Nat) := floatCond cond (rd a e) (rd b e)
    let flags := (List.range f.subs).foldl (fun fl e => fl ||| (one e).2) 0
    return { maskOut f.index any fun e => (one e).1 with flags }

/-- FDOT (R152). -/
def execFdot (h : Head) (d : Dst) (a : Src) (b : Src) (c : Src) (f : Fmt) (s : State) :
    Host.Outcome State Fault Refusal :=
  runLane s (.fdot h d a b c f) fun x sb g => do
    stage (sb ++ x.need g f a ++ x.need g f b ++ x.need g .f32 c)
    let rd (src : Src) (e : Nat) : Num := (binOf f).decodeFtz x.ftz (subAt f (x.lanes g f src) e)
    let acc (j : Nat) : Num := bin32.decodeFtz x.ftz (subAt .f32 (x.lanes g .f32 c) j)
    let (v, flags) := buildRes .f32 fun j => bin32.saturate x.sat
      (bin32.sum (x.rnd .inherit) x.ftz
        [(acc j).term, (rd a (2 * j)).times (rd b (2 * j)), (rd a (2 * j + 1)).times (rd b (2 * j + 1))])
    return { d := some ⟨v, .f32⟩, flags }

/-! ### Special functions -/

/-- R153, R154. -/
def specLane (s : State) (i : Instr) (fn : SpecFn) (fmt : Fmt) (a : Src) : Host.Outcome State Fault Refusal :=
  runLane s i fun x sb f => do
    stage (sb ++ x.need f fmt a)
    let b := binOf fmt
    let (v, flags) := buildRes fmt fun e =>
      b.saturate x.sat (fn.eval b x.ftz (b.decodeFtz x.ftz (subAt fmt (x.lanes f fmt a) e)))
    return { d := some ⟨v, fmt⟩, flags }

/-- RCP (R154). -/
def execRcp (h : Head) (d : Dst) (a : Src) (f : Fmt) (s : State) : Host.Outcome State Fault Refusal :=
  specLane s (.rcp h d a f) .rcp f a

/-- RSQRT (R154). -/
def execRsqrt (h : Head) (d : Dst) (a : Src) (f : Fmt) (s : State) : Host.Outcome State Fault Refusal :=
  specLane s (.rsqrt h d a f) .rsqrt f a

/-- EXP2 (R154). -/
def execExp2 (h : Head) (d : Dst) (a : Src) (f : Fmt) (s : State) : Host.Outcome State Fault Refusal :=
  specLane s (.exp2 h d a f) .exp2 f a

/-- LOG2 (R154). -/
def execLog2 (h : Head) (d : Dst) (a : Src) (f : Fmt) (s : State) : Host.Outcome State Fault Refusal :=
  specLane s (.log2 h d a f) .log2 f a

/-- SIN (R154). -/
def execSin (h : Head) (d : Dst) (a : Src) (f : Fmt) (s : State) : Host.Outcome State Fault Refusal :=
  specLane s (.sin h d a f) .sin f a

/-- COS (R154). -/
def execCos (h : Head) (d : Dst) (a : Src) (f : Fmt) (s : State) : Host.Outcome State Fault Refusal :=
  specLane s (.cos h d a f) .cos f a

/-- TANH (R154). -/
def execTanh (h : Head) (d : Dst) (a : Src) (f : Fmt) (s : State) : Host.Outcome State Fault Refusal :=
  specLane s (.tanh h d a f) .tanh f a

/-! ### Conversions -/

/-- An integer as a floating-point value. -/
def numOfInt (x : Int) : Num := .fin (decide (x < 0)) x.natAbs 0

/-- R156: one sub-element from a format to another of as many sub-elements. -/
def convertSub (dst src : Fmt) (ui : Bool) (mode : Rnd) (sat : BitVec 2) (ftz : Bool) (x : Nat) : Res :=
  if src.isInt then
    let b := binOf dst
    b.saturate sat (b.convert mode ftz (numOfInt (readInt ui src.width x)))
  else
    let n := (binOf src).decodeFtz ftz x
    if dst.isInt then
      let (k, fl) := toInteger mode (intLo ui dst.width) (intHi ui dst.width) n
      ⟨wrap dst.width k, fl⟩
    else
      let b := binOf dst
      b.saturate sat (if dst = src then b.toIntegral mode n else b.convert mode ftz n)

/-- CVT (R156). -/
def execCvt (h : Head) (d : Dst) (a : Src) (f : Fmt) (ui : Bool) (rnd : Rnd) (sf : Fmt) (s : State) :
    Host.Outcome State Fault Refusal :=
  runLane s (.cvt h d a f ui rnd sf) fun x sb g => do
    stage (sb ++ x.need g sf a)
    let (v, flags) := buildRes f fun e => convertSub f sf ui (x.rnd rnd) x.sat x.ftz (subAt sf (x.lanes g sf a) e)
    return { d := some ⟨v, f⟩, flags }

/-- PACK (R157). -/
def execPack (h : Head) (d : Dst) (a : Src) (b : Src) (f : Fmt) (ui : Bool) (rnd : Rnd) (s : State) :
    Host.Outcome State Fault Refusal :=
  runLane s (.pack h d a b f ui rnd) fun x sb g => do
    let src := f.packSrc
    stage (sb ++ x.need g src a ++ x.need g src b)
    let n := src.subs
    let el (e : Nat) : Nat := if e < n then subAt src (x.lanes g src a) e else subAt src (x.lanes g src b) (e - n)
    let (v, flags) := buildRes f fun e =>
      if f.isInt then ⟨wrap f.width (satInt x.sat ui f.width (readInt ui src.width (el e))), 0⟩
      else (binOf f).saturate x.sat ((binOf f).convert (x.rnd rnd) x.ftz ((binOf src).decodeFtz x.ftz (el e)))
    return { d := some ⟨v, f⟩, flags }

/-- R158: the result format of unpack. -/
def unpackDst : Fmt → Fmt
  | .i32 => .i64
  | .i16 => .i32
  | .i8 => .i16
  | .i4 => .i8
  | .f32 => .f64
  | .f16 | .bf16 => .f32
  | .gq8 => .i16
  | _ => .i8

/-- UNPACK (R158). -/
def execUnpack (h : Head) (d : Dst) (a : Src) (f : Fmt) (ui : Bool) (hi : Bool) (s : State) :
    Host.Outcome State Fault Refusal :=
  runLane s (.unpack h d a f ui hi) fun x sb g => do
    stage (sb ++ x.need g f a)
    let dst := unpackDst f
    let (v, flags) := buildRes dst fun e =>
      let k := subAt f (x.lanes g f a) (if hi then e + f.subs / 2 else e)
      match f with
      | .f32 | .f16 | .bf16 => (binOf dst).convert .rne false ((binOf f).decodeFtz x.ftz k)
      | .gq8 | .gq4 => ⟨k, 0⟩
      | _ => ⟨wrap dst.width (readInt ui f.width k), 0⟩
    return { d := some ⟨v, dst⟩, flags }

end Sys2Proof.Machine
end

