-- ==== Sys2Proof/Machine/Cross.lean ====
section
/-! DEFINITION.  The cross-lane instructions (04 R159 to R167). -/

namespace Sys2Proof.Machine

/-- Elements of a ply in a format (R159), and the segment length. -/
def Issue.elements (x : Issue) (fmt : Fmt) : Nat := x.ply.width * fmt.subs

def Issue.segLen (x : Issue) (fmt : Fmt) (seg : Nat) : Nat :=
  let n := x.elements fmt
  if seg = 0 ∨ n ≤ 2 ^ seg then n else 2 ^ seg

/-- The faults of an operand, taken by every active fibre when one takes any (R160, R181).  Of cause 0x09, eaux has the tag
that the first failing active fibre holds, in every fibre: R160 does not say whose (DESIGN CHOICE, log 65). -/
def Issue.needAll (x : Issue) (fmt : Fmt) (src : Src) : List FaultAt :=
  (lowestFault (x.active.flatMap fun f => x.need f fmt src)).toList

/-- An element of a source, where its fibre is active (R160). -/
def Issue.element (x : Issue) (fmt : Fmt) (src : Src) (j : Nat) : Option Nat :=
  if x.active.contains (j / fmt.subs) then some (subAt fmt (x.lanes (j / fmt.subs) fmt src) (j % fmt.subs)) else none

/-- A value of a fibre from the elements of the ply, an unavailable one reading as zeros. -/
def Issue.gather (x : Issue) (f : Nat) (fmt : Fmt) (src : Src) (pick : Nat → Nat) : Word :=
  buildSub fmt fun e => (x.element fmt src (pick (fmt.subs * f + e))).getD 0

/-- SHFL (R162). -/
def execShfl (h : Head) (d : Dst) (a : Src) (b : Src) (f : Fmt) (mode : BitVec 3) (seg : BitVec 4) (s : State) :
    Host.Outcome State Fault Refusal :=
  runLane s (.shfl h d a b f mode seg) fun x sb g => do
    let idx := mode = 0
    stage (sb ++ x.needAll f a ++ if idx then x.need g f.index b else x.checkUniform okCtl b)
    let n := x.segLen f seg.toNat
    let k := (x.uniform b).toNat
    let pick (y : Nat) : Nat :=
      let base := y / n * n
      match mode.toNat with
      | 0 => base + subAt f.index (x.lanes g f.index b) (y % f.subs) % n
      | 1 => if y < base + k then y else y - k
      | 2 => if base + n ≤ y + k then y else y + k
      | _ => y ^^^ (k % n)
    return { d := some ⟨x.gather g f a pick, f⟩ }

/-- BCAST (R163). -/
def execBcast (h : Head) (d : Dst) (a : Src) (b : Src) (f : Fmt) (seg : BitVec 4) (s : State) :
    Host.Outcome State Fault Refusal :=
  runLane s (.bcast h d a b f seg) fun x sb g => do
    stage (sb ++ x.needAll f a ++ x.checkUniform okCtl b)
    let n := x.segLen f seg.toNat
    return { d := some ⟨x.gather g f a fun y => y / n * n + (x.uniform b).toNat % n, f⟩ }

/-- SWIZ (R166). -/
def execSwiz (h : Head) (d : Dst) (a : Src) (f : Fmt) (pat : BitVec 8) (s : State) :
    Host.Outcome State Fault Refusal :=
  runLane s (.swiz h d a f pat) fun x sb g => do
    stage (sb ++ x.needAll f a)
    return { d := some ⟨x.gather g f a fun y => y / 4 * 4 + bitsOf pat.toNat (2 * (y % 4)) 2, f⟩ }

/-- R165: the identities. -/
def redIdentity (fmt : Fmt) (ui : Bool) (op : BitVec 3) : Nat :=
  let w := fmt.width
  if fmt.isInt then
    match op.toNat with
    | 1 => wrap w (intHi ui w)
    | 2 => wrap w (intLo ui w)
    | 3 => 2 ^ w - 1
    | _ => 0
  else
    match op.toNat with
    | 1 => (binOf fmt).inf false
    | 2 => (binOf fmt).inf true
    | _ => 0

/-- R164: the combination of elements; of none, the identity. -/
def combine (fmt : Fmt) (ui : Bool) (op : BitVec 3) (mode : Rnd) (sat : BitVec 2) (ftz : Bool) (l : List Nat) : Res :=
  let w := fmt.width
  match l with
  | [] => ⟨redIdentity fmt ui op, 0⟩
  | a :: r =>
    if fmt.isInt then
      match op.toNat with
      | 0 => ⟨wrap w (satInt sat ui w (l.foldl (fun t x => t + readInt ui w x) 0)), 0⟩
      | 1 => ⟨r.foldl (fun t x => if readInt ui w x < readInt ui w t then x else t) a, 0⟩
      | 2 => ⟨r.foldl (fun t x => if readInt ui w t < readInt ui w x then x else t) a, 0⟩
      | 3 => ⟨r.foldl (· &&& ·) a, 0⟩
      | 4 => ⟨r.foldl (· ||| ·) a, 0⟩
      | _ => ⟨r.foldl (· ^^^ ·) a, 0⟩
    else
      let b := binOf fmt
      if op = 0 then b.saturate sat (b.sum mode ftz (l.map fun x => (b.decodeFtz ftz x).term))
      else
        b.saturate sat (r.foldl (init := b.minmax (op == 1) ftz a a) fun t x =>
          let u := b.minmax (op == 1) ftz t.bits x
          ⟨u.bits, t.flags ||| u.flags⟩)

/-- LREDUCE (R164). -/
def execLreduce (h : Head) (d : Dst) (a : Src) (f : Fmt) (ui : Bool) (op : BitVec 3) (seg : BitVec 4) (rnd : Rnd) (s : State) :
    Host.Outcome State Fault Refusal :=
  runLane s (.lreduce h d a f ui op seg rnd) fun x sb g => do
    stage (sb ++ x.needAll f a)
    let n := x.segLen f seg.toNat
    let (v, flags) := buildRes f fun e =>
      let base := (f.subs * g + e) / n * n
      combine f ui op (x.rnd rnd) x.sat x.ftz ((List.range n).filterMap fun k => x.element f a (base + k))
    return { d := some ⟨v, f⟩, flags }

/-- LSCAN (R165). -/
def execLscan (h : Head) (d : Dst) (a : Src) (f : Fmt) (ui : Bool) (op : BitVec 3) (seg : BitVec 4) (excl : Bool) (rnd : Rnd) (s : State) :
    Host.Outcome State Fault Refusal :=
  runLane s (.lscan h d a f ui op seg excl rnd) fun x sb g => do
    stage (sb ++ x.needAll f a)
    let n := x.segLen f seg.toNat
    let (v, flags) := buildRes f fun e =>
      let y := f.subs * g + e
      let base := y / n * n
      let count := if excl then y - base else y - base + 1
      combine f ui op (x.rnd rnd) x.sat x.ftz ((List.range count).filterMap fun k => x.element f a (base + k))
    return { d := some ⟨v, f⟩, flags }

end Sys2Proof.Machine
end

