-- ==== Sys2Proof/Machine/Modular.lean ====
section
/-! DEFINITION.  Modular arithmetic and the hardened permutations (05 R169 to R184). -/

namespace Sys2Proof.Machine

/-- R171: the reduction of a product. -/
def barrett (m : QMod) (x : Nat) : Nat :=
  let t := x * m.mu.toNat / 2 ^ (2 * m.bits)
  let r := x - t * m.q.toNat
  if m.q.toNat ≤ r then r - m.q.toNat else r

/-- The modulus register as it stands at operand read. -/
def Issue.modulus (x : Issue) (n : Nat) : QMod := SMap.get QMod.empty x.ply.qm n

/-- R169: the modulus register is loaded and of the width that every given format asks for. -/
def Issue.needMod (x : Issue) (n : Nat) (fmts : List Fmt) : List FaultAt :=
  let m := x.modulus n
  if m.valid && fmts.all (fun f => !f.isQ || m.wide == (f == .q64)) then []
  else [⟨0x09, BitVec.ofNat 64 (2 ^ 15 + n * 2 ^ 13)⟩]

/-- The formats that the active fibres' sources hold in a base word (R169). -/
def Issue.baseFmts (x : Issue) (srcs : List Src) : List Fmt :=
  x.active.flatMap fun f => (srcs.filter Src.isReg).map fun a => (x.reg f a).tag

/-- R170: an input residue, and the flag raised when it is not below q. -/
def residue (m : QMod) (a : Nat) : Nat × FlagBits :=
  if m.q.toNat ≤ a then (a % m.q.toNat, fInvalid) else (a, 0)

inductive ModFn where
  | add | sub | mul | mac
  deriving DecidableEq, Repr

/-- R177. -/
def ModFn.eval (fn : ModFn) (m : QMod) (a b c : Nat) : Nat :=
  let q := m.q.toNat
  match fn with
  | .add => if q ≤ a + b then a + b - q else a + b
  | .sub => if a < b then a + q - b else a - b
  | .mul => barrett m (a * b)
  | .mac => barrett m (a * b + c)

/-- Results of every sub-element from residues of up to three sources. -/
def modValue (m : QMod) (fmt : Fmt) (srcs : List Nat) (g : List Nat → Nat) : Word × FlagBits :=
  buildRes fmt fun e =>
    let rs := srcs.map fun a => residue m (subAt fmt a e)
    ⟨g (rs.map (·.1)), rs.foldl (fun fl r => fl ||| r.2) 0⟩

/-- The modular operations of three formats.  Where a source's tag and the modulus register both fail with cause 0x09 in a
fibre, eaux is that of the source: R169 orders them with no rule of R107, whose list names the sources only (DESIGN CHOICE,
log 66). -/
def modLane (s : State) (i : Instr) (fn : ModFn) (fmt : Fmt) (qm : Nat) (srcs : List Src) : Host.Outcome State Fault Refusal :=
  runLane s i fun x sb f => do
    stage (sb ++ srcs.flatMap (x.need f fmt) ++ x.needMod qm [fmt])
    let m := x.modulus qm
    let (v, flags) := modValue m fmt (srcs.map (x.lanes f fmt)) fun l => fn.eval m (l.getD 0 0) (l.getD 1 0) (l.getD 2 0)
    return { d := some ⟨v, fmt⟩, flags }

/-- R174: the base forms use qm0. -/
def modBase (s : State) (i : Instr) (fn : ModFn) (a b : Src) : Host.Outcome State Fault Refusal :=
  runLane s i fun x sb f => do
    stage (sb ++ x.needBase f Fmt.isQ [a, b] ++ x.needMod 0 (x.baseFmts [a, b]))
    let fmt := x.baseFmt f [a, b]
    let m := x.modulus 0
    let (v, flags) := modValue m fmt [x.lanes f fmt a, x.lanes f fmt b] fun l => fn.eval m (l.getD 0 0) (l.getD 1 0) 0
    return { d := some ⟨v, fmt⟩, flags }

/-- R176: the modulus register that a value loads; none when the value is no modulus. -/
def qsetValue (fmt : Fmt) (q : Nat) : Option QMod :=
  let lim := if fmt = .q64 then 2 ^ 62 else 2 ^ 31
  if q < 2 ∨ lim ≤ q then none
  else some ⟨BitVec.ofNat 64 (2 ^ (2 * bitLen q) / q), BitVec.ofNat 64 q, fmt == .q64, true, bitLen q⟩

/-- QSET (R176).  Where the value is no modulus and te[6] parks every active fibre, qm[N] keeps what it held: R122 lets a
parked fibre write no result, and R176 does not say whether qm[N] is one (DESIGN CHOICE, log 68). -/
def execQset (h : Head) (a : Src) (f : Fmt) (qm : BitVec 2) (s : State) : Host.Outcome State Fault Refusal :=
  runIssue s (.qset h a f qm) (fun _ => []) fun x sb =>
    match lowestFault (sb ++ if x.active.isEmpty then [] else x.checkUniform okCtl a) with
    | some e => x.refuse s sb e
    | none =>
      if x.active.isEmpty then x.finish s x.ply [] []
      else
        match qsetValue f (x.uniform a).toNat with
        | some m => x.finish s (x.emit (x.last + 4) (.qm qm.toNat m) Reg.zero x.ply) [] []
        | none =>
          if x.trapsOn fInvalid then
            let p := x.keepFlags x.ply (x.active.map (·, fInvalid))
            x.finish s p [] (x.active.map (·, x.flagFault fInvalid))
          else
            let p := x.emit (x.last + 4) (.qm qm.toNat QMod.empty) Reg.zero x.ply
            let outs := x.active.map fun f => (f, ({ flags := fInvalid } : LaneOut))
            x.finish s (outs.foldl x.emitLane p) outs []

/-- QADD (R177). -/
def execQadd (h : Head) (d : Dst) (a : Src) (b : Src) (f : Fmt) (qm : BitVec 2) (s : State) :
    Host.Outcome State Fault Refusal :=
  modLane s (.qadd h d a b f qm) .add f qm.toNat [a, b]

/-- QSUB (R177). -/
def execQsub (h : Head) (d : Dst) (a : Src) (b : Src) (f : Fmt) (qm : BitVec 2) (s : State) :
    Host.Outcome State Fault Refusal :=
  modLane s (.qsub h d a b f qm) .sub f qm.toNat [a, b]

/-- QMUL (R177). -/
def execQmul (h : Head) (d : Dst) (a : Src) (b : Src) (f : Fmt) (qm : BitVec 2) (s : State) :
    Host.Outcome State Fault Refusal :=
  modLane s (.qmul h d a b f qm) .mul f qm.toNat [a, b]

/-- QMAC (R177). -/
def execQmac (h : Head) (d : Dst) (a : Src) (b : Src) (c : Src) (f : Fmt) (qm : BitVec 2) (s : State) :
    Host.Outcome State Fault Refusal :=
  modLane s (.qmac h d a b c f qm) .mac f qm.toNat [a, b, c]

/-- QADD_BASE (R177, R174). -/
def execQaddBase (h : Head) (d : BitVec 6) (a : Src) (b : Src) (s : State) : Host.Outcome State Fault Refusal :=
  modBase s (.qaddBase h d a b) .add a b

/-- QSUB_BASE (R177, R174). -/
def execQsubBase (h : Head) (d : BitVec 6) (a : Src) (b : Src) (s : State) : Host.Outcome State Fault Refusal :=
  modBase s (.qsubBase h d a b) .sub a b

/-- QMUL_BASE (R177, R174). -/
def execQmulBase (h : Head) (d : BitVec 6) (a : Src) (b : Src) (s : State) : Host.Outcome State Fault Refusal :=
  modBase s (.qmulBase h d a b) .mul a b

/-- QRED (R178). -/
def execQred (h : Head) (d : Dst) (a : Src) (f : Fmt) (ui : Bool) (qm : BitVec 2) (s : State) :
    Host.Outcome State Fault Refusal :=
  runLane s (.qred h d a f ui qm) fun x sb g => do
    let own := a.isReg && (x.reg g a).tag == f
    stage (sb ++ x.check g (fun t => t == f.qint || t == f) a ++ x.checkQ g f a ++ x.needMod qm.toNat [f])
    let q : Int := ((x.modulus qm.toNat).q.toNat : Nat)
    let src := x.lanes g f.qint a
    let v := buildSub f fun e => (readInt (ui || own) f.width (subAt f src e) % q).toNat
    return { d := some ⟨v, f⟩ }

/-- R179: both results of a butterfly. -/
def butterfly (inverse : Bool) (m : QMod) (x y w : Nat) : Nat × Nat :=
  if inverse then (ModFn.eval .add m x y 0, barrett m (w * ModFn.eval .sub m x y 0))
  else
    let t := barrett m (w * y)
    (ModFn.eval .add m x t 0, ModFn.eval .sub m x t 0)

def butterflyLane (s : State) (i : Instr) (inverse : Bool) (fmt : Fmt) (qm : Nat) (srcs : List Src) :
    Host.Outcome State Fault Refusal :=
  runLane s i fun x sb f => do
    stage (sb ++ srcs.flatMap (x.need f fmt) ++ x.needMod qm [fmt])
    let m := x.modulus qm
    let vals := srcs.map (x.lanes f fmt)
    let one (l : List Nat) := butterfly inverse m (l.getD 0 0) (l.getD 1 0) (l.getD 2 0)
    let (v, flags) := modValue m fmt vals fun l => (one l).1
    let (v1, _) := modValue m fmt vals fun l => (one l).2
    return { d := some ⟨v, fmt⟩, d1 := some ⟨v1, fmt⟩, flags }

/-- QBFLY (R179). -/
def execQbfly (h : Head) (d : BitVec 8) (a : Src) (b : Src) (c : Src) (f : Fmt) (qm : BitVec 2) (s : State) :
    Host.Outcome State Fault Refusal :=
  butterflyLane s (.qbfly h d a b c f qm) false f qm.toNat [a, b, c]

/-- QIBFLY (R179). -/
def execQibfly (h : Head) (d : BitVec 8) (a : Src) (b : Src) (c : Src) (f : Fmt) (qm : BitVec 2) (s : State) :
    Host.Outcome State Fault Refusal :=
  butterflyLane s (.qibfly h d a b c f qm) true f qm.toNat [a, b, c]

/-- R180: the two computations of a permutation differ, since an upset struck one of them (log 18). -/
def Issue.strayed (x : Issue) (s : State) : Bool := (s.core x.ply.core).strayed.contains x.ply.part

/-- R180: a mismatch is found: it is counted in the register-error log, with its core and partition. -/
def State.caughtStray (s : State) (p : Ply) : State :=
  let k := s.core p.core
  (s.putCore { k with strayed := k.strayed.filter (· != p.part) }).logEvent 12 [p.core, p.part]

/-- The permutations (R180, R181): the faults of their operands, then the comparison of the two computations, which parks
every active fibre with the long opcode in eaux; `f` gives a fibre's result. -/
def runPermute (s : State) (i : Instr) (chk : Issue → List FaultAt) (f : Issue → Nat → LaneOut) :
    Host.Outcome State Fault Refusal :=
  runIssue s i (fun _ => []) fun x sb =>
    match lowestFault (sb ++ if x.active.isEmpty then [] else chk x) with
    | some e => x.refuse s sb e
    | none =>
      if x.strayed s then
        x.finish (s.caughtStray x.ply) x.ply [] (x.active.map (·, ⟨0x15, BitVec.ofNat 64 (2 ^ 63 + x.sh.op)⟩))
      else x.finishLanes s sb (x.active.map fun g => (g, .ok (f x g)))

/-- HPERM (R182, R180). -/
def execHperm (h : Head) (d : Dst) (a : Src) (b : Src) (f : Fmt) (seg : BitVec 3) (s : State) :
    Host.Outcome State Fault Refusal :=
  runPermute s (.hperm h d a b f seg) (fun x => x.needAll f a ++ x.needAll f.index b) fun x g =>
    let n := x.segLen f seg.toNat
    let pick (y : Nat) : Nat := y / n * n + subAt f.index (x.lanes g f.index b) (y % f.subs) % n
    { d := some ⟨x.gather g f a pick, f⟩ }

/-- R183: where position `p` of a segment of `n` takes its coefficient from, and whether it is negated. -/
def autoSource (n kk p : Nat) : Option (Nat × Bool) :=
  ((List.range n).find? fun i => i * kk % (2 * n) % n == p).map fun i => (i, n ≤ i * kk % (2 * n))

/-- HAUTO (R183, R180).  An input that is not below q raises invalid in the fibre that holds it: R170 and R122 do not say
whether that or the fibre which receives it is meant (DESIGN CHOICE, log 67). -/
def execHauto (h : Head) (d : Dst) (a : Src) (b : Src) (f : Fmt) (qm : BitVec 2) (seg : BitVec 4) (s : State) :
    Host.Outcome State Fault Refusal :=
  runPermute s (.hauto h d a b f qm seg)
      (fun x => x.needAll f a ++ x.checkUniform okCtl b ++ x.needMod qm.toNat [f]) fun x g =>
    let m := x.modulus qm.toNat
    let n := x.segLen f seg.toNat
    let kk := (x.uniform b).toNat % (2 * n)
    let own := (List.range f.subs).foldl (fun fl e => fl ||| (residue m (subAt f (x.lanes g f a) e)).2) (0 : FlagBits)
    if kk % 2 = 0 then { d := some ⟨0, f⟩, flags := own ||| fInvalid }
    else
      let v := buildSub f fun e =>
        let y := f.subs * g + e
        match autoSource n kk (y % n) with
        | none => 0
        | some (i, neg) =>
          let c := (residue m ((x.element f a (y / n * n + i)).getD 0)).1
          if neg && c != 0 then m.q.toNat - c else c
      { d := some ⟨v, f⟩, flags := own }

end Sys2Proof.Machine
end

