-- ==== Sys2Proof/Machine/Stream.lean ====
section
/-! DEFINITION.  The instructions of the stream: NOP, the prefix, IFENCE, CHARTLD and its commit, CHARTRD, and the
plain and branching binds (01 R25 to R58, R424; 02 R84 to R87). -/

namespace Sys2Proof.Machine

/-! ### The words -/

/-- NOP (R51). -/
def execNop (h : Head) (s : State) : Host.Outcome State Fault Refusal :=
  runOnce s (.nop h) (fun _ => []) (fun _ => []) fun _ p => (p, none)

/-- R26, R27: the prefix fields that an instruction does not use and that are not neutral. -/
def orphanBefore (q : Pfx) (sh : Shape) : Bool :=
  !sh.prefixes || (q.rnd != .inherit && !sh.rnd) || (q.sat != 0 && !sh.sat) || (q.ftz && !sh.ftz) || (q.nox && !sh.nox)

/-- Some CHARTLD of a ply has not completed. -/
def State.chartldBusy (s : State) (h : Nat) : Bool :=
  s.ops.any fun o => o.ply == h && (match o.body with | .chartld .. => true | _ => false)

/-- IFENCE (R58).  Words are fetched at their issue, so nothing fetched earlier is left to discard (log 20); the issuing
fibres' own stores, which their loads observe (R242), have performed before a later fetch. -/
def execIfence (h : Head) (s : State) : Host.Outcome State Fault Refusal :=
  runIssue s (.ifence h) (fun _ => []) fun x _ =>
    if s.chartldBusy x.ply.handle || s.owing x.ply.handle s.nextId x.course.fibres true then x.wait s
    else x.finish s { x.ply with stale := 0 } [] []

/-- R292: eaux of a translation fault at issue. -/
def xEaux (va : Nat) (f : XFault) : Word := BitVec.ofNat 64 (va % 2 ^ 57 + f.sub * 2 ^ 57)

/-- The first address of each page of a range. -/
def pagesOf (va n : Nat) : List Nat :=
  (List.range ((va % 65536 + n + 65535) / 65536)).map fun i => if i = 0 then va else va / 65536 * 65536 + i * 65536

/-- The translation faults of a range of addresses that an engine or CHARTLD will access: one check per page. -/
def State.rangeFaults (s : State) (p : Ply) (va n : Nat) (acc : Access) : List FaultAt :=
  (pagesOf va n).filterMap fun a => match s.translate p.core p.asid a acc with
    | .ok t => if s.isKick p.asid t.ia then some ⟨0x12, xEaux a ⟨0x12, 4, t.ia⟩⟩ else none
    | .error f => some ⟨f.cause, xEaux a f⟩

/-- The range of a CHARTLD (R54). -/
def chartldBytes (blk : Nat) : Nat := if blk = 8 then 3072 else 384

/-- Which sides of a COPYL lie in memory, by its direction: source, destination. -/
def srcInMemory (dir : Nat) : Bool := dir < 2
def dstInMemory (dir : Nat) : Bool := dir % 2 == 0

/-- The ranges of device memory that were checked when an engine operation issued, and that it has not accessed: address,
bytes and access.  One held for a page translates afresh (R303). -/
def OpBody.checked : OpBody → List (Nat × Nat × Access)
  | .chartld va blk _ => [(va, chartldBytes blk, .read)]
  | .accld _ va _ => [(va, 65536, .read)]
  | .accst _ va => [(va, 65536, .write)]
  | .cmap va _ => [(va, 256, .read)]
  | .copyl dst src n dir _ .queued =>
    (if dstInMemory dir then [(dst, n, .write)] else []) ++ if srcInMemory dir then [(src, n, .read)] else []
  | _ => []

/-- The pages of these ranges as a ply translates them: virtual page, intermediate page and kind. -/
def State.pagesFor (s : State) (p : Ply) (b : OpBody) : List (Nat × Nat × Nat) :=
  b.checked.flatMap fun (va, n, acc) => (if n = 0 then [] else pagesOf va n).filterMap fun a =>
    match s.translate p.core p.asid a acc with
    | .ok t => some (a / 65536, t.ia / 65536, t.attr.kind)
    | .error _ => none

/-- A new operation (R36, R67): the state that holds it, and the course counting it on its slot.  It keeps the ASID of its ply
(R284) and the pages that were checked (R302). -/
def Issue.launchOp (x : Issue) (s : State) (p : Ply) (slot : Option Nat) (perFibre : Bool) (fibres : List Nat)
    (dests : List Target) (body : OpBody) : State × Ply :=
  let o : Op := ⟨s.nextId, x.ply.handle, x.course.id, x.addr, x.time, x.head.st.toNat, slot.isSome, perFibre, fibres, dests, body,
    x.ply.asid, s.pagesFor x.ply body⟩
  let p := match slot with
    | none => p
    | some n => { p with courses := updateWhere (·.id == x.course.id)
                          (fun (c : Course) => { c with sb := c.sb ++ [⟨o.id, n, fibres⟩] }) p.courses }
  ({ s with ops := s.ops ++ [o], nextId := s.nextId + 1 }, p)

/-- The checks of an engine operation at issue fill the attribute TLB (R290). -/
def State.fillChecked (s : State) (p : Ply) (b : OpBody) : State :=
  b.checked.foldl (init := s) fun s (va, n, acc) => (if n = 0 then [] else pagesOf va n).foldl (init := s) fun s a =>
    match s.translate p.core p.asid a acc with
    | .ok t => s.tlbFill p.core p.asid t
    | .error _ => s

/-- CHARTLD (R53, R54). -/
def execChartld (h : Head) (a : BitVec 6) (off : BitVec 14) (slot : BitVec 3) (blk : BitVec 4) (s : State) :
    Host.Outcome State Fault Refusal :=
  runIssue s (.chartld h a off slot blk) (fun _ => []) fun x sb =>
    if x.active.isEmpty && sb.isEmpty then x.finish s x.ply [] []
    else
      let va := ((x.uniform (.s a)) + off.signExtend 64).toNat
      let n := chartldBytes blk.toNat
      let chk : Except FaultAt Unit := do
        stage (sb ++ x.checkUniform okCtl (.s a))
        stage (s.rangeFaults x.ply va n .read ++ (if va % 64 = 0 then [] else [⟨0x18, BitVec.ofNat 64 va⟩]))
      match chk with
      | .error e => x.finish s x.ply [] (x.active.map (·, e) ++ x.inactiveFaults sb)
      | .ok _ =>
        let body : OpBody := .chartld va blk.toNat x.ply.chart
        let (s, p) := x.launchOp (s.fillChecked x.ply body) x.ply (some slot.toNat) false x.active [] body
        x.finish s p [] []

/-- A fault that an operation reports is pending for its fibres (R424). -/
def Ply.defer (p : Ply) (cause : Nat) (fibres : List Nat) (eaux : Word) (info : Nat := 0) : Ply :=
  let live := fibres.filter fun f => (p.fibre f).live
  if live.isEmpty then p else { p with deferred := p.deferred ++ [⟨cause, live, eaux, info⟩] }

/-- INFO of a trap record (R362): a page, a sub-code and an access. -/
def infoOf (ia sub acc : Nat) : Nat := bitsOf ia 16 36 + sub % 16 * 2 ^ 36 + acc * 2 ^ 40

def Access.code : Access → Nat
  | .read => 0
  | .write => 1
  | .atomic => 2
  | .fetch => 3

/-- INFO of the first of these addresses whose translation fails with the cause given. -/
def State.failInfo (s : State) (aper asid cause : Nat) (acc : Access) (vas : List Nat) (pages : List (Nat × Nat × Nat) := []) :
    Nat :=
  (vas.findSome? fun va => match s.locate aper asid va acc pages with
    | .error x => if x.cause = cause then some (infoOf x.ia x.sub acc.code) else none
    | .ok _ => none).getD 0

/-- An operation is complete. -/
def State.dropOp (s : State) (id : Nat) : State := { s with ops := s.ops.filter (·.id != id) }

def State.op (s : State) (id : Nat) : Option Op := s.ops.find? (·.id == id)

/-- The granules of a range of virtual addresses read by a party at a die under an ASID: values, or the first cause
(0x15, 0x16, 0x17, or a translation's). -/
def State.readGranules (s : State) (aper asid va : Nat) : Nat → Except Nat (List Word)
  | 0 => .ok []
  | n + 1 => do
    let (a, ia) ← match s.locate aper asid va .read with
      | .ok x => .ok x
      | .error f => .error f.cause
    let w ← match s.deliver a ia with
      | .valid w => .ok w
      | .poison => .error 0x17
      | .badCode => .error 0x16
      | .badTag => .error 0x15
    let r ← s.readGranules aper asid (va + 8) n
    return w :: r

/-- The granules of a range as a ply's own reads find them, every line read being noted (R343), with every cause found: those
of the translation, then 0x15, 0x16 and 0x17. -/
def State.readFor (s : State) (p : Ply) (va n : Nat) (pages : List (Nat × Nat × Nat)) : State × List Nat × List Word :=
  (List.range n).foldl (init := (s, [], [])) fun (s, bad, ws) k =>
    match s.locate (coreAper p.core) p.asid (va + 8 * k) .read pages with
    | .error f => (s, bad ++ [f.cause], ws)
    | .ok (a, ia) =>
      let g := s.granuleFor p a ia
      let d := judged g ia
      (s.noteRead p a ia, bad ++ judgedCauses [d] true, ws ++ [g.1.data])

/-- The bytes of granules. -/
def granuleBytes (l : List Word) : List Byte := l.flatMap fun w => bytesLE 8 w.toNat

/-- Twelve-byte entries of a chart image (R41). -/
def imageEntries : Nat → List Byte → List ChartEntry
  | 0, _ => []
  | n + 1, b => BitVec.ofNat 96 (ofBytesLE (b.take 12)) :: imageEntries n (b.drop 12)

/-- Entries placed into a slot from an index upwards. -/
def putEntries (m : SMap ChartEntry) (i : Nat) : List ChartEntry → SMap ChartEntry
  | [] => m
  | e :: r => putEntries (SMap.set 0 m i e) (i + 1) r

/-- CHARTLD_COMMIT (R54 to R56): the asynchronous part of a CHARTLD.  CHARTLDs of one ply commit in issue order.
Its reads are loads of the lowest active fibre: they follow every access that this fibre has issued before (log 10), and its
later accesses follow them as R242 to R245 say (`State.chartldFirst`); of several failures the one of lowest cause is reported (R10). -/
def execChartldCommit (op : Nat) (s : State) : Host.Outcome State Fault Refusal :=
  match s.op op with
  | none => .next s
  | some o =>
    match o.body, s.issuer o with
    | .chartld va blk slot, some p =>
      let earlier := s.ops.any fun q => q.ply == o.ply && q.id < o.id
        && (match q.body with | .chartld .. => true | _ => false)
      if earlier || s.owing o.ply o.id (o.left.take 1) true then .next s
      else
        let n := if blk = 8 then 256 else 32
        let first := if blk = 8 then 0 else 32 * blk
        let (s, bad, ws) := s.readFor p va (12 * n / 8) o.pages
        match minBy id bad with
        | some cause =>
          let info := s.failInfo (coreAper p.core) p.asid cause .read ((List.range (12 * n / 8)).map fun k => va + 8 * k) o.pages
          .next ((s.modPly o.ply (·.defer cause o.left (BitVec.ofNat 64 (o.addr % 2 ^ 57)) info)).dropOp op)
        | none =>
          let es := imageEntries n (granuleBytes ws)
          match es.zipIdx.find? fun e => !entryLoads e.1 with
          | some (_, i) =>
            let ea := o.addr / 4 % 2 ^ 55 + (first + i) * 2 ^ 55
            .next ((s.modPly o.ply (·.defer 0x04 o.left (BitVec.ofNat 64 ea))).dropOp op)
          | none =>
            let core := s.core p.core
            let old := SMap.get none core.charts slot
            let new : ChartSlot := match old with
              | some c => { c with entries := putEntries c.entries first es }
              | none => ⟨(0, p.chartBase.toNat), p.enc, putEntries [] first es⟩
            let mask : BitVec 8 := if blk = 8 then 0xFF else 1 <<< blk
            let s := s.putCore { core with charts := SMap.set none core.charts slot (some new) }
            let s := { s with plies := s.plies.map fun (q : Ply) =>
              if q.core == p.core && q.chart == slot && q.residence == Residence.resident then { q with stale := q.stale ||| mask } else q }
            .next (s.dropOp op)
    | _, _ => .next s

/-- CHARTRD (R57). -/
def execChartrd (h : Head) (d : BitVec 6) (a : Src) (off : BitVec 14) (s : State) : Host.Outcome State Fault Refusal :=
  runOnce s (.chartrd h d a off) (fun _ => []) (fun x => x.checkUniform okCtl a) fun x p =>
    let ix : Int := (x.uniform a).toInt + off.toInt
    let e := if 0 ≤ ix ∧ ix ≤ 255 then ChartSlot.entry (s.chartOf x.ply) ix.toNat else 0
    let p := x.emit (x.last + 4) (.s (d.toNat + 1)) ⟨(chartHoles e).setWidth 64, .raw⟩ p
    (p, some ⟨e.extractLsb' 0 64, .raw⟩)

/-! ### Binds -/

/-- The run of a course leaves its slot (R72); a packed run separates, and the runs of its other members stay active
(R76, log 71). -/
def RunSlot.without (gone : Nat × Nat → Bool) (r : RunSlot) : Option RunSlot :=
  let l := r.members.filter (!gone ·)
  if l.isEmpty then none else some { r with members := l, packed := r.packed && l.length == r.members.length }

def State.dropRun (s : State) (p : Ply) (c : Nat) : State :=
  let k := s.core p.core
  s.putCore { k with runs := k.runs.filterMap (RunSlot.without (· == (p.handle, c))) }

/-- R424: the pending faults that concern fibres of a course, one for each fibre in the order reported, and what stays
pending. -/
def Ply.dueDeferred (p : Ply) (fs : List Nat) : List (Nat × FaultAt) × List Deferred :=
  p.deferred.foldl (init := ([], [])) fun (got, keep) d =>
    let hit := d.fibres.filter fun f => fs.contains f && !(got.any (·.1 == f))
    let rest := d.fibres.filter (!hit.contains ·)
    (got ++ hit.map (·, ⟨d.cause, d.eaux⟩), if rest.isEmpty then keep else keep ++ [{ d with fibres := rest }])

/-- The fibres keep where their first pending fault arose (R362). -/
def Ply.noteInfo (p : Ply) (fs : List Nat) : Ply :=
  p.modFibres fs fun f x => match p.deferred.find? (·.fibres.contains f) with
    | some d => { x with info := d.info }
    | none => x

/-- The end of a run at a bind (R66, R84, R85): deferred faults are raised, the other fibres go on at `next`, each
course held by the WAIT set. -/
def Issue.endRun (x : Issue) (s : State) (p : Ply) (wait : BitVec 8) (next : Nat → Nat) (faults : List (Nat × FaultAt)) :
    State :=
  let go := x.course.fibres.filter fun f => !(faults.any (·.1 == f))
  let (due, keep) := p.dueDeferred go
  let p := { p.noteInfo go with deferred := keep }
  let faults := faults ++ due
  let go := go.filter fun f => !(due.any (·.1 == f))
  let s := x.holdPipe (s.dropRun p x.course.id)
  let p := { p with eligibleSince := x.time }
  let c := (p.course x.course.id).getD x.course
  if go.isEmpty then (s.raise p x.course.id x.course.run faults)
  else
    let parts (l : List Course) : List Course := l.map fun (k : Course) =>
      if go.contains (k.fibres.headD 64) && k.run.pos == 0 then
        { k with phase := if wait = 0 then .ready else .waitSet wait x.time
                 nextIssue := x.after, chain := [], chainLast := 0, hold := 0 }
      else k
    -- the faulting fibres leave first, so that the parked course keeps the run state of the bind
    let s := s.raise p x.course.id x.course.run faults
    match s.ply p.handle with
    | none => s
    | some p =>
      let p := if p.isHub && !faults.isEmpty then p
        else p.splitCourse { c with fibres := go, sb := restrictSb go c.sb } (go.map fun f => (f, next f)) s.nextId
      let p := if p.isHub && !faults.isEmpty then p else { p with courses := parts p.courses }
      { s.putPly p with nextId := s.nextId + go.length }

/-- BIND (R84). -/
def execBind (h : Head) (wait : BitVec 8) (s : State) : Host.Outcome State Fault Refusal :=
  runIssue s (.bind h wait) (fun _ => []) fun x _ => x.endRun s x.ply wait (fun _ => x.addr + x.len) []

/-- A target of a branching bind (R85). -/
def branchTarget (x : Issue) (ofs : BitVec 24) : Nat := (BitVec.ofNat 64 x.addr + 4 * ofs.signExtend 64).toNat

/-- R35: the target is misaligned, judged at decode. -/
def misaligned (x : Issue) (ofs : BitVec 24) : List FaultAt := if branchTarget x ofs % 8 = 0 then [] else [⟨0x08, 0⟩]

/-- BIND_BR (R85). -/
def execBindBr (h : Head) (wait : BitVec 8) (ofs : BitVec 24) (s : State) : Host.Outcome State Fault Refusal :=
  runIssue s (.bindBr h wait ofs) (fun x => misaligned x ofs) fun x sb =>
    match sb with
    | f :: _ => x.endRun s x.ply wait (fun _ => 0) (x.course.fibres.map (·, f))
    | [] =>
      let t := branchTarget x ofs
      x.endRun s x.ply wait (fun f => if x.active.contains f then t else x.addr + 8) []

/-- BIND_BC (R87): the count is written once for the course. -/
def execBindBc (h : Head) (n : BitVec 6) (wait : BitVec 8) (ofs : BitVec 24) (s : State) : Host.Outcome State Fault Refusal :=
  runIssue s (.bindBc h n wait ofs) (fun x => misaligned x ofs) fun x sb =>
    match lowestFault (sb ++ x.check 0 (· == .i64) (.s n)) with
    | some f => x.endRun s x.ply wait (fun _ => 0) (x.course.fibres.map (·, f))
    | none =>
      let (due, _) := x.ply.dueDeferred x.course.fibres
      if due.length = x.course.fibres.length then x.endRun s x.ply wait (fun _ => 0) []
      else
        let k := (x.reg 0 (.s n)).val - 1
        let p := x.ply.setS n.toNat ⟨k, .i64⟩
        let t := if k = 0 then x.addr + 8 else branchTarget x ofs
        x.endRun s p wait (fun _ => t) []

/-- BIND_CALL (R85). -/
def execBindCall (h : Head) (d : Dst) (wait : BitVec 8) (ofs : BitVec 24) (s : State) : Host.Outcome State Fault Refusal :=
  runIssue s (.bindCall h d wait ofs) (fun x => misaligned x ofs) fun x sb =>
    match sb with
    | f :: _ => x.endRun s x.ply wait (fun _ => 0) (x.course.fibres.map (·, f))
    | [] =>
      let t := branchTarget x ofs
      let ft : Reg := ⟨BitVec.ofNat 64 (x.addr + 8), .i64⟩
      let (due, _) := x.ply.dueDeferred x.course.fibres
      let go := x.active.filter fun f => !(due.any (·.1 == f))
      let p := go.foldl (fun p f => p.setDst f d ft) x.ply
      x.endRun s p wait (fun f => if x.active.contains f then t else x.addr + 8) []

/-- The shared form of BIND_RET and BIND_JMP (R85, R86): targets from a register, faults in the active fibres. -/
def Issue.jump (x : Issue) (s : State) (sb : List FaultAt) (r : Dst) (wait : BitVec 8) (ofs : BitVec 24) : State :=
  let tgt (f : Nat) : Nat := ((x.reg f (dstSrc r)).val + 4 * ofs.signExtend 64).toNat
  let bad (f : Nat) : Option (Nat × FaultAt) :=
    let c := x.check f okCtl (dstSrc r)
    let m : List FaultAt := if tgt f % 8 = 0 then [] else [⟨0x08, 0⟩]
    (lowestFault (sb ++ c ++ m)).map (f, ·)
  let faults := x.active.filterMap bad ++ x.inactiveFaults sb
  x.endRun s x.ply wait (fun f => if x.active.contains f then tgt f else x.addr + 8) faults

/-- BIND_RET (R85, R86). -/
def execBindRet (h : Head) (r : Dst) (wait : BitVec 8) (s : State) : Host.Outcome State Fault Refusal :=
  runIssue s (.bindRet h r wait) (fun _ => []) fun x sb => x.jump s sb r wait 0

/-- BIND_JMP (R85, R86). -/
def execBindJmp (h : Head) (r : Dst) (wait : BitVec 8) (ofs : BitVec 24) (s : State) : Host.Outcome State Fault Refusal :=
  runIssue s (.bindJmp h r wait ofs) (fun _ => []) fun x sb => x.jump s sb r wait ofs

end Sys2Proof.Machine
end

