-- ==== Sys2Proof/Machine/Fibres.lean ====
section
/-! DEFINITION.  Fibres, plies and run slots: what may issue, the instructions that act on fibres and courses, the end
of a ply (02 R70 to R98), and the events of the scheduler (02 R68, R78). -/

namespace Sys2Proof.Machine

/-! ### What may issue -/

/-- An operation whose course stands blocked at it (R72); nothing else waits for it. -/
def Op.blocking (o : Op) : Bool :=
  match o.body with
  | .ldsfe .. | .stsfe .. | .ring .. | .barwait .. => true
  | .mem m _ => m.cls == .waitv || m.cls == .ncqw
  | _ => false

/-- Operations of a ply that have not completed (R92). -/
def State.plyBusy (s : State) (h : Nat) : Bool := s.ops.any fun o => o.ply == h && !o.blocking

/-- R246: an access that a token covers has performed. -/
def State.itemDone (s : State) (i : Item) : Bool :=
  match s.op i.op with
  | none => !(s.nets.any (·.post == i.op))
  | some o => o.perFibre && (!o.left.contains i.fibre || match o.body with
      | .mem m _ => m.cls != .redms && m.items.any fun j => j.fibre == i.fibre && j.state == .done
      | _ => false)

/-- R258: the token of a fibre is empty or everything it covers has performed. -/
def State.tokenDone (s : State) (p : Ply) (f k : Nat) : Bool :=
  (SMap.get ⟨0, 0, []⟩ (p.fibre f).tokens k).covered.all s.itemDone

/-- The fibres for which the instruction at a course's address is active. -/
def State.activeAt (s : State) (p : Ply) (c : Course) : List Nat :=
  let on (i : Instr) : List Nat := c.fibres.filter fun f => guardTrue (p.fibre f).pred (guardOf (headOfInstr i) c.run.pfx)
  match s.look p c.run.pc with
  | .found (.chartWord ch st ix f) _ => match s.expand p ch st ix f with
    | .ok i => on i
    | .error _ => c.fibres
  | .found i _ => on i
  | _ => c.fibres

/-- R92 steps 1 and 3: an EXIT of the course need not wait for a handler or for courses that its deferred faults
parked. -/
def Ply.exitFree (p : Ply) (c : Course) (active : List Nat) : Bool :=
  (!p.h || active.any fun f => (p.fibre f).handling)
    && !(c.retry && p.courses.any fun k => k.retry && (match k.phase with | .parked .. => true | _ => false))

/-- R92 step 2: the course whose EXIT has stopped the ply. -/
def State.stopper (s : State) (p : Ply) : Option Nat :=
  match p.exiting with
  | none => none
  | some c =>
    match p.course c with
    | none => none
    | some k => if p.exitFree k (s.activeAt p k) then some c else none

/-- A course that could issue now (R36, R72, R78, R84).  A ply that stops, or whose save was requested 2,000 cycles ago, only
ends the chains that are open (R367, R375). -/
def State.eligible (s : State) (p : Ply) (c : Course) : Bool :=
  p.residence == .resident
    && (match s.stopper p with | none => true | some k => k == c.id)
    && (!c.chain.isEmpty || !p.stops && (match p.saveAsked with | some (t, _) => s.clock < t + 2000 | none => true))
    && match c.phase with
      | .ready => true
      | .waitSet mask _ => (membersOf 8 mask.toNat).all fun n => s.sbCount c n == 0
      | .waiting (some k) => (s.activeAt p c).all fun f => s.tokenDone p f k
      | .waiting none => p.exitFree c (s.activeAt p c)
      | _ => false

/-- A course that stands in an active run. -/
def State.inRun (s : State) (p : Ply) (c : Nat) : Bool :=
  (s.core p.core).runs.any fun r => r.members.contains (p.handle, c)

/-! ### The end of a ply (R92, R62) -/

/-- The operation's requests leave the queues in which they stand. -/
def Carve.withdraw (c : Carve) (gone : Nat → Bool) : Carve :=
  { c with
    waits := c.waits.filter fun w => !gone w.op
    rings := c.rings.map fun r => { r with acquirers := r.acquirers.filter (!gone ·), takers := r.takers.filter (!gone ·) } }

/-- Operations cease to exist, with every place they hold in a queue.  A request on its way is dropped where it arrives (R383). -/
def State.withdraw (s : State) (gone : Nat → Bool) : State :=
  { s with
    ops := s.ops.filter fun o => !gone o.id
    skeins := s.skeins.map fun k => { k with carve := k.carve.withdraw gone }
    waiters := s.waiters.filter fun w => !gone w.op
    msgs := s.msgs.filter fun m => m.op == 0 || !gone m.op || (!m.arrived && m.held.isNone)
    pairs := s.pairs.map fun q => { q with allocs := q.allocs.filter (!gone ·) } }

/-- A ply leaves its core: its run slots, its latch, and its kernel's chart slot when no other ply needs it
(R40, R191). -/
def State.vacate (s : State) (p : Ply) : State :=
  let k := s.core p.core
  let others := s.plies.any fun q => q.handle != p.handle && q.core == p.core && q.chart == p.chart && q.residence == .resident
  s.putCore { k with
    runs := k.runs.filterMap (RunSlot.without (·.1 == p.handle))
    rotation := k.rotation.filter (· != p.handle)
    latches := k.latches.filter fun l => match l.2 with | some x => x.ply != p.handle | none => true
    charts := if others then k.charts else SMap.set none k.charts p.chart none }

/-- A skein has ended: its launch counts it, its pair's blocks are given back when both skeins have ended (R92, R195). -/
def State.endSkein (s : State) (k : Skein) : State :=
  let s := { s with skeins := s.skeins.filter (·.handle != k.handle) }
  let gone (h : Nat) : Bool := !(s.skeins.any (·.handle == h))
  { s with
    launches := updateWhere (·.id == k.launch) (fun l => { l with ended := l.ended + 1 }) s.launches
    pairs := s.pairs.map fun q => { q with binds := q.binds.filter fun b => !(gone b.leader && gone b.follower) } }

/-- The ply ends (R92 steps 4 to 6). -/
def State.endPly (s : State) (h : Nat) : State :=
  match s.ply h with
  | none => s
  | some p =>
    let s := { s with plies := s.plies.filter (·.handle != h) }.vacate p
    let gone (id : Nat) : Bool := s.ops.any fun o => o.id == id && o.ply == h
    let s := s.withdraw gone
    let s := { s with
      skeins := updateWhere (·.handle == p.skein) (fun k => { k with ended := k.ended + 1 }) s.skeins }
    match s.skeins.find? (·.handle == p.skein) with
    | some k => if k.plies ≤ k.ended then s.endSkein k else s
    | none => s

/-! ### Upkeep between steps -/

/-- R348: the gauge counts while the ply is resident and has a course that is not parked. -/
def Ply.runGauge (p : Ply) (now : Nat) : Ply :=
  match p.gauge with
  | none => p
  | some g =>
    let on := p.residence == .resident && p.courses.any fun c => match c.phase with | .parked .. => false | _ => true
    match g.since, on with
    | none, true => { p with gauge := some { g with since := some now } }
    | some t, false => { p with gauge := some { g with left := g.left - (now - t), since := none } }
    | _, _ => p

/-- R348: after an overrun, its course is still parked or its handler has not returned. -/
def Ply.overrunOpen (p : Ply) : Bool :=
  (p.courses.any fun c => match c.phase with | .parked 0x30 .. => true | _ => false)
    || match p.handler with | some v => v.cause == 0x30 | none => false

/-- Plies without live fibres end when their operations are complete (R91); a run leaves its slot when its course can no
longer issue (R72, R76), at an RCV too: R72 does not name the RCV, but a course that waits there issues nothing until its
release, which may be that of another course's run (DESIGN CHOICE, log 61); gauges and waiting times are kept. -/
def State.tidy (s : State) : State :=
  let dead := s.plies.filter fun p => !p.isHub && p.residence == .resident && p.liveFibres.isEmpty && !s.plyBusy p.handle
  let s := dead.foldl (fun s p => s.endPly p.handle) s
  let gone (m : Nat × Nat) : Bool := match s.ply m.1 with
    | none => true
    | some p => p.residence != .resident || (match p.course m.2 with | some c => c.phase != .ready | none => true)
  { s with
    cur := none
    cores := s.cores.map fun k => { k with runs := k.runs.filterMap (RunSlot.without gone) }
    plies := s.plies.map fun p =>
      let p := p.runGauge s.clock
      let p := if p.overrunOpen then p else { p with overrun := none }
      if p.isHub || p.courses.any (s.eligible p) then p else { p with eligibleSince := s.clock } }

/-! ### Instructions -/

/-- RCV (R88, R70). -/
def execRcv (h : Head) (s : State) : Host.Outcome State Fault Refusal :=
  runIssue s (.rcv h) (fun _ => []) fun x sb =>
    match lowestFault sb with
    | some e => x.refuse s sb e
    | none =>
      if x.active.isEmpty || x.hub then x.finish s x.ply [] []
      else
        let c := { x.course with phase := .rcv, chain := [], chainLast := 0, hold := 0, nextIssue := Nat.max x.after x.course.hold }
        let p := (x.ply.putCourse c).releaseRcv (x.last + 1)
        (x.holdPipe s).putPly { p with eligibleSince := x.time }

/-- A hub thread ends (R82, R321).  R82 speaks of the thread only; a hub core that executes FEND or EXIT at user level without
one halts (DESIGN CHOICE, log 87). -/
def Issue.endThread (x : Issue) (s : State) : State :=
  if s.plyBusy x.ply.handle then x.wait s
  else
    match x.ply.hub with
    | none => s
    | some h =>
      if h.thread.isSome then (x.holdPipe s).leaveThread x.ply .finished
      else (x.finish s { x.ply with hub := some { h with halted := true } } [] [])

/-- FEND (R91, R82). -/
def execFend (h : Head) (s : State) : Host.Outcome State Fault Refusal :=
  runIssue s (.fend h) (fun _ => []) fun x sb =>
    match lowestFault sb with
    | some e => x.refuse s sb e
    | none =>
      if x.active.isEmpty then x.finish s x.ply [] []
      else if x.hub then x.endThread s
      else x.finish s (x.ply.endFibres x.active (x.last + 1)) [] []

/-- R92 step 3: every deferred fault of the ply is raised; the other fibres of the issuing course stay at the EXIT. -/
def Issue.raiseDeferred (x : Issue) (s : State) : State :=
  let p := { x.ply with exiting := none }
  let (p, n) := p.courses.foldl (init := (p, s.nextId)) fun (p, n) c =>
    let (due, keep) := p.dueDeferred c.fibres
    if due.isEmpty then (p, n)
    else
      let own := c.id == x.course.id
      let q := ({ p.noteInfo c.fibres with deferred := keep }).parkGroups c (if own then x.course.run else c.run) n due
      ({ q with courses := q.courses.map fun (k : Course) => if n ≤ k.id then { k with retry := true } else k },
        n + (causesOf due).length)
  let p := match p.course x.course.id with
    | none => p
    | some c => p.putCourse { c with phase := .waiting none, retry := true, chain := [], chainLast := 0, hold := 0, nextIssue := x.last + 1 }
  let s := x.holdPipe (s.dropRun x.ply x.course.id)
  { s.putPly p with nextId := n }

/-- EXIT on a hub core (R82): it waits for the thread's operations, raises at itself the deferred faults that are then
pending (R424, R55, R425), and ends the thread when none remains. -/
def Issue.exitHub (x : Issue) (s : State) : State :=
  if s.plyBusy x.ply.handle then x.wait s
  else
    let (due, keep) := x.ply.dueDeferred x.course.fibres
    if due.isEmpty then x.endThread s
    else (x.holdPipe s).raise { x.ply.noteInfo x.course.fibres with deferred := keep } x.course.id x.course.run due

/-- EXIT (R92, R82). -/
def execExit (h : Head) (s : State) : Host.Outcome State Fault Refusal :=
  runIssue s (.exit h) (fun _ => []) fun x sb =>
    match lowestFault sb with
    | some e => x.refuse s sb e
    | none =>
      if x.active.isEmpty then x.finish s x.ply [] []
      else if x.hub then x.exitHub s
      else if !x.ply.exitFree x.course x.active then
        let c := { x.course with phase := .waiting none, chain := [], chainLast := 0, hold := 0, nextIssue := x.last + 1 }
        ((x.holdPipe s).dropRun x.ply x.course.id).putPly { x.ply.putCourse c with exiting := some x.course.id }
      else if s.plyBusy x.ply.handle then ({ x with ply := { x.ply with exiting := some x.course.id } } : Issue).wait s
      else if x.ply.deferred.any (fun d => d.fibres.any fun f => (x.ply.fibre f).live) then x.raiseDeferred s
      else ((x.holdPipe s).putPly x.ply).endPly x.ply.handle

/-- YIELD (R93, R82). -/
def execYield (h : Head) (s : State) : Host.Outcome State Fault Refusal :=
  runIssue s (.yield h) (fun _ => []) fun x sb =>
    match lowestFault sb with
    | some e => x.refuse s sb e
    | none =>
      let t := x.finish s x.ply [] []
      if x.active.isEmpty || x.hub then t
      else
        let t := t.dropRun x.ply x.course.id
        let k := t.core x.ply.core
        t.putCore { k with rotation := k.rotation.filter (· != x.ply.handle) ++ [x.ply.handle] }

/-- A register of a fibre will still be written (R90). -/
def State.writePending (s : State) (p : Ply) (fs : List Nat) : Bool :=
  let hit (t : Target) : Bool := match t with
    | .v f _ | .p f _ | .flags f => fs.contains f
    | _ => false
  p.flight.any (fun l => hit l.target) || s.ops.any fun o => o.ply == p.handle && o.dests.any hit

/-- The address that a word names by an offset in words. -/
def branchAt (x : Issue) (ofs : Word) : Nat := (BitVec.ofNat 64 x.addr + 4 * ofs).toNat

/-- R89: the target is misaligned, judged at decode. -/
def forkTarget (x : Issue) (off : BitVec 14) : List FaultAt :=
  if branchAt x (off.signExtend 64) % 8 = 0 then [] else [⟨0x08, 0⟩]

/-- FORK (R90, R82). -/
def execFork (h : Head) (d : Dst) (a : Src) (off : BitVec 14) (s : State) : Host.Outcome State Fault Refusal :=
  let target (x : Issue) : Nat := branchAt x (off.signExtend 64)
  runIssue s (.fork h d a off) (fun x => forkTarget x off) fun x sb =>
    match lowestFault (sb ++ if x.active.isEmpty then [] else x.checkUniform okCtl a) with
    | some e => x.finish s x.ply [] (x.course.fibres.map (·, e))
    | none =>
      if x.active.isEmpty then x.finish s x.ply [] []
      else if x.hub then x.finishOnce s x.ply (some ⟨0, .i64⟩)
      else
        let go := (membersOf x.ply.width (x.uniform a).toNat).filter fun f => !(x.ply.fibre f).live
        if s.writePending x.ply go then x.wait s
        else
          let p := x.ply.modFibres go fun _ f =>
            { f with live := true, handling := false, pred := 1, flags := 0, tokens := [], temps := [] }
          let age := p.courses.foldl (fun a c => Nat.max a (c.age + 1)) x.time
          let c : Course := { Course.fresh s.nextId age go (target x) with nextIssue := x.last + 1 }
          let p := if go.isEmpty then p else { p with courses := p.courses ++ [c] }
          x.finishOnce { s with nextId := s.nextId + 1 } p (some ⟨BitVec.ofNat 64 (maskOf go), .i64⟩)

/-- ELECT (R94). -/
def execElect (h : Head) (d : Dst) (pn : BitVec 4) (s : State) : Host.Outcome State Fault Refusal :=
  runLane s (.elect h d pn) fun x sb f => do
    stage sb
    let e := x.active.headD 0
    return { d := some ⟨BitVec.ofNat 64 e, .i64⟩, pred := some (f == e) }

/-- R95: the result of a vote over the active fibres. -/
def voteValue (mode : BitVec 2) (l : List (Nat × Bool)) : Nat :=
  match mode.toNat with
  | 0 => b2n (l.any (·.2))
  | 1 => b2n (l.all (·.2))
  | 2 => maskOf ((l.filter (·.2)).map (·.1))
  | _ => b2n (l.all (·.2) || l.all (!·.2))

/-- VOTE (R95). -/
def execVote (h : Head) (d : Dst) (pk : BitVec 4) (mode : BitVec 2) (pn : BitVec 4) (s : State) :
    Host.Outcome State Fault Refusal :=
  runLane s (.vote h d pk mode pn) fun x sb _ => do
    stage sb
    let v := voteValue mode (x.active.map fun f => (f, x.pred f pk.toNat))
    return { d := some ⟨BitVec.ofNat 64 v, .i64⟩, pred := some (v == 1) }

/-- PHASE (R96, R347, R348).  On a hub core it acts on the gauge of the launch that the thread belongs to, and has no
effect where it belongs to none (R82). -/
def execPhase (h : Head) (n : BitVec 14) (s : State) : Host.Outcome State Fault Refusal :=
  runOnce s (.phase h n) (fun _ => []) (fun _ => []) fun x p =>
    match s.launches.find? (·.id == x.ply.launch) with
    | none => (if x.hub then p else { p with gauge := none }, none)
    | some l =>
      let e := (l.gauge.getD n.toNat 0).toNat
      let left := bitsOf e 0 32 + bitsOf e 32 32
      let g : Option Gauge := if n = 0 ∨ left = 0 then none else some ⟨n.toNat, left, some x.time⟩
      ({ p with gauge := g }, none)

/-- SYSC (R98, R82). -/
def execSysc (h : Head) (n : BitVec 14) (s : State) : Host.Outcome State Fault Refusal :=
  runIssue s (.sysc h n) (fun _ => []) fun x sb =>
    x.finish s x.ply [] (x.active.map (·, (lowestFault sb).getD ⟨0x38, n.setWidth 64⟩) ++ x.inactiveFaults sb)

/-- TRAP (R365). -/
def execTrap (h : Head) (n : BitVec 14) (s : State) : Host.Outcome State Fault Refusal :=
  runIssue s (.trap h n) (fun _ => []) fun x sb =>
    x.finish s x.ply [] (x.active.map (·, (lowestFault sb).getD ⟨0x39, n.setWidth 64⟩) ++ x.inactiveFaults sb)

/-! ### The scheduler (R68, R76, R78) -/

/-- Eligible courses of a ply that are in no run. -/
def State.offers (s : State) (p : Ply) : List Course :=
  p.courses.filter fun c => s.eligible p c && !s.inRun p c.id

/-- The resident plies of a partition of a core. -/
def State.residents (s : State) (core part : Nat) : List Ply :=
  s.plies.filter fun p => p.core == core && p.part == part && p.residence == .resident && !p.isHub

/-- R76: the courses, one of each ply, that join a run as it starts: narrow plies of one kernel, which is that of their
chart slot (R40), in different lane groups, whose runs start at one address.  Of several plies of one lane group R76 does not
say which joins: they are taken in the order of `l`, that of the state's list of plies, oldest first (DESIGN CHOICE, log 71). -/
def State.packed (s : State) (p : Ply) (c : Course) (l : List Ply) : List (Nat × Nat) :=
  let narrow (q : Ply) : Bool := q.width == 8 || q.width == 16
  if !narrow p || c.run != Run.start c.run.pc then [(p.handle, c.id)]
  else
    (l.foldl (init := ([(p.handle, c.id)], p.lanes)) fun (ms, used) q =>
      if q.handle == p.handle || q.chart != p.chart || q.enc != p.enc || !narrow q || q.lanes.any used.contains then (ms, used)
      else match oldestCourse (s.offers q) with
        | some k => if k.run == c.run then (ms ++ [(q.handle, k.id)], used ++ q.lanes) else (ms, used)
        | none => (ms, used)).1

/-- Sets the run of a ply's oldest course into a free run slot. -/
def State.fillSlot (s : State) (core part : Nat) (p : Ply) (c : Course) : State :=
  let ms := s.packed p c (s.residents core part)
  let k := s.core core
  let s := s.putCore { k with
    runs := k.runs ++ [⟨part, s.clock, decide (1 < ms.length), ms⟩]
    rotation := k.rotation.filter (· != p.handle) ++ [p.handle] }
  ms.foldl (init := s) fun s m => s.modPly m.1 fun q =>
    { q with courses := updateWhere (·.id == m.2) (fun (c : Course) => { c with phase := .ready }) q.courses }

/-- A run slot of the partition is free, and these plies offer a course. -/
def State.candidates (s : State) (core part : Nat) : List Ply :=
  if 2 ≤ ((s.core core).runs.filter (·.part == part)).length then []
  else (s.residents core part).filter fun p => !(s.offers p).isEmpty

/-- Plies that have been eligible for 4,096 cycles without issuing. -/
def State.starved (s : State) (l : List Ply) : Option Ply :=
  minBy (·.eligibleSince) (l.filter fun p => 4096 ≤ s.clock - p.eligibleSince)

/-- R78: the choice among plies: highest level, then the next in the level's rotation, which is read as the one chosen
longest ago, those never chosen first (DESIGN CHOICE, log 62). -/
def State.chosen (s : State) (core : Nat) (l : List Ply) : Option Ply :=
  let top := l.foldl (fun a p => Nat.max a p.level) 0
  let r := (s.core core).rotation
  minBy (fun p => match r.findIdx? (· == p.handle) with | some i => i + 1 | none => 0) (l.filter (·.level == top))

/-- The run slot is filled with a run of the ply given. -/
def State.fill (s : State) (core part : Nat) (p : Option Ply) : State :=
  match p with
  | none => s
  | some p => match oldestCourse (s.offers p) with
    | none => s
    | some c => s.fillSlot core part p c

/-- RUN_SLOT_FILL (R78). -/
def execRunSlotFill (core : Nat) (part : Nat) (s : State) : Host.Outcome State Fault Refusal :=
  let l := s.candidates core part
  .next (s.fill core part ((s.starved l).or (s.chosen core l)))

/-- STARVATION_PROMOTE (R78). -/
def execStarvationPromote (core : Nat) (part : Nat) (s : State) : Host.Outcome State Fault Refusal :=
  .next (s.fill core part (s.starved (s.candidates core part)))

/-- The operations that a WAIT set names and that a course still counts (R36, R67). -/
def State.awaited (s : State) (c : Course) (mask : BitVec 8) : List SbRef :=
  c.sb.filter fun r => mask.getLsbD r.slot && s.refPending r

/-- R68: the fibre has a completion for every operation that the WAIT set names. -/
def State.completed (s : State) (refs : List SbRef) (f : Nat) : Bool :=
  refs.all fun r => match s.op r.op with
    | none => true
    | some o => o.perFibre && r.own.contains f && !o.left.contains f

/-- WAIT_SET_LATE_SPLIT (R68). -/
def execWaitSetLateSplit (ply : Nat) (course : Nat) (s : State) : Host.Outcome State Fault Refusal :=
  match s.ply ply with
  | none => .next s
  | some p =>
    match p.course course with
    | none => .next s
    | some c =>
      match c.phase with
      | .waitSet mask since =>
        let refs := s.awaited c mask
        let early := c.fibres.filter (s.completed refs)
        let late := c.fibres.filter fun f => !early.contains f
        if s.clock < since + 32 ∨ early.isEmpty ∨ late.isEmpty then .next s
        else
          let p := p.putCourse { c.restrict early with phase := .ready }
          let p := { p with courses := p.courses ++ [{ c.restrict late with id := s.nextId }] }
          .next { s.putPly p with nextId := s.nextId + 1 }
      | _ => .next s

end Sys2Proof.Machine
end

