-- ==== Sys2Proof/Machine/Queues.lean ====
section
/-! DEFINITION.  Enclave memory as the units of the hub die see it; launch queues and their blocks (12 R328 to R331,
R335); the kick page (R328, R329); the end of a speculation (R342 to R344). -/

namespace Sys2Proof.Machine

/-! ### Memory of an enclave, for the units of the hub die -/

def State.partition (s : State) (pkg part : Nat) : Option Partition :=
  if part < 8 then s.partitions.find? (·.id == pkg * 8 + part) else none

/-- Dies whose trees such a unit may walk: the partition's, then the hub die (log 25). -/
def State.unitDies (s : State) (pkg part : Nat) : List Nat :=
  (match s.partition pkg part with | some p => p.dies | none => []).map (pkg * 8 + ·) ++ [pkg * 8 + 6]

/-- A unit of the hub die uses the tree of a die of its package: the request then goes from the hub die, and its answer back,
over links that are open (R384, R385). -/
def State.locateFrom (s : State) (d asid va : Nat) (acc : Access) : Except XFault (Nat × Nat) :=
  match s.locate d asid va acc with
  | .error x => .error x
  | .ok (a, ia) => if s.reach asid (d / 8 * 8 + 6) (a / 2 ^ 38) then .ok (a, ia) else .error ⟨0x14, 1, ia⟩

/-- The first outcome that is not a fault. -/
def firstOk {α β : Type} (e : α) : List (Except α β) → Except α β
  | [] => .error e
  | .ok b :: _ => .ok b
  | .error _ :: r => firstOk e r

/-- A virtual address of an ASID as a unit reaches it: home address and IA. -/
def State.unitLocate (s : State) (dies : List Nat) (asid va : Nat) (acc : Access) : Except XFault (Nat × Nat) :=
  match s.toIa (aperPkg (dies.headD 0)) asid va with
  | .error x => .error x
  | .ok ia =>
    if s.isKick asid ia then .error ⟨0x12, 4, ia⟩
    else firstOk ⟨0x11, 1, ia⟩ (dies.map fun d => s.locateFrom d asid va acc)

/-- `n` granules read by a unit; none where one is unreadable, poison or fails its code. -/
def State.unitRead (s : State) (dies : List Nat) (asid va : Nat) : Nat → Option (List Word)
  | 0 => some []
  | n + 1 =>
    match s.unitLocate dies asid va .read with
    | .error _ => none
    | .ok (a, ia) => match s.deliver a ia with
      | .valid w => (s.unitRead dies asid (va + 8) n).map (w :: ·)
      | _ => none

/-- Copies of a granule that a unit writes for a core leave the L1 of that core and the L2 of its die (R224, R247). -/
def State.unitWrote (s : State) (ps : List Ply) (ia : Nat) : State := ps.foldl (fun s p => s.engineWrote p ia) s

/-- Granules written by a unit from an address upwards, with new codes, for the plies given; one that does not translate is
left. -/
def State.unitWrite (s : State) (dies : List Nat) (asid va : Nat) (ws : List Word) (ps : List Ply := []) : State :=
  match ws with
  | [] => s
  | w :: r =>
    let s := match s.unitLocate dies asid va .write with
      | .error _ => s
      | .ok (a, ia) => (s.storeReg a ia ⟨w, .raw⟩).unitWrote ps ia
    s.unitWrite dies asid (va + 8) r ps

/-- The packages on which a partition has dies (R396). -/
def State.packagesOf (s : State) (part : Nat) : List Nat := (s.partitions.filter (·.id % 8 == part)).map (·.id / 8)

def Enclave.dies (e : Enclave) (s : State) : List Nat := s.unitDies e.pkg e.part

/-- Granules of bytes. -/
def wordsOf : Nat → List Byte → List Word
  | 0, _ => []
  | n + 1, b => BitVec.ofNat 64 (ofBytesLE (b.take 8)) :: wordsOf n (b.drop 8)

/-! ### Queues -/

def Enclave.queue (e : Enclave) (q : Nat) : Queue := SMap.get Queue.off e.queues q

def Enclave.setQueue (e : Enclave) (q : Nat) (k : Queue) : Enclave := { e with queues := SMap.set Queue.off e.queues q k }

def Queue.count (k : Queue) : Nat := k.tail - k.head

/-- Address of the ring entry of a sequence (R330). -/
def Queue.entry (k : Queue) (seq : Nat) : Nat := k.qbase + 0x1000 + 256 * (seq % 2 ^ k.log)

/-- COMP of a queue; none where it is disabled or its block is unreadable. -/
def State.comp (s : State) (e : Enclave) (q : Nat) : Option Nat :=
  let k := e.queue q
  if k.qbase = 0 then none
  else match s.unitRead (e.dies s) e.asid k.qbase 1 with
    | some [w] => some w.toNat
    | _ => none

/-- The launch at the head of a queue, once its descriptor has been read (R332). -/
def State.headLaunch (s : State) (e : Enclave) (q : Nat) : Option Launch :=
  s.launches.find? fun l => l.enc == e.enc && l.queue == q && !l.spec && l.seq == (e.queue q).head

/-- The descriptor at the head, as bytes; it is read once (R332). -/
def State.headDesc (s : State) (e : Enclave) (q : Nat) : Option (List Byte) :=
  match s.headLaunch e q with
  | some l => if l.desc.isEmpty then none else some l.desc
  | none =>
    let k := e.queue q
    (s.unitRead (e.dies s) e.asid (k.entry k.head) 32).map granuleBytes

/-- A little-endian field of a descriptor (R331). -/
def field (d : List Byte) (off n : Nat) : Nat := ofBytesLE ((d.drop off).take n)

/-- R335: a dependence of the descriptor is met. -/
def State.waitMet (s : State) (e : Enclave) (d : List Byte) (i : Nat) : Bool :=
  let wq := field d (80 + i) 1
  !bitOf wq 7 || match s.comp e (wq % 64) with
    | some c => field d (64 + 8 * i) 8 ≤ c
    | none => false

/-- R335: the head of a queue is ready; a descriptor that cannot be read holds nothing back. -/
def State.headReady (s : State) (e : Enclave) (q : Nat) : Bool :=
  let k := e.queue q
  k.qbase != 0 && 0 < k.count && match s.headDesc e q with
    | some d => s.waitMet e d 0 && s.waitMet e d 1
    | none => true

/-- A register of the kick page (R328). -/
def State.kickRead (s : State) (e : Enclave) (off : Nat) : Word :=
  let q := off / 0x400
  let k := e.queue q
  BitVec.ofNat 64 <| match off % 0x400 with
    | 0x00 => k.qbase
    | 0x08 => k.base + k.cap * 2 ^ 8 + k.log * 2 ^ 16
    | 0x18 => k.head % 2 ^ 32 + k.count % 2 ^ 16 * 2 ^ 32 + k.level * 2 ^ 48
        + b2n (k.qbase != 0 && 0 < k.count && !s.headReady e q) * 2 ^ 53
    | 0x20 => k.spStart
    | 0x28 => k.spCommit
    | 0x30 => k.spDiscard
    | 0x38 => k.spCause
    | _ => 0

/-- A write to QBASE (R329). -/
def Queue.writeBase (k : Queue) (v : Nat) : Queue :=
  if k.count = 0 ∧ v % 4096 = 0 ∧ v < 2 ^ 57 then { k with qbase := v } else k

/-- A write to QCFG (R329), under the enclave's ceiling. -/
def Queue.writeConfig (k : Queue) (ceiling v : Nat) : Queue :=
  let lvl (lo : Nat) : Nat := Nat.min (bitsOf v lo 5) ceiling
  let log := bitsOf v 16 4
  if k.count ≠ 0 ∨ bitsOf v 5 3 ≠ 0 ∨ bitsOf v 13 3 ≠ 0 ∨ bitsOf v 20 44 ≠ 0 ∨ log < 4 ∨ 12 < log then k
  else { k with base := lvl 0, cap := Nat.max (lvl 0) (lvl 8), log, level := lvl 0 }

/-- A new tail index (R328, R329): the queue, and whether entries were refused. -/
def Queue.kickTo (k : Queue) (v : Nat) : Queue × Bool :=
  let n := (v % 2 ^ 32 + 2 ^ 32 - k.head % 2 ^ 32) % 2 ^ 32
  if 2 ^ k.log < n then ({ k with tail := k.head + 2 ^ k.log }, true) else ({ k with tail := k.head + n }, false)

/-- A store to KICK; a disabled queue takes nothing. -/
def State.kickStore (s : State) (e : Enclave) (q v : Nat) : State :=
  let k := e.queue q
  if k.qbase = 0 then s
  else
    let (k', more) := k.kickTo v
    let s := s.putEnclave (e.setQueue q k')
    if !more then s
    else match s.unitRead (e.dies s) e.asid (k.qbase + 8) 1 with
      | some [w] => s.unitWrite (e.dies s) e.asid (k.qbase + 8)
          [(w.extractLsb' 32 32 ++ (w.extractLsb' 0 32 + 1) : BitVec 64)]
      | _ => s

/-! ### The end of a speculation (R344) -/

/-- Buffers of frames that no longer count go back to their pools (R371). -/
def Partition.giveBack (x : Partition) (plies skeins : List Nat) : Partition :=
  { x with plyPool := x.plyPool ++ plies, skeinPool := x.skeinPool ++ skeins }

/-- The frames of these handles are dropped: their entries go, their buffers return (R371). -/
def State.dropFrames (s : State) (hs : List Nat) : State :=
  s.enclaves.foldl (init := s) fun s e =>
    let gone := e.savedTab.filter fun c => hs.contains c.handle
    if gone.isEmpty then s
    else
      let skein (c : SavedCtx) : Bool := s.skeins.any (·.handle == c.handle)
      let plies := (gone.filter (!skein ·)).map (·.buffer)
      let skeins := (gone.filter skein).map (·.buffer)
      let s := s.putEnclave { e with savedTab := e.savedTab.filter fun c => !hs.contains c.handle }
      { s with partitions := updateWhere (·.id == e.pkg * 8 + e.part) (fun x => x.giveBack plies skeins) s.partitions }

/-- Every ply and skein of a launch is dropped, with its operations and its saved frames; its blocks go back. -/
def State.dropLaunch (s : State) (l : Nat) : State :=
  let ps := s.plies.filter (·.launch == l)
  let s := s.dropFrames (ps.map (·.handle) ++ (s.skeins.filter (·.launch == l)).map (·.handle))
  let s := ps.foldl (fun s p => s.vacate p) { s with plies := s.plies.filter (·.launch != l) }
  let ids := ps.map (·.handle)
  let ops := (s.ops.filter fun o => ids.contains o.ply).map (·.id)
  let s := s.withdraw ops.contains
  let s := { s with
    skeins := s.skeins.filter (·.launch != l)
    pairs := s.pairs.map fun (q : Pair) => { q with
      queue := q.queue.filter (!ops.contains ·), begun := q.begun.filter (fun b => !ops.contains b.1)
      ending := q.ending.filter (fun e => !ops.contains e.op), struck := q.struck.filter (!ops.contains ·) } }
  let gone (h : Nat) : Bool := !(s.skeins.any (·.handle == h))
  { s with pairs := s.pairs.map fun (q : Pair) => { q with binds := q.binds.filter fun b => !(gone b.leader && gone b.follower) } }

/-- R344: a speculation is discarded, for a cause. -/
def State.discardSpec (s : State) (x : Spec) (cause : Nat) : State :=
  let s := s.dropLaunch x.launch
  let s := { s with
    specs := s.specs.filter (·.launch != x.launch), launches := s.launches.filter (·.id != x.launch) }
  match s.enclave x.enc with
  | none => s
  | some e =>
    let k := e.queue x.queue
    s.putEnclave (e.setQueue x.queue { k with spDiscard := k.spDiscard + 1, spCause := cause })

/-- Lines of 64 bytes that the swatch store of a partition holds: 1/64 of the usable memory of its dies, on every package
(R343). -/
def State.swatchRoom (s : State) (part : Nat) : Nat :=
  (((s.partitions.filter (·.id % 8 == part)).map (·.dies.length)).foldl (· + ·) 0) * (4 * 56 * 2 ^ 30 / 64 / 64)

/-- The lines that the speculations of a partition keep in its swatch store. -/
def State.swatchUsed (s : State) (part : Nat) : Nat :=
  ((s.specs.filter fun x => (s.enclave x.enc).any (·.part == part)).map fun x =>
    ((x.swatch.map (·.1 / 8)).eraseDups).length).foldl (· + ·) 0

/-- R344: a speculation is discarded when one of its fibres has parked (cause 2 for a system call, 3 otherwise), when an
engine of it wrote to a peer page,
when the swatch store or its read set is full, and when a word predicted as unread was read, for which R344 names no
cause (log 34). -/
def State.tidySpecs (s : State) : State :=
  s.specs.foldl (init := s) fun s x =>
    let parked := (s.plies.filter (·.launch == x.launch)).flatMap fun p => p.courses.filterMap fun (c : Course) =>
      match c.phase with
      | .parked cause .. => some cause
      | _ => none
    let full : Bool := match s.enclave x.enc with | some e => s.swatchRoom e.part < s.swatchUsed e.part | none => true
    match parked with
    | [] =>
      if x.peerHit then s.discardSpec x 2
      else if (full && !x.swatch.isEmpty) || decide (16384 < x.reads.length) then s.discardSpec x 1
      else if x.unreadHit then { s with freeCtr := s.freeCtr + 1 }.discardSpec x ((Config.freeValue s.freeCtr).toNat % 256)
      else s
    | c :: _ => s.discardSpec x (if c = 0x38 then 2 else 3)

end Sys2Proof.Machine
end

