-- ==== Sys2Proof/Machine/Scratch.lean ====
section
/-! DEFINITION.  The scratchpad, the software-cache tags, stage rings and arrival barriers (07 R215 to R236). -/

namespace Sys2Proof.Machine

def State.skein (s : State) (h : Nat) : Option Skein := s.skeins.find? (·.handle == h)

def State.putCarve (s : State) (h : Nat) (c : Carve) : State :=
  { s with skeins := updateWhere (·.handle == h) (fun k => { k with carve := c }) s.skeins }

/-- The carve of a ply's skein; a ply without a skein has an empty one. -/
def State.carve (s : State) (h : Nat) : Carve :=
  match s.skein h with
  | some k => k.carve
  | none => Carve.empty

def Carve.regionAt (c : Carve) (x : Nat) : Option Region := c.regions.find? fun r => r.base ≤ x && x < r.base + r.size

/-- R219: the granule at an offset; the codes of the scratchpad are made over offsets. -/
def Carve.granule (c : Carve) (x : Nat) : Granule := (SMap.get none c.cells (x / 8)).getD ⟨0, selv 0 (x / 8 * 8)⟩

def Carve.put (c : Carve) (x : Nat) (g : Granule) : Carve :=
  { c with cells := SMap.set none c.cells (x / 8) (if g = ⟨0, selv 0 (x / 8 * 8)⟩ then none else some g) }

/-- A register as a producer writes it (R219, R109). -/
def Carve.putReg (c : Carve) (x : Nat) (r : Reg) : Carve :=
  c.put x (if r.tag = .poison then ⟨0, poisonCode x⟩ else ⟨r.val, selv r.val x⟩)

/-- eaux of a scratchpad fault (R220). -/
def scratchEaux (sub n : Nat) : Word := BitVec.ofNat 64 (sub + n % 2 ^ 21 * 2 ^ 8 + 2 ^ 62)

/-- R220: the checks of a data access. -/
def Carve.check (c : Carve) (feOnly : Bool) (x : Nat) : List FaultAt :=
  (match c.regionAt x with
    | none => [⟨0x12, scratchEaux 1 x⟩]
    | some r => if feOnly && r.kind != 2 then [⟨0x12, scratchEaux 2 x⟩] else [])
  ++ if x % 8 = 0 then [] else [⟨0x18, scratchEaux 0 x⟩]

/-- The data of a granule as a load gives it (R227). -/
def scratchValue (g : Granule) (x : Nat) (fmt : Fmt) : Except FaultAt Reg :=
  match g.judge x with
  | .valid w => .ok ⟨w, fmt⟩
  | .poison => .ok ⟨0, .poison⟩
  | _ => .error ⟨0x16, scratchEaux 0 x⟩

/-- R221: beats of one half, by the bank most in demand: the distinct granules, of skeins and offsets, in it. -/
def bankBeats (xs : List (Nat × Nat)) : Nat :=
  let gs := (xs.map fun x => (x.1, x.2 / 8)).eraseDups
  ((List.range 32).map fun b => (gs.filter (·.2 % 32 == b)).length).foldl Nat.max 1

/-- The offsets that the active fibres of a half address, each with the skein whose carve it lies in. -/
def Issue.wanted (x : Issue) (addr : Nat → Nat) (fs : List Nat) : List (Nat × Nat) := fs.map fun f => (x.ply.skein, addr f)

/-- The instruction with its beats known (R221); what the other members of its packed run address counts with its own (R76). -/
def Issue.withBeats (x : Issue) (mates : List (Nat × Nat)) (addr : Nat → Nat) : Issue :=
  let first := bankBeats (x.wanted addr (x.active.filter (· < 32)) ++ mates)
  let second := bankBeats (x.wanted addr (x.active.filter (32 ≤ ·)))
  { x with first := x.time + first - 1, last := if x.ply.width = 64 then x.time + first + second - 1 else x.time + first - 1 }

/-- An address operand and an offset (R226, R250). -/
structure Addr where
  a : Src
  b : Src := .zero
  off : BitVec 14 := 0

/-- The address operand of a data command (R221). -/
def dataAddr : Instr → Option Addr
  | .lds _ _ a off _ => some { a, off }
  | .ldsBase _ _ a b => some { a, b }
  | .sts _ _ a off => some { a, off }
  | .stsBase _ _ a b => some { a, b }
  | .ldsfe _ _ a off _ => some { a, off }
  | .stsfe _ _ a off => some { a, off }
  | .sfe _ a off _ => some { a, off }
  | _ => none

def Issue.addr64 (x : Issue) (f : Nat) (ad : Addr) : Word := (x.reg f ad.a).val + (x.reg f ad.b).val + ad.off.signExtend 64

def Issue.checkAddr (x : Issue) (f : Nat) (ad : Addr) : List FaultAt := x.check f okCtl ad.a ++ x.check f okCtl ad.b

/-- The active fibres whose access passes its checks, with their offsets, and the faults of the others. -/
def Issue.scratchAccess (x : Issue) (c : Carve) (sb : List FaultAt) (ad : Addr) (feOnly : Bool) :
    List (Nat × Nat) × List (Nat × FaultAt) :=
  let judge (f : Nat) : Except FaultAt Nat := do
    stage (sb ++ x.checkAddr f ad)
    let y := (x.addr64 f ad).toNat
    stage (c.check feOnly y)
    return y
  (x.active.filterMap fun f => match judge f with | .ok y => some (f, y) | .error _ => none,
   (x.active.filterMap fun f => match judge f with | .ok _ => none | .error e => some (f, e)) ++ x.inactiveFaults sb)

/-- The issue of a data command: its beats are known with its addresses (R221), before the checking scoreboard judges when
its result lands (R37). -/
def scratchRun (s : State) (i : Instr) (ad : Addr) (act : Issue → List FaultAt → State) : Host.Outcome State Fault Refusal :=
  let mates := match s.cur with | some c => c.mates | none => []
  runIssueAs s i (fun x => x.withBeats mates fun f => (x.addr64 f ad).toNat) (fun _ => []) act

/-- LDS (R227). -/
def ldsRun (s : State) (i : Instr) (ad : Addr) (fmt : Fmt) : Host.Outcome State Fault Refusal :=
  scratchRun s i ad fun x sb =>
    let c := s.carve x.ply.skein
    let (good, faults) := x.scratchAccess c sb ad false
    let outs := good.filterMap fun (f, y) => match scratchValue (c.granule y) y fmt with
      | .ok r => some (f, ({ d := some r } : LaneOut))
      | .error _ => none
    let bad := good.filterMap fun (f, y) => match scratchValue (c.granule y) y fmt with
      | .ok _ => none
      | .error e => some (f, e)
    x.finish s (outs.foldl x.emitLane x.ply) outs (faults ++ bad)

/-- STS (R227). -/
def stsRun (s : State) (i : Instr) (d : Src) (ad : Addr) : Host.Outcome State Fault Refusal :=
  scratchRun s i ad fun x sb =>
    let c := s.carve x.ply.skein
    let (good, faults) := x.scratchAccess c sb ad false
    let c := good.foldl (fun c (f, y) => c.putReg y (x.reg f d)) c
    x.finish (s.putCarve x.ply.skein c) x.ply [] faults

/-- LDS (R227). -/
def execLds (h : Head) (d : Dst) (a : Src) (off : BitVec 14) (f : Fmt) (s : State) :
    Host.Outcome State Fault Refusal :=
  ldsRun s (.lds h d a off f) { a, off } f

/-- LDS_BASE (R227). -/
def execLdsBase (h : Head) (d : BitVec 6) (a : Src) (b : Src) (s : State) : Host.Outcome State Fault Refusal :=
  ldsRun s (.ldsBase h d a b) { a, b } .raw

/-- STS (R227). -/
def execSts (h : Head) (d : Src) (a : Src) (off : BitVec 14) (s : State) : Host.Outcome State Fault Refusal :=
  stsRun s (.sts h d a off) d { a, off }

/-- STS_BASE (R227). -/
def execStsBase (h : Head) (d : BitVec 6) (a : Src) (b : Src) (s : State) : Host.Outcome State Fault Refusal :=
  stsRun s (.stsBase h d a b) (.v (d.setWidth 8)) { a, b }

/-! ### Blocking instructions -/

/-- A blocked course goes on past its instruction (R72), its stall count running from the completion, as the result counts
from there (R15, R221; DEDUCED, log 72): `vals` are the values of its distance temporary, none for an
instruction that leaves none. -/
def State.resume (s : State) (o : Op) (len : Nat) (vals : Option (Nat → Reg)) (lat : Nat) : State :=
  let s := { s with ops := s.ops.filter (·.id != o.id) }
  match s.ply o.ply with
  | none => s
  | some p =>
    match p.course o.course with
    | none => s
    | some c =>
      let p := p.modFibres c.fibres fun f y =>
        { y with temps := ((match vals with | some g => g f | none => Reg.zero) :: y.temps).take 7 }
      let run : Run := { pc := c.run.pc + len, pos := c.run.pos + 1
                         temps := (⟨vals.isSome, s.clock + lat, s.clock + lat⟩ :: c.run.temps).take 7, pfx := none }
      s.putPly (p.putCourse { c with
        run, phase := .ready, nextIssue := Nat.max c.nextIssue (p.ticks s.clock + o.stall + 1) })

def dstTarget (d : Dst) (f : Nat) : Option Target :=
  match d with
  | .v n => some (.v f n.toNat)
  | .s n => some (.s n.toNat)
  | .none => none

/-- A result that a served operation writes (R221). -/
def State.landLater (s : State) (o : Op) (lat : Nat) (t : Target) (r : Reg) : State :=
  s.modPly o.ply fun p =>
    let fs := match p.course o.course with | some c => c.fibres | none => o.left
    { p with flight := p.flight ++ [⟨s.clock + lat, fs, t, r⟩] }

/-- The results of an LDSFE are readable 4 cycles after its last fibre is served (R221). -/
def State.landServed (s : State) (o : Op) (dst : Dst) (got : SMap Reg) : State :=
  got.foldl (init := s) fun s g => match dstTarget dst g.1 with
    | some t => s.landLater o 4 t g.2
    | none => s

/-- The old value of a destination, for the temporaries of fibres that were not served. -/
def Ply.oldDst (p : Ply) (f : Nat) : Dst → Reg
  | .v n => SMap.get Reg.zero (p.fibre f).v n.toNat
  | .s n => SMap.get Reg.zero p.s n.toNat
  | .none => Reg.zero

/-- A fibre's request has been answered; the course goes on when none is left (R228). -/
def State.feServed (s : State) (o : Op) (f : Nat) (r : Option Reg) : State :=
  let left := o.left.filter (· != f)
  match o.body with
  | .ldsfe dst fmt got len =>
    let got := match r with | some v => SMap.put got f v | none => got
    let o := { o with left, body := .ldsfe dst fmt got len }
    let s := { s with ops := updateWhere (·.id == o.id) (fun _ => o) s.ops }
    if left.isEmpty then
      match s.ply o.ply with
      | none => s
      | some p => (s.landServed o dst got).resume o len (some fun g => SMap.get (p.oldDst g dst) got g) 4
    else s
  | .stsfe len =>
    let o := { o with left }
    let s := { s with ops := updateWhere (·.id == o.id) (fun _ => o) s.ops }
    if left.isEmpty then s.resume o len none 0 else s
  | _ => s

/-- A blocked fibre parks at its instruction (R228). -/
def State.parkBlocked (s : State) (o : Op) (fs : List Nat) (e : FaultAt) : State :=
  match s.ply o.ply with
  | none => s
  | some p =>
    match p.course o.course with
    | none => s
    | some c => s.raise p c.id c.run (fs.map (·, e))

/-- R228, R229: the requests of one word, served while a condition holds: a full word serves the LDSFE that has waited
longest, an empty one the STSFE that has waited longest (DEDUCED, log 41). -/
def State.serveWord (s : State) (h w : Nat) : Nat → State
  | 0 => s
  | n + 1 =>
    let c := s.carve h
    match c.waits.find? fun r => r.off / 8 == w && r.val.isSome != SMap.get false c.full w with
    | none => s
    | some r =>
      let rest := { c with waits := c.waits.erase r }
      let full := SMap.get false c.full w
      match s.op r.op with
      | none => (s.putCarve h rest).serveWord h w n
      | some o =>
        match r.val, full with
        | none, true =>
          match scratchValue (c.granule r.off) r.off (match o.body with | .ldsfe _ fmt _ _ => fmt | _ => .raw) with
          | .error e => (((s.putCarve h rest).parkBlocked o [r.fibre] e).feServed o r.fibre none).serveWord h w n
          | .ok v => ((s.putCarve h { rest with full := SMap.set false c.full w false }).feServed o r.fibre (some v)).serveWord h w n
        | some v, false =>
          ((s.putCarve h { rest.putReg r.off v with full := SMap.set false c.full w true }).feServed o r.fibre none).serveWord h w n
        | _, _ => s

def State.serveWords (s : State) (h : Nat) (ws : List Nat) : State :=
  ws.foldl (fun s w => s.serveWord h w ((s.carve h).waits.length + 1)) s

/-- A course blocks at its instruction; faulting fibres park there (R72). -/
def Issue.block (x : Issue) (s : State) (p : Ply) (left : List Nat) (faults : List (Nat × FaultAt)) : State :=
  let c := (p.course x.course.id).getD x.course
  let p := p.putCourse { c with
    phase := .blocked left, chain := [], chainLast := 0, hold := 0, nextIssue := Nat.max x.after x.course.hold }
  let p := { p with eligibleSince := x.time }
  let s := (x.holdPipe s).dropRun p x.course.id
  s.raise p x.course.id x.course.run faults

/-- R79: a wait joins the end of its queue; of waits that arrive in one cycle, the lower partition and then the lower fibre
number stands first.  `op` and `fibre` say whose wait an entry is. -/
def State.queueIn {α : Type} (s : State) (op fibre : α → Nat) (l : List α) (a : α) : List α :=
  let place (b : α) : Option (Nat × Nat) := do
    let o ← s.op (op b)
    let p ← s.ply o.ply
    return (o.time, 1024 * p.part + 64 * p.slot + fibre b)
  let behind (b : α) : Bool := match place a, place b with
    | some (t, n), some (u, m) => t == u && n < m
    | _, _ => false
  l.filter (!behind ·) ++ a :: l.filter behind

/-- LDSFE and STSFE (R228). -/
def feRun (s : State) (i : Instr) (ad : Addr) (store : Option Src) (body : Nat → OpBody) : Host.Outcome State Fault Refusal :=
  scratchRun s i ad fun x sb =>
    let c := s.carve x.ply.skein
    let (good, faults) := x.scratchAccess c sb ad true
    let reqs := good.map fun (f, y) => (⟨s.nextId, f, y, store.map (x.reg f)⟩ : FeReq)
    if good.isEmpty then x.finish s x.ply [] faults
    else
      let fs := good.map (·.1)
      let dests := match store with | some _ => [] | none => fs.filterMap (dstTarget x.sh.dst)
      let (s1, p) := x.launchOp s x.ply none true fs dests (body x.len)
      let s2 := x.block s1 p fs faults
      let c := s2.carve x.ply.skein
      let waits := reqs.foldl (s2.queueIn FeReq.op FeReq.fibre) c.waits
      (s2.putCarve x.ply.skein { c with waits }).serveWords x.ply.skein ((good.map (·.2 / 8)).eraseDups)

/-- LDSFE (R228). -/
def execLdsfe (h : Head) (d : Dst) (a : Src) (off : BitVec 14) (f : Fmt) (s : State) :
    Host.Outcome State Fault Refusal :=
  feRun s (.ldsfe h d a off f) { a, off } none fun len => .ldsfe d f [] len

/-- STSFE (R228). -/
def execStsfe (h : Head) (d : Src) (a : Src) (off : BitVec 14) (s : State) : Host.Outcome State Fault Refusal :=
  feRun s (.stsfe h d a off) { a, off } (some d) fun len => .stsfe len

/-- SFE (R229). -/
def execSfe (h : Head) (a : Src) (off : BitVec 14) (full : Bool) (s : State) : Host.Outcome State Fault Refusal :=
  scratchRun s (.sfe h a off full) { a, off } fun x sb =>
    let c := s.carve x.ply.skein
    let (good, faults) := x.scratchAccess c sb { a, off } true
    let s := x.finish s x.ply [] faults
    good.foldl (init := s) fun s (_, y) =>
      let c := s.carve x.ply.skein
      (s.putCarve x.ply.skein { c with full := SMap.set false c.full (y / 8) full }).serveWords x.ply.skein [y / 8]

/-! ### The tag table (R230, R231) -/

/-- A cache region by number: line size, ways, sets, base. -/
structure Cache where
  line : Nat
  ways : Nat
  sets : Nat
  base : Nat
  deriving DecidableEq, Repr

def Carve.cache (c : Carve) (n : Nat) : Option Cache :=
  (c.regions.filter (·.kind == 3))[n]?.map fun r => ⟨2 ^ r.p1, 2 ^ r.p2, r.size / 2 ^ r.p1 / 2 ^ r.p2, r.base⟩

def Cache.set (k : Cache) (key : Nat) : Nat := key / k.line % k.sets
def Cache.tag (k : Cache) (key : Nat) : Nat := key / k.line / k.sets
def Cache.offset (k : Cache) (st w : Nat) : Nat := k.base + (st * k.ways + w) * k.line

def Carve.tagOf (c : Carve) (n line : Nat) : Option Nat := SMap.get none c.tags (n * 65536 + line)
def Carve.setTag (c : Carve) (n line : Nat) (t : Option Nat) : Carve :=
  { c with tags := SMap.set none c.tags (n * 65536 + line) t }
def Carve.rotOf (c : Carve) (n st : Nat) : Nat := SMap.get 0 c.rot (n * 65536 + st)

/-- R231: the offset that tlook gives, and whether it hits. -/
def Carve.tlook (c : Carve) (n : Nat) (k : Cache) (key : Nat) : Nat × Bool :=
  let st := k.set key
  let at' (w : Nat) : Option Nat := c.tagOf n (st * k.ways + w)
  match (List.range k.ways).find? fun w => at' w == some (k.tag key) with
  | some w => (k.offset st w, true)
  | none =>
    let v := match (List.range k.ways).find? fun w => at' w == none with
      | some w => w
      | none => c.rotOf n st
    (2 ^ 63 + k.offset st v, false)

/-- R231: tset of a line of the key's set. -/
def Carve.tset (c : Carve) (n : Nat) (k : Cache) (key off : Nat) : Option Carve :=
  let st := k.set key
  match (List.range k.ways).find? fun w => k.offset st w == off with
  | none => none
  | some w =>
    let c := (List.range k.ways).foldl (init := c) fun c v =>
      if c.tagOf n (st * k.ways + v) == some (k.tag key) then c.setTag n (st * k.ways + v) none else c
    let c := c.setTag n (st * k.ways + w) (some (k.tag key))
    some (if w = c.rotOf n st then { c with rot := SMap.set 0 c.rot (n * 65536 + st) ((w + 1) % k.ways) } else c)

/-- R231: tinv of a line base. -/
def Carve.tinv (c : Carve) (n : Nat) (k : Cache) (off : Nat) : Option Carve :=
  if k.base ≤ off ∧ (off - k.base) % k.line = 0 ∧ (off - k.base) / k.line < k.ways * k.sets then
    some (c.setTag n ((off - k.base) / k.line) none)
  else none

/-- TLOOK (R231). -/
def execTlook (h : Head) (d : Dst) (a : Src) (region : BitVec 4) (pn : BitVec 4) (s : State) :
    Host.Outcome State Fault Refusal :=
  runLane s (.tlook h d a region pn) fun x sb f => do
    stage (sb ++ x.check f okCtl a)
    let c := s.carve x.ply.skein
    match c.cache region.toNat with
    | none => .error ⟨0x12, scratchEaux 3 region.toNat⟩
    | some k =>
      let (o, hit) := c.tlook region.toNat k (x.reg f a).val.toNat
      return { d := some ⟨BitVec.ofNat 64 o, .i64⟩, pred := some hit }

/-- The tag commands that change the table act in ascending order of fibres. -/
def tagRun (s : State) (i : Instr) (region : Nat) (srcs : List Src) (act : Issue → Carve → Cache → Nat → Option Carve)
    (off : Issue → Nat → Nat) : Host.Outcome State Fault Refusal :=
  runIssue s i (fun _ => []) fun x sb =>
    let start : Carve × List (Nat × FaultAt) := (s.carve x.ply.skein, [])
    let (c, faults) := x.active.foldl (init := start) fun (c, fl) f =>
      match lowestFault (sb ++ srcs.flatMap (x.check f okCtl)) with
      | some e => (c, fl ++ [(f, e)])
      | none =>
        match c.cache region with
        | none => (c, fl ++ [(f, ⟨0x12, scratchEaux 3 region⟩)])
        | some k => match act x c k f with
          | some c => (c, fl)
          | none => (c, fl ++ [(f, ⟨0x12, scratchEaux 5 (off x f)⟩)])
    x.finish (s.putCarve x.ply.skein c) x.ply [] (faults ++ x.inactiveFaults sb)

/-- TSET (R231). -/
def execTset (h : Head) (a : Src) (b : Src) (region : BitVec 4) (s : State) : Host.Outcome State Fault Refusal :=
  tagRun s (.tset h a b region) region.toNat [a, b]
    (fun x c k f => c.tset region.toNat k (x.reg f a).val.toNat (x.reg f b).val.toNat) (fun x f => (x.reg f b).val.toNat)

/-- TINV (R231). -/
def execTinv (h : Head) (b : Src) (region : BitVec 4) (s : State) : Host.Outcome State Fault Refusal :=
  tagRun s (.tinv h b region) region.toNat [b]
    (fun x c k f => c.tinv region.toNat k (x.reg f b).val.toNat) (fun x f => (x.reg f b).val.toNat)

/-! ### Stage rings (R232 to R234) -/

def Ring.freeCount (r : Ring) : Nat := r.slots - (r.ai + 2 * r.slots - r.ri) % (2 * r.slots)
def Ring.filledCount (r : Ring) : Nat := (r.fi + 2 * r.slots - r.ti) % (2 * r.slots)
def Ring.step (r : Ring) (p : Nat) : Nat := (p + 1) % (2 * r.slots)
def Ring.setState (r : Ring) (n : Nat) (t : SlotState) : Ring := { r with states := r.states.set n t }
def Ring.stateOf (r : Ring) (n : Nat) : SlotState := r.states.getD n .free
def Ring.offset (r : Ring) (n : Nat) : Nat := r.base + n * 2 ^ r.log

/-- The slot of an offset, when it is a slot's base. -/
def Ring.slotAt (r : Ring) (off : Nat) : Option Nat := (List.range r.slots).find? fun n => r.offset n == off

/-- acquire, when a slot is free: the slot and the phase. -/
def Ring.acquire (r : Ring) : Option (Nat × Nat × Ring) :=
  if r.freeCount = 0 then none
  else
    let n := r.ai % r.slots
    some (n, r.ai / r.slots, { r.setState n .acquired with ai := r.step r.ai })

def Ring.take (r : Ring) : Option (Nat × Nat × Ring) :=
  if r.filledCount = 0 then none
  else
    let n := r.ti % r.slots
    some (n, r.ti / r.slots, { r.setState n .taken with ti := r.step r.ti })

/-- The fill pointer moves over published slots. -/
def Ring.advanceFill : Nat → Ring → Ring
  | 0, r => r
  | n + 1, r =>
    if r.fi ≠ r.ai ∧ r.stateOf (r.fi % r.slots) = .published then
      Ring.advanceFill n { r.setState (r.fi % r.slots) .filled with fi := r.step r.fi }
    else r

def Ring.advanceFree : Nat → Ring → Ring
  | 0, r => r
  | n + 1, r =>
    if r.ri ≠ r.ti ∧ r.stateOf (r.ri % r.slots) = .released then
      Ring.advanceFree n { r.setState (r.ri % r.slots) .free with ri := r.step r.ri }
    else r

def Ring.publish (r : Ring) (n : Nat) : Option Ring :=
  if r.stateOf n = .acquired then some (Ring.advanceFill r.slots (r.setState n .published)) else none

def Ring.release (r : Ring) (n : Nat) : Option Ring :=
  if r.stateOf n = .taken then some (Ring.advanceFree r.slots (r.setState n .released)) else none

def Carve.ring (c : Carve) (n : Nat) : Option Ring := c.rings[n]?
def Carve.setRing (c : Carve) (n : Nat) (r : Ring) : Carve := { c with rings := c.rings.set n r }

/-- RACQ and RTAKE (R234). -/
def ringRun (s : State) (i : Instr) (isTake : Bool) (a : Src) (d : BitVec 6) (pn : BitVec 4) : Host.Outcome State Fault Refusal :=
  runIssue s i (fun _ => []) fun x sb =>
    if x.active.isEmpty && sb.isEmpty then x.finish s x.ply [] []
    else
      let c := s.carve x.ply.skein
      let n := (x.uniform a).toNat
      let chk : Except FaultAt Ring := do
        stage (sb ++ x.checkUniform okCtl a)
        match c.ring n with
        | some r => return r
        | none => .error ⟨0x12, scratchEaux 3 n⟩
      match chk with
      | .error e => x.refuse s sb e
      | .ok r =>
        let served := if isTake then (if r.takers.isEmpty then r.take else none)
                      else if r.acquirers.isEmpty then r.acquire else none
        match served with
        | some (k, ph, r') =>
          let s := s.putCarve x.ply.skein (c.setRing n r')
          let outs := x.active.map fun f =>
            (f, ({ d := some ⟨BitVec.ofNat 64 (r'.offset k), .i64⟩, pred := some (ph == 1) } : LaneOut))
          x.finish s (outs.foldl x.emitLane x.ply) outs []
        | none =>
          let (s1, p) := x.launchOp s x.ply none false x.active [.s d.toNat] (.ring isTake n d.toNat pn.toNat x.len)
          let join (l : List Nat) : List Nat := s1.queueIn id (fun id => match s1.op id with | some o => o.left.headD 0 | none => 0) l s.nextId
          let r := if isTake then { r with takers := join r.takers } else { r with acquirers := join r.acquirers }
          x.block (s1.putCarve x.ply.skein (c.setRing n r)) p x.active []

/-- RACQ (R234). -/
def execRacq (h : Head) (d : BitVec 6) (a : Src) (pn : BitVec 4) (s : State) : Host.Outcome State Fault Refusal :=
  ringRun s (.racq h d a pn) false a d pn

/-- RTAKE (R234). -/
def execRtake (h : Head) (d : BitVec 6) (a : Src) (pn : BitVec 4) (s : State) : Host.Outcome State Fault Refusal :=
  ringRun s (.rtake h d a pn) true a d pn

/-- RPUB and RREL (R234). -/
def slotRun (s : State) (i : Instr) (a b : Src) (move : Ring → Nat → Option Ring) : Host.Outcome State Fault Refusal :=
  runIssue s i (fun _ => []) fun x sb =>
    if x.active.isEmpty && sb.isEmpty then x.finish s x.ply [] []
    else
      let c := s.carve x.ply.skein
      let n := (x.uniform a).toNat
      let off := (x.uniform b).toNat
      let chk : Except FaultAt Ring := do
        stage (sb ++ x.checkUniform okCtl a ++ x.checkUniform okCtl b)
        match c.ring n with
        | none => .error ⟨0x12, scratchEaux 3 n⟩
        | some r => match (r.slotAt off).bind (move r) with
          | some r => return r
          | none => .error ⟨0x12, scratchEaux 4 off⟩
      match chk with
      | .error e => x.refuse s sb e
      | .ok r => x.finish (s.putCarve x.ply.skein (c.setRing n r)) x.ply [] []

/-- RPUB (R234). -/
def execRpub (h : Head) (a : Src) (b : Src) (s : State) : Host.Outcome State Fault Refusal :=
  slotRun s (.rpub h a b) a b Ring.publish

/-- RREL (R234). -/
def execRrel (h : Head) (a : Src) (b : Src) (s : State) : Host.Outcome State Fault Refusal :=
  slotRun s (.rrel h a b) a b Ring.release

/-- A slot for the operation at the head of a ring's queue: a course goes on, an engine operation has its slot
(R232, R274). -/
def State.ringServe (s : State) (h n : Nat) (isTake : Bool) : State :=
  let c := s.carve h
  match c.ring n with
  | none => s
  | some r =>
    match if isTake then r.takers else r.acquirers with
    | [] => s
    | id :: rest =>
      match if isTake then r.take else r.acquire with
      | none => s
      | some (k, ph, r) =>
        let r := if isTake then { r with takers := rest } else { r with acquirers := rest }
        let s := s.putCarve h (c.setRing n r)
        match s.op id with
        | none => s
        | some o =>
          let off := r.offset k
          match o.body with
          | .ring _ _ dst pn len =>
            let v : Reg := ⟨BitVec.ofNat 64 off, .i64⟩
            let s := s.landLater o 2 (.s dst) v
            let s := if pn = 0 then s
              else o.left.foldl (fun s f => s.landLater o 2 (.p f pn) ⟨BitVec.ofNat 64 ph, .raw⟩) s
            match s.ply o.ply with
            | none => s
            | some p => s.resume o len (some fun f => if o.left.contains f then v else p.oldDst f (.s (BitVec.ofNat 6 dst))) 2
          | .copy ins d b cs m st (.slotWait map) =>
            let o := { o with body := .copy ins d b cs m st (.slotReady off map) }
            { s with ops := updateWhere (·.id == id) (fun _ => o) s.ops }
          | _ => s

/-- RING_ACQUIRE_SERVE (R232, R234). -/
def execRingAcquireServe (skein : Nat) (ring : Nat) (s : State) : Host.Outcome State Fault Refusal :=
  .next (s.ringServe skein ring false)

/-- RING_TAKE_SERVE (R232, R234). -/
def execRingTakeServe (skein : Nat) (ring : Nat) (s : State) : Host.Outcome State Fault Refusal :=
  .next (s.ringServe skein ring true)

/-! ### Arrival barriers (R235, R236) -/

/-- arrive(n) of R236. -/
def Barrier.arrive (b : Barrier) (n : Nat) : Barrier :=
  let a := b.a + n
  if a < b.e then { b with a }
  else
    let b := { b with a := a - b.e, ph := !b.ph }
    if b.e ≤ b.a then { b with a := b.e - 1, ovr := true } else b

def Carve.setBar (c : Carve) (n : Nat) (b : Barrier) : Carve := { c with bars := c.bars.set n b }

/-- An arrival, and the release of those that wait when the phase flips (R236). -/
def State.arrive (s : State) (h bar n : Nat) : State :=
  let c := s.carve h
  match c.bars[bar]? with
  | none => s
  | some b =>
    let b' := b.arrive n
    let s := s.putCarve h (c.setBar bar b')
    if b'.ph = b.ph then s
    else
      let waits := s.ops.filter fun o =>
        (match o.body with | .barwait k ph _ => k == bar && ph != b'.ph | _ => false)
          && (match s.ply o.ply with | some p => p.skein == h | none => false)
      waits.foldl (fun s o => s.resume o (match o.body with | .barwait _ _ len => len | _ => 4) none 0) s

/-- A barrier command: the checks of R235 and R236, then its effect. -/
def barRun (s : State) (i : Instr) (a b : Src) (needInit : Bool) (act : Issue → State → Nat → Barrier → Word → State) :
    Host.Outcome State Fault Refusal :=
  runIssue s i (fun _ => []) fun x sb =>
    if x.active.isEmpty && sb.isEmpty then x.finish s x.ply [] []
    else
      let n := (x.uniform a).toNat
      let chk : Except FaultAt Barrier := do
        stage (sb ++ x.checkUniform okCtl a ++ x.checkUniform okCtl b)
        match (s.carve x.ply.skein).bars[n]? with
        | none => .error ⟨0x12, scratchEaux 3 n⟩
        | some v => if needInit && v.e == 0 then .error ⟨0x12, scratchEaux 6 n⟩ else return v
      match chk with
      | .error e => x.refuse s sb e
      | .ok v => act x s n v (x.uniform b)

/-- BARINIT (R236). -/
def execBarinit (h : Head) (a : Src) (b : Src) (s : State) : Host.Outcome State Fault Refusal :=
  barRun s (.barinit h a b) a b false fun x s n v k =>
    let c := s.carve x.ply.skein
    x.finish (s.putCarve x.ply.skein (c.setBar n { v with e := bitsOf k.toNat 0 32, a := 0, ovr := false })) x.ply [] []

/-- BARARR (R236). -/
def execBararr (h : Head) (d : Dst) (a : Src) (b : Src) (s : State) : Host.Outcome State Fault Refusal :=
  barRun s (.bararr h d a b) a b true fun x s n v k =>
    (x.finishOnce s x.ply (some ⟨BitVec.ofNat 64 (b2n v.ph), .i64⟩)).arrive x.ply.skein n (bitsOf k.toNat 0 32)

/-- BARWAIT (R236). -/
def execBarwait (h : Head) (a : Src) (b : Src) (s : State) : Host.Outcome State Fault Refusal :=
  barRun s (.barwait h a b) a b true fun x s n v k =>
    if v.ph != k.getLsbD 0 then x.finish s x.ply [] []
    else
      let (s, p) := x.launchOp s x.ply none false x.active [] (.barwait n (k.getLsbD 0) x.len)
      x.block s p x.active []

end Sys2Proof.Machine
end

