-- ==== Sys2Proof/Machine/Matrix.lean ====
section
/-! DEFINITION.  Cable pairs: the pair queue and the allocator, the matrix operations, the accumulator instructions,
the pair reset (06 R185 to R214). -/

namespace Sys2Proof.Machine

/-! ### Pairs and blocks -/

def State.pair (s : State) (core : Nat) : Option Pair := s.pairs.find? (·.core == core)

def State.putPair (s : State) (q : Pair) : State := { s with pairs := updateWhere (·.core == q.core) (fun _ => q) s.pairs }

/-- The skein pair of a ply, with the cable pair that holds it (R185). -/
def State.bound (s : State) (p : Ply) : Option (Pair × PairBind) :=
  s.pairs.findSome? fun q => (q.binds.find? fun b => b.leader == p.skein || b.follower == p.skein).map (q, ·)

def PairBind.named (b : PairBind) (n : Nat) : Option AccBlock := b.blocks.find? fun k => k.held && k.name == n

def Pair.blocks (q : Pair) : List AccBlock := q.binds.flatMap (·.blocks)

def Pair.block (q : Pair) (phys : Nat) : Option AccBlock := q.blocks.find? (·.phys == phys)

/-- The skein pair that has a physical block. -/
def Pair.owner (q : Pair) (phys : Nat) : Option PairBind := q.binds.find? fun b => b.blocks.any (·.phys == phys)

/-- A pair on which nothing is queued.  R187 does not say with which core the rotation starts: the follower stands as the one
taken last, so that the leader is first (DESIGN CHOICE, log 88). -/
def Pair.fresh (core : Nat) (binds : List PairBind) : Pair := ⟨core, binds, [], [], [], [], core + 1, [], false⟩

def Pair.modBlock (q : Pair) (phys : Nat) (f : AccBlock → AccBlock) : Pair :=
  { q with binds := q.binds.map fun (b : PairBind) => { b with blocks := updateWhere (·.phys == phys) f b.blocks } }

/-- The block loses its contents; an instruction that names it finds it poisoned (R194). -/
def AccBlock.poison (k : AccBlock) : AccBlock := { k with tag := .poison, words := [] }

/-- The physical block that a pair operation names. -/
def OpBody.accBlock : OpBody → Option Nat
  | .mma _ b .. => some b
  | .acczero b => some b
  | .accfree b => some b
  | .accld b .. => some b
  | .accst b _ => some b
  | .mread b .. => some b
  | _ => none

/-- The block tag after an operation that succeeds (R194); a matrix operation leaves a poisoned block poisoned (log 24). -/
def OpBody.tagAfter (t : Fmt) : OpBody → Fmt
  | .mma i .. => if t = .poison then .poison else match i with
    | .mmai .. => .i32
    | .mmac .. => .cf32
    | _ => .f32
  | .acczero _ => .raw
  | .accld _ _ k => k
  | _ => t

/-- R194: the tag a block will hold once every queued operation on it has retired. -/
def State.tagAhead (s : State) (q : Pair) (k : AccBlock) : Fmt :=
  (q.queue.filterMap s.op).foldl (fun t o => if o.body.accBlock == some k.phys then o.body.tagAfter t else t) k.tag

/-- Array cycles (R204); none for a memory transfer. -/
def OpBody.arrayCycles : OpBody → Option Nat
  | .mma .. => some 16
  | .acczero _ | .accfree _ => some 8
  | .mread .. => some 4
  | _ => none

/-! ### Checks at issue (R198, R210) -/

def pairEaux (sub name : Nat) : Word := BitVec.ofNat 64 (sub + name % 32 * 16)

/-- eaux of a block tag (R194). -/
def blockEaux (t : Fmt) (name : Nat) : Word := BitVec.ofNat 64 (2 ^ 16 + t.code.toNat * 2 ^ 9 + name % 32)

/-- The block that a uniform source names, or cause 0x28. -/
def Issue.blockOf (x : Issue) (s : State) (src : Src) : Except FaultAt (Pair × PairBind × AccBlock) :=
  match s.bound x.ply with
  | none => .error ⟨0x28, pairEaux 2 0⟩
  | some (q, b) =>
    let v := (x.uniform src).toNat
    match if v < 32 then b.named v else none with
    | none => .error ⟨0x28, pairEaux 1 (if v < 32 then v else 0)⟩
    | some k => .ok (q, b, k)

/-- R199: the tile lies within one plain or ring region of the carve. -/
def tileInCarve (c : Carve) (off n : Nat) : Bool :=
  off % 256 == 0 && c.regions.any fun r => (r.kind == 1 || r.kind == 4) && r.base ≤ off && off + n ≤ r.base + r.size

/-- The pair queue, or a reset, keeps an instruction at issue (R187, R213).  R187 does not say whether an operation that has
begun still fills one of the 8 entries: it does not here (DESIGN CHOICE, log 88). -/
def Pair.holds (q : Pair) : Bool :=
  q.resetting || 8 ≤ (q.queue.filter fun o => !(q.begun.any (·.1 == o))).length

/-- R187: an entry joins the queue.  When both cores offer one in one cycle, the core taken last yields at issue
(`State.pairYields`). -/
def Pair.enter (q : Pair) (op core : Nat) : Pair := { q with queue := q.queue ++ [op], taken := core }

/-- The operation enters the pair queue and counts on its slot. -/
def Issue.enterPair (x : Issue) (s : State) (p : Ply) (q : Pair) (dests : List Target) (body : OpBody) : State :=
  let (s', p) := x.launchOp (s.fillChecked p body) p x.sh.slot false x.active dests body
  let s' := s'.putPair (q.enter s.nextId x.ply.core)
  x.finish s' p [] []

/-! ### Matrix operations -/

/-- What a matrix instruction asks of A and of B: registers, the tag of A, the tile's bytes, the block tags. -/
structure MatrixForm where
  n : Nat
  tag : Fmt
  tile : Nat
  blocks : List Fmt

/-- R189, R194, R197, R199. -/
def matrixForm : Instr → MatrixForm
  | .mma _ _ _ _ _ _ f16 => ⟨16, if f16 then .f16 else .bf16, 8192, [.raw, .f32]⟩
  | .mmai .. => ⟨16, .i8, 8192, [.raw, .i32]⟩
  | .mmag _ _ _ _ _ _ gq8 grp => ⟨32, .bf16, (if gq8 then 8192 else 4096) + 512 * (if grp = 0 then 2 else 1), [.raw, .f32]⟩
  | _ => ⟨16, .bf16, 4096, [.raw, .cf32]⟩

/-- The A registers as they are read, eight in a beat (R189). -/
def Issue.readA (x : Issue) (va n : Nat) : List Reg :=
  (List.range n).flatMap fun i =>
    let p := x.ply.land (x.time + i / 8)
    (List.range 32).map fun f => SMap.get Reg.zero (p.fibre f).v (va + i)

/-- R37: an A register is not readable at its beat. -/
def Issue.breachA (x : Issue) (s : State) (va n : Nat) : Bool :=
  x.ply.sbcheck && (List.range n).any fun i => (List.range 32).any fun f =>
    x.ply.flight.any (fun l => l.target == .v f (va + i) && x.time + i / 8 < l.time)
      || (s.longDests x.ply.handle x.course).contains (.v f (va + i))

/-- Faults of the A values by their tags (R198): eaux names the register. -/
def Issue.checkA (x : Issue) (tag : Fmt) (va : Nat) (vals : List Reg) : List FaultAt :=
  vals.zipIdx.filterMap fun (r, i) =>
    let src : Src := .v (BitVec.ofNat 8 (va + i / 32))
    if r.tag = tag then none
    else if r.tag = .poison then some ⟨0x17, x.poisonEaux (i % 32) src⟩
    else some ⟨0x09, tagEaux src r.tag⟩

/-- The cells of a tile as they stand. -/
def Carve.tile (c : Carve) (off n : Nat) : SMap (Option Granule) :=
  c.cells.filter fun e => off / 8 ≤ e.1 && e.1 < (off + n) / 8

/-- R18, R189: the A registers stand below the window. -/
def matrixWindow (i : Instr) (x : Issue) (a : BitVec 8) : List FaultAt :=
  if a.toNat + (matrixForm i).n ≤ x.ply.window then [] else [⟨0x01, 0⟩]

/-- MMA, MMAI, MMAG and MMAC at issue (R189, R190, R198).  Where the register that names the block is poisoned or has a wrong tag,
its value still names a block whose tag is judged beside it (R194 does not say: DESIGN CHOICE, log 88). -/
def matrixRun (s : State) (i : Instr) (d : Src) (a : BitVec 8) (b : Src) (keep : Bool) (mode : Issue → Rnd) :
    Host.Outcome State Fault Refusal :=
  let m := matrixForm i
  runIssue s i (matrixWindow i · a) fun x sb =>
    if x.active.isEmpty && sb.isEmpty then x.finish s x.ply [] []
    else
      let core := s.core x.ply.core
      let latch := SMap.get none core.latches x.ply.part
      let mine := match latch with
        | some l => if l.ply == x.ply.handle && l.vA == a.toNat && l.n == m.n then some l else none
        | none => none
      let other := match latch with | some l => l.ply != x.ply.handle | none => false
      let holds := match s.bound x.ply with | some (q, _) => q.holds | none => false
      if (keep && other) || holds then x.wait s
      else
        let srcs : List Src := if mine.isSome then [] else (List.range m.n).map fun i => .v (a + BitVec.ofNat 8 i)
        let hits := s.struck { x with sh := { x.sh with srcs } }
        let x := x.afterRead hits
        (fun t : State => t.settleRead x.ply.handle hits) <|
        let vals := match mine with | some l => l.vals | none => x.readA a.toNat m.n
        let sb := if sb.isEmpty && mine.isNone && x.breachA s a.toNat m.n then [⟨0x07, 0⟩] else sb
        let beats := if mine.isSome then 1 else m.n / 8
        let x := { x with first := x.time + beats - 1, last := x.time + beats - 1 }
        let off := (x.uniform b).toNat
        let chk : Except FaultAt (Pair × AccBlock) := do
          let target := x.blockOf s d
          let block : List FaultAt := match target with
            | .ok (q, _, k) =>
              let t := s.tagAhead q k
              if t = .poison then [⟨0x17, blockEaux .raw k.name⟩]
              else if m.blocks.contains t then [] else [⟨0x09, blockEaux t k.name⟩]
            | .error _ => []
          stage (sb ++ x.checkUniform okCtl d ++ block ++ x.checkA m.tag a.toNat vals ++ x.checkUniform okCtl b)
          let (q, _, k) ← target
          if tileInCarve (s.carve x.ply.skein) off m.tile then return (q, k)
          else .error ⟨0x28, pairEaux 3 k.name⟩
        match chk with
        | .error e => x.refuse s sb e
        | .ok (q, k) =>
          let core := s.core x.ply.core
          let latch' : Option Latch :=
            if mine.isSome then (if keep then latch else none)
            else if keep then some ⟨x.ply.handle, a.toNat, m.n, vals⟩ else latch
          let s := s.putCore { core with latches := SMap.set none core.latches x.ply.part latch' }
          let tiles := match q.owner k.phys with
            | some w => ((s.carve w.leader).tile off m.tile, (s.carve w.follower).tile off m.tile)
            | none => ([], [])
          x.enterPair s x.ply q [] (.mma i k.phys off (vals.map (·.val.toNat)) (mode x) x.sat tiles)

/-- The mode of a matrix operation (R200). -/
def Issue.matrixMode (x : Issue) : Rnd :=
  match x.pfx with
  | some p => if p.rnd = .inherit then .rne else p.rnd
  | none => .rne

/-- MMA (R200). -/
def execMma (h : Head) (d : Src) (a : BitVec 8) (b : Src) (slot : BitVec 3) (keep : Bool) (f16 : Bool) (s : State) :
    Host.Outcome State Fault Refusal :=
  matrixRun s (.mma h d a b slot keep f16) d a b keep Issue.matrixMode

/-- MMAI (R201). -/
def execMmai (h : Head) (d : Src) (a : BitVec 8) (b : Src) (slot : BitVec 3) (keep : Bool) (ua : Bool) (ub : Bool) (s : State) :
    Host.Outcome State Fault Refusal :=
  matrixRun s (.mmai h d a b slot keep ua ub) d a b keep fun _ => .rne

/-- MMAG (R202). -/
def execMmag (h : Head) (d : Src) (a : BitVec 8) (b : Src) (slot : BitVec 3) (keep : Bool) (gq8 : Bool) (grp : BitVec 2) (s : State) :
    Host.Outcome State Fault Refusal :=
  matrixRun s (.mmag h d a b slot keep gq8 grp) d a b keep Issue.matrixMode

/-- MMAC (R203). -/
def execMmac (h : Head) (d : Src) (a : BitVec 8) (b : Src) (slot : BitVec 3) (keep : Bool) (s : State) :
    Host.Outcome State Fault Refusal :=
  matrixRun s (.mmac h d a b slot keep) d a b keep Issue.matrixMode

/-! ### Their arithmetic -/

/-- The contents of a block rewritten, element by element of its image; zeros are not listed. -/
def remap (f : Nat → Nat → Nat) : Nat → Nat → SMap Nat → SMap Nat
  | 0, _, _ => []
  | n + 1, i, m =>
    let (old, rest) := match m with
      | [] => (0, [])
      | (j, a) :: r => if j = i then (a, r) else (0, (j, a) :: r)
    let v := f i old
    if v = 0 then remap f n (i + 1) rest else (i, v) :: remap f n (i + 1) rest

/-- Element (m, k) of A (R189), with `per` sub-elements of `w` bits in a register. -/
def elemA (a : Array Nat) (per w m k : Nat) : Nat :=
  bitsOf (a.getD ((2 * (k / per) + m / 32) * 32 + m % 32) 0) (w * (k % per)) w

/-- `n` bytes of a tile, at an offset in it. -/
def tileBytes (t : Array Nat) (off n : Nat) : Nat := bitsOf (t.getD (off / 8) 0) (8 * (off % 8)) (8 * n)

/-- Steps of an accumulation, two products in each (R200). -/
def dotSteps (mode : Rnd) (a b : Nat → Num) : Nat → Nat → Nat → Nat
  | 0, _, acc => acc
  | n + 1, k, acc =>
    dotSteps mode a b n (k + 2)
      (bin32.sum mode false [(bin32.decode acc).term, (a k).times (b k), (a (k + 1)).times (b (k + 1))]).bits

/-- The row and the column within a core of a 32-bit word of the image, and its core (R193). -/
def imageRow (i : Nat) : Nat := i % 8192 / 128
def imageCol (i : Nat) : Nat := i % 128
def imageCore (i : Nat) : Nat := i / 8192

/-- R200. -/
def mmaElem (f16 : Bool) (mode : Rnd) (a t : Array Nat) (m c acc : Nat) : Nat :=
  let bin := if f16 then bin16 else binB16
  dotSteps mode (fun k => bin.decode (elemA a 4 16 m k)) (fun k => bin.decode (tileBytes t (256 * k + 2 * c) 2)) 16 0 acc

/-- R201. -/
def mmaiElem (ua ub : Bool) (sat : BitVec 2) (a t : Array Nat) (m c acc : Nat) : Nat :=
  let x := (List.range 64).foldl (init := signed 32 acc) fun x k =>
    x + readInt ua 8 (elemA a 8 8 m k) * readInt ub 8 (tileBytes t (128 * k + c) 1)
  wrap 32 (if sat = 1 then clampInt (-(2 ^ 31)) (2 ^ 31 - 1) x else if sat = 2 then clampInt 0 (2 ^ 31 - 1) x else x)

/-- The header of a group row (R117, R202): zero point in [23:16], scale in [15:0]. -/
def groupHeader (gq8 : Bool) (t : Array Nat) (r c : Nat) : Nat := tileBytes t ((if gq8 then 8192 else 4096) + 512 * r + 4 * c) 4

def groupWeight (gq8 : Bool) (t : Array Nat) (k c : Nat) : Nat :=
  if gq8 then tileBytes t (128 * k + c) 1 else bitsOf (tileBytes t (64 * k + c / 2) 1) (4 * (c % 2)) 4


/-- R202. -/
def mmagElem (gq8 : Bool) (grp : BitVec 2) (mode : Rnd) (a t : Array Nat) (m c acc : Nat) : Nat :=
  let parts := if grp = 0 then [(0, 0, 32), (1, 32, 32)] else [(0, 0, 64)]
  parts.foldl (init := acc) fun acc (r, k0, len) =>
    let h := groupHeader gq8 t r c
    let z := bitsOf h 16 8
    let sum := dotSteps mode (fun k => binB16.decode (elemA a 4 16 m k))
      (fun k => numOfInt ((groupWeight gq8 t k c : Int) - z)) (len / 2) k0 0
    let p := bin32.sum mode false [(bin32.decode sum).times (bin16.decode (bitsOf h 0 16))]
    (bin32.sum mode false [(bin32.decode acc).term, (bin32.decode p.bits).term]).bits

/-- R203: the real or the imaginary part. -/
def mmacElem (mode : Rnd) (imag : Bool) (a t : Array Nat) (m c acc : Nat) : Nat :=
  (List.range 16).foldl (init := acc) fun acc k =>
    let ar := binB16.decode (elemA a 4 16 m (2 * k))
    let ai := binB16.decode (elemA a 4 16 m (2 * k + 1))
    let br := binB16.decode (tileBytes t (256 * k + 4 * c) 2)
    let bi := binB16.decode (tileBytes t (256 * k + 4 * c + 2) 2)
    let l := if imag then [ar.times bi, ai.times br] else [ar.times br, ai.neg.times bi]
    (bin32.sum mode false ((bin32.decode acc).term :: l)).bits

/-- The new word of the image of a block. -/
def matrixElem (i : Instr) (mode : Rnd) (sat : BitVec 2) (a : Array Nat) (t : Nat → Array Nat) (w acc : Nat) : Nat :=
  let m := imageRow w
  let c := imageCol w
  let t := t (imageCore w)
  match i with
  | .mma _ _ _ _ _ _ f16 => mmaElem f16 mode a t m c acc
  | .mmai _ _ _ _ _ _ ua ub => mmaiElem ua ub sat a t m c acc
  | .mmag _ _ _ _ _ _ gq8 grp => mmagElem gq8 grp mode a t m c acc
  | _ => mmacElem mode (c % 2 == 1) a t m (c / 2) acc

/-- The granule of a tile that an operation reads: where it was written since the issue, the old one or the new one
(R199), by a free value. -/
def tileGranule (old : SMap (Option Granule)) (c : Carve) (ctr x : Nat) : Granule :=
  let was := (SMap.get none old (x / 8)).getD ⟨0, selv 0 (x / 8 * 8)⟩
  if (Config.freeValue (ctr + x / 8)).getLsbD 0 then c.granule x else was

/-- The granules of a tile. -/
def tileRead (old : SMap (Option Granule)) (c : Carve) (ctr off n : Nat) : List (Granule × Nat) :=
  (List.range (n / 8)).map fun i => (tileGranule old c ctr (off + 8 * i), off + 8 * i)

/-- R211: the causes found in the granules of a tile. -/
def tileCauses (l : List (Granule × Nat)) : List Nat := judgedCauses (l.map fun (g, x) => g.judge x) true

/-- Group rows of an mmag, whose headers must have [31:24] zero (R117). -/
def badHeader (i : Instr) (t : Array Nat) : Bool :=
  match i with
  | .mmag _ _ _ _ _ _ gq8 grp =>
    (List.range (if grp = 0 then 2 else 1)).any fun r => (List.range 128).any fun c => bitsOf (groupHeader gq8 t r c) 24 8 != 0
  | _ => false

/-- A fault that a pair operation finds after issue (R211). -/
def State.pairDefer (s : State) (o : Op) (causes : List Nat) : State :=
  s.modPly o.ply fun p => causes.foldl (fun p c => p.defer c o.left (BitVec.ofNat 64 (o.addr % 2 ^ 57))) p

/-- A matrix operation retires: the block's new contents, and the faults that it defers.  A block that is already poisoned
stays so (log 24). -/
def State.matrixRetire (s : State) (q : Pair) (o : Op) : State × List Nat :=
  match o.body with
  | .mma i phys off a mode sat tiles =>
    match q.block phys, q.owner phys with
    | some k, some w =>
      let n := (matrixForm i).tile
      let t0 := tileRead tiles.1 (s.carve w.leader) s.freeCtr off n
      let t1 := tileRead tiles.2 (s.carve w.follower) (s.freeCtr + 2 ^ 20) off n
      let arr (l : List (Granule × Nat)) : Array Nat := (l.map (·.1.data.toNat)).toArray
      let s := { s with freeCtr := s.freeCtr + 2 ^ 21 }
      let headers := badHeader i (arr t0) || badHeader i (arr t1)
      let causes := (if headers then [0x09] else []) ++ tileCauses (t0 ++ t1)
      if causes.isEmpty && k.tag != .poison then
        let aa := a.toArray
        let b0 := arr t0
        let b1 := arr t1
        let words := remap (matrixElem i mode sat aa fun c => if c = 0 then b0 else b1) 16384 0 k.words
        (s.putPair (q.modBlock phys fun k => { k with tag := o.body.tagAfter k.tag, words }), [])
      else (s.putPair (q.modBlock phys AccBlock.poison), causes)
    | _, _ => (s, [])
  | _ => (s, [])

/-! ### The accumulator instructions -/

/-- R196: a request joins the allocator's queue; of two that arrive in one cycle the leader's stands first. -/
def State.askIn (s : State) (q : Pair) (now core op : Nat) : List Nat :=
  let follower (id : Nat) : Bool := match s.op id with
    | some o => o.time == now && (match s.ply o.ply with | some p => p.core != q.core | none => false)
    | none => false
  if core = q.core then q.allocs.filter (!follower ·) ++ op :: q.allocs.filter follower else q.allocs ++ [op]

/-- ACCALLOC and ACCTRY at issue (R205). -/
def allocRun (s : State) (i : Instr) (dests : Issue → List Target) (body : OpBody) : Host.Outcome State Fault Refusal :=
  runIssue s i (fun _ => []) fun x sb =>
    if x.active.isEmpty && sb.isEmpty then x.finish s x.ply [] []
    else
      let chk : Except FaultAt Pair := do
        stage sb
        match s.bound x.ply with
        | none => .error ⟨0x28, pairEaux 2 0⟩
        | some (q, _) => return q
      match chk with
      | .error e => x.refuse s sb e
      | .ok q =>
        let (s', p) := x.launchOp s x.ply x.sh.slot false x.active (dests x) body
        x.finish (s'.putPair { q with allocs := s'.askIn q x.time x.ply.core s.nextId }) p [] []

/-- ACCALLOC (R205). -/
def execAccalloc (h : Head) (d : BitVec 6) (slot : BitVec 3) (s : State) : Host.Outcome State Fault Refusal :=
  allocRun s (.accalloc h d slot) (fun _ => [.s d.toNat]) (.accalloc d.toNat)

/-- ACCTRY (R205). -/
def execAcctry (h : Head) (d : BitVec 6) (slot : BitVec 3) (pn : BitVec 4) (s : State) : Host.Outcome State Fault Refusal :=
  allocRun s (.acctry h d slot pn)
    (fun x => .s d.toNat :: if pn = 0 then [] else x.active.map fun f => .p f pn.toNat) (.acctry d.toNat pn.toNat)

/-- An accumulator instruction that names a block by a uniform source and enters the queue; `more` gives its other
faults by stage.  A full queue keeps it at issue, and no fault is raised (R187). -/
def blockRun (s : State) (i : Instr) (d : Src) (extra : Issue → List FaultAt) (operands access : Issue → List FaultAt)
    (dests : Issue → List Target) (act : Issue → Pair → AccBlock → Pair) (body : Issue → AccBlock → OpBody) :
    Host.Outcome State Fault Refusal :=
  runIssue s i extra fun x sb =>
    if x.active.isEmpty && sb.isEmpty then x.finish s x.ply [] []
    else
      let holds := match s.bound x.ply with | some (q, _) => q.holds | none => false
      let chk : Except FaultAt (Pair × AccBlock) := do
        stage (sb ++ x.checkUniform okCtl d ++ operands x)
        stage (access x)
        let (q, _, k) ← x.blockOf s d
        return (q, k)
      if holds then x.wait s
      else match chk with
      | .error e => x.refuse s sb e
      | .ok (q, k) => x.enterPair s x.ply (act x q k) (dests x) (body x k)

/-- ACCFREE (R206): the name is unheld from here on. -/
def execAccfree (h : Head) (d : Src) (slot : BitVec 3) (s : State) : Host.Outcome State Fault Refusal :=
  blockRun s (.accfree h d slot) d (fun _ => []) (fun _ => []) (fun _ => []) (fun _ => [])
    (fun _ q k => q.modBlock k.phys fun (k : AccBlock) => { k with held := false }) (fun _ k => .accfree k.phys)

/-- ACCZERO (R206). -/
def execAcczero (h : Head) (d : Src) (slot : BitVec 3) (s : State) : Host.Outcome State Fault Refusal :=
  blockRun s (.acczero h d slot) d (fun _ => []) (fun _ => []) (fun _ => []) (fun _ => [])
    (fun _ q _ => q) (fun _ k => .acczero k.phys)

/-- The address of an accumulator transfer (R208). -/
def Issue.accVa (x : Issue) (a : BitVec 6) (off : BitVec 14) : Nat := ((x.reg 0 (.s a)).val + off.signExtend 64).toNat

def Issue.accAccess (x : Issue) (s : State) (a : BitVec 6) (off : BitVec 14) (acc : Access) : List FaultAt :=
  let va := x.accVa a off
  (if va % 256 = 0 then [] else [⟨0x18, BitVec.ofNat 64 (va % 2 ^ 57)⟩]) ++ s.rangeFaults x.ply va 65536 acc

/-- ACCLD (R207, R208). -/
def execAccld (h : Head) (d : Src) (a : BitVec 6) (off : BitVec 14) (slot : BitVec 3) (tag : Fmt) (s : State) :
    Host.Outcome State Fault Refusal :=
  blockRun s (.accld h d a off slot tag) d (fun _ => []) (fun x => x.check 0 okCtl (.s a)) (fun x => x.accAccess s a off .read)
    (fun _ => []) (fun _ q _ => q) (fun x k => .accld k.phys (x.accVa a off) tag)

/-- ACCST (R207, R208). -/
def execAccst (h : Head) (d : Src) (a : BitVec 6) (off : BitVec 14) (slot : BitVec 3) (s : State) :
    Host.Outcome State Fault Refusal :=
  blockRun s (.accst h d a off slot) d (fun _ => []) (fun x => x.check 0 okCtl (.s a)) (fun x => x.accAccess s a off .write)
    (fun _ => []) (fun _ q _ => q) (fun x k => .accst k.phys (x.accVa a off))

/-- The registers that MREAD writes in a fibre. -/
def mreadDests (d : BitVec 8) (f : Nat) : List Target := (List.range 16).map fun i => .v f (d.toNat + i)

/-- R18, R209: the registers that MREAD writes stand below the window. -/
def mreadWindow (x : Issue) (d : BitVec 8) : List FaultAt := if d.toNat + 16 ≤ x.ply.window then [] else [⟨0x01, 0⟩]

/-- MREAD (R209). -/
def execMread (h : Head) (d : BitVec 8) (a : Src) (slot : BitVec 3) (half : Bool) (g : BitVec 3) (s : State) :
    Host.Outcome State Fault Refusal :=
  let mine (x : Issue) : List Target := x.active.flatMap (mreadDests d)
  blockRun s (.mread h d a slot half g) a (mreadWindow · d) (fun _ => []) (fun _ => []) mine (fun _ q _ => q) (fun _ k => .mread k.phys d.toNat half g.toNat)

/-! ### The queue (R187, R204) -/

/-- An operation may begin (R187). -/
def State.pairMayBegin (s : State) (q : Pair) (op : Nat) : Bool :=
  !q.resetting && q.queue.contains op && !(q.begun.any (·.1 == op))
    && match s.op op with
      | none => false
      | some o =>
        let earlier := (q.queue.takeWhile (· != op)).filterMap s.op
        !(earlier.any fun e => e.body.accBlock == o.body.accBlock)
          && (o.body.arrayCycles.isNone || !(q.begun.any fun b => match s.op b.1 with
                | some e => e.body.arrayCycles.isSome
                | none => false))

/-- PAIR_OP_BEGIN (R187). -/
def execPairOpBegin (pair : Nat) (op : Nat) (s : State) : Host.Outcome State Fault Refusal :=
  match s.pair pair with
  | none => .next s
  | some q => if s.pairMayBegin q op then .next (s.putPair { q with begun := q.begun ++ [(op, s.clock)] }) else .next s

/-- The block of an ACCFREE goes back in cycle `now`; one of the reservation makes a name of it available (R205). -/
def Pair.dropBlock (q : Pair) (phys now : Nat) : Pair :=
  { q with binds := q.binds.map fun (b : PairBind) => { b with
      blocks := b.blocks.filter (·.phys != phys)
      freed := if b.blocks.any fun k => k.phys == phys && !k.borrowed then b.freed ++ [now] else b.freed } }

/-- R209: the register vD + i of MREAD in lane l. -/
def mreadReg (k : AccBlock) (half : Bool) (g i l : Nat) : Reg :=
  let m := l + if half then 32 else 0
  let w (j : Nat) : Nat := SMap.get 0 k.words (8192 * (j / 128) + 128 * m + j % 128)
  match k.tag with
  | .poison => ⟨0, .poison⟩
  -- the two words of complex element n are those of FP32 columns 2n and 2n + 1 (R193)
  | t => ⟨BitVec.ofNat 64 (w (32 * g + 2 * i) + w (32 * g + 2 * i + 1) * 2 ^ 32), t⟩

/-- The effect of an array operation on its block, in its last array cycle: with the faults that it defers and the registers
that it will write. -/
def State.arrayRetire (s : State) (q : Pair) (o : Op) : State × List Nat × List (Nat × Nat × Reg) :=
  match o.body with
  | .mma .. => let (s, causes) := s.matrixRetire q o; (s, causes, [])
  | .acczero phys => (s.putPair (q.modBlock phys fun (k : AccBlock) => { k with tag := .raw, words := [] }), [], [])
  | .accfree phys => (s.putPair (q.dropBlock phys s.clock), [], [])
  | .mread phys d half g =>
    match q.block phys with
    | none => (s, [], [])
    | some k => (s, [], o.left.flatMap fun f => (List.range 16).map fun i => (f, d + i, mreadReg k half g i f))
  | _ => (s, [], [])

/-- The operation leaves the pair queue: its block and the arrays are free (R204). -/
def Pair.leave (q : Pair) (op : Nat) : Pair :=
  { q with
    queue := q.queue.filter (· != op), begun := q.begun.filter (·.1 != op)
    ending := q.ending.filter (·.op != op), struck := q.struck.filter (· != op) }

/-- The operation leaves the pair queue and its slot. -/
def State.pairDone (s : State) (pair op : Nat) : State :=
  let s := s.dropOp op
  match s.pair pair with
  | none => s
  | some q => s.putPair (q.leave op)

/-- The causes that an operation defers because an error struck a word that it read (R212). -/
def Pair.struckCause (q : Pair) (op : Nat) : List Nat := if q.struck.contains op then [0x17] else []

/-- Its slot is cleared (R204): it writes its registers and reports its faults. -/
def State.pairSettle (s : State) (pair : Nat) (o : Op) (e : PairEnd) : State :=
  let s := { s with clock := Nat.max s.clock e.time }
  let s := s.modPly o.ply fun p => e.regs.foldl (fun p r => p.setV r.1 r.2.1 r.2.2) p
  (s.pairDefer o e.causes).pairDone pair o.id

/-- PAIR_OP_RETIRE (R187, R204): the array cycles of an operation end, which frees its block and the arrays; taken again,
the slot is cleared, 4 cycles after that, of MREAD 8. -/
def execPairOpRetire (pair : Nat) (op : Nat) (s : State) : Host.Outcome State Fault Refusal :=
  match s.pair pair, s.op op with
  | some q, some o =>
    match q.ending.find? (·.op == op), q.begun.find? (·.1 == op), o.body.arrayCycles with
    | some e, _, _ => .next (s.pairSettle pair o e)
    | none, some (_, t), some n =>
      let late := match o.body with | .mread .. => 8 | _ => 4
      let struck := q.struckCause op
      let (s, causes, regs) := { s with clock := Nat.max s.clock (t + n) }.arrayRetire q o
      match s.pair pair with
      | none => .next s
      | some q =>
        let e : PairEnd := ⟨op, t + n + late, regs, causes ++ struck⟩
        let q := q.leave op
        .next (s.putPair { q with ending := q.ending ++ [e] })
    | _, _, _ => .next s
  | _, _ => .next s

/-! ### Allocation (R195, R196) -/

/-- Blocks of the pool: neither reserved nor borrowed. -/
def Pair.pool (q : Pair) : Nat :=
  32 - ((q.binds.map (·.reserve)).foldl (· + ·) 0 + (q.blocks.filter (·.borrowed)).length)

/-- A name for the skein pair: a zeroed block, or none. -/
def Pair.allocate (q : Pair) (b : PairBind) (try_ : Bool) : Option (Nat × Pair) :=
  let reserved := (b.blocks.filter (!·.borrowed)).length < b.reserve
  let name := (List.range 32).find? fun n => (b.named n).isNone
  let phys := (List.range 32).find? fun n => (q.block n).isNone
  if !reserved && !(try_ && 0 < q.pool) then none
  else
    match name, phys with
    | some n, some k =>
      let new : AccBlock := { name := n, phys := k, held := true, borrowed := !reserved, tag := .raw, words := [] }
      let left := b.reserve - (b.blocks.filter (!·.borrowed)).length
      let freed := if reserved && left ≤ b.freed.length then b.freed.drop 1 else b.freed
      some (n, { q with binds := q.binds.map fun (c : PairBind) =>
        if c.leader == b.leader then { c with blocks := c.blocks ++ [new], freed } else c })
    | _, _ => none

/-- The cycle from which a name of its reservation has been available to a skein pair (R205): the oldest of those that came
back, when no block of the reservation has been free for longer. -/
def PairBind.availableAt (b : PairBind) : Nat :=
  if b.reserve - (b.blocks.filter (!·.borrowed)).length ≤ b.freed.length then b.freed.headD 0 else 0

/-- The results of a settled request (R205). -/
def State.allocResult (s : State) (o : Op) (dst pn : Nat) (v : Option Nat) : State :=
  let r : Reg := ⟨match v with | some n => BitVec.ofNat 64 n | none => -1, .i64⟩
  let s := s.modPly o.ply fun p =>
    let p := p.setS dst r
    p.modFibres o.left fun _ f => { f with pred := setPred f.pred pn v.isSome }
  s.dropOp o.id

/-- A request served; none while it waits (R196). -/
def State.serveAlloc (s : State) (q : Pair) (o : Op) : Option State :=
  match (s.ply o.ply).bind s.bound with
  | none => none
  | some (_, b) =>
    let done (q' : Pair) (s : State) : State := s.putPair { q' with allocs := q'.allocs.filter (· != o.id) }
    match o.body with
    -- R205: four cycles after the name is available
    | .accalloc dst => (q.allocate b false).map fun (n, q') =>
        { done q' s with clock := Nat.max s.clock (Nat.max o.time b.availableAt + 4) }.allocResult o dst 0 (some n)
    | .acctry dst pn =>
      let s := { s with clock := Nat.max s.clock (o.time + 4) }
      match q.allocate b true with
      | some (n, q') => some ((done q' s).allocResult o dst pn (some n))
      | none => some ((done q s).allocResult o dst pn none)
    | _ => none

/-- ACCALLOC_SETTLE (R196): the first request in issue order that need not wait. -/
def execAccallocSettle (pair : Nat) (s : State) : Host.Outcome State Fault Refusal :=
  match s.pair pair with
  | none => .next s
  | some q =>
    if q.resetting then .next s
    else .next (((q.allocs.filterMap s.op).findSome? (s.serveAlloc q)).getD s)

/-! ### Transfers (R208) -/

/-- The words of a granule of the image of a block. -/
def AccBlock.granule (k : AccBlock) (i : Nat) : Word :=
  BitVec.ofNat 64 (SMap.get 0 k.words (2 * i) + SMap.get 0 k.words (2 * i + 1) * 2 ^ 32)

/-- Granule `i` of the image goes to memory. -/
def State.accStore (s : State) (p : Ply) (va : Nat) (pages : List (Nat × Nat × Nat)) (k : AccBlock) (i : Nat) : State :=
  match s.locate (coreAper p.core) p.asid (va + 8 * i) .write pages with
  | .error _ => s
  | .ok (a, ia) =>
    ((s.peerWrite p a).writeRegFor p a ia (if k.tag = .poison then ⟨0, .poison⟩ else ⟨k.granule i, .raw⟩)).engineWrote p ia

/-- The places of the granules of an image. -/
def State.accPlaces (s : State) (p : Ply) (va : Nat) (acc : Access) (pages : List (Nat × Nat × Nat)) : List (Nat × Nat) :=
  (List.range 8192).filterMap fun i => match s.locate (coreAper p.core) p.asid (va + 8 * i) acc pages with
    | .error _ => none
    | .ok x => some x

/-- The causes for which the home refuses pages of an image after the issue (R294), each once. -/
def State.accFails (s : State) (core asid va : Nat) (acc : Access) (pages : List (Nat × Nat × Nat)) : List Nat :=
  ((List.range 2).filterMap fun i => match s.locate (coreAper core) asid (va + 65535 * i) acc pages with
    | .ok _ => none
    | .error f => some f.cause).eraseDups

/-- 32-bit words of an image, without zeros. -/
def imageWords (l : List Word) : SMap Nat :=
  (l.zipIdx.flatMap fun (w, i) => [(2 * i, bitsOf w.toNat 0 32), (2 * i + 1, bitsOf w.toNat 32 32)]).filter (·.2 != 0)

/-- The bytes of a transfer are charged at their stacks (R402, log 83); held while they are not within the budget. -/
def State.spendAcc (s : State) (o : Op) (p : Ply) (va : Nat) (acc : Access) : State × Bool :=
  s.spendLines o.id (s.holderOf p) [] fun s => (s.accPlaces p va acc o.pages).map (·.1)

/-- ACC_TRANSFER_COMPLETE (R204, R208).  It uses the ASID and the pages that were checked at its issue (R284, R302). -/
def execAccTransferComplete (pair : Nat) (op : Nat) (s : State) : Host.Outcome State Fault Refusal :=
  match s.pair pair, s.op op with
  | some q, some o =>
    match s.issuer o, q.begun.any (·.1 == op) with
    | some p, true =>
      match o.body with
      | .accst phys va =>
        match q.block phys with
        | none => .next (s.pairDone pair op)
        | some k =>
          if !s.forkReady o then .next s
          else match s.spendAcc o p va .write with
          | (s, false) => .next s
          | (s, true) =>
            -- the granules of a page that its home refuses are not written
            let s := (List.range 8192).foldl (fun s i => s.accStore p va o.pages k i) s
            .next ((s.pairDefer o (s.accFails p.core p.asid va .write o.pages ++ q.struckCause op)).pairDone pair op)
      | .accld phys va tag =>
        if !s.forkReady o then .next s
        else match s.spendAcc o p va .read with
        | (s, false) => .next s
        | (s, true) =>
        match s.accFails p.core p.asid va .read o.pages with
        | c :: cs => .next (((s.putPair (q.modBlock phys AccBlock.poison)).pairDefer o (c :: cs)).pairDone pair op)
        | [] =>
        let places := s.accPlaces p va .read o.pages
        let l := places.map fun x => judged (s.granuleFor p x.1 x.2) x.2
        let s := places.foldl (fun s x => s.noteRead p x.1 x.2) s
        let s := match judgedCauses l false with
          | c :: cs => (s.putPair (q.modBlock phys AccBlock.poison)).pairDefer o (c :: cs)
          | [] =>
            if l.contains .poison then s.putPair (q.modBlock phys AccBlock.poison)
            else
              let ws := l.map fun (d : Delivered) => match d with | .valid w => w | _ => 0
              s.putPair (q.modBlock phys fun (k : AccBlock) => { k with tag, words := imageWords ws })
        .next (s.pairDone pair op)
      | _ => .next s
    | _, _ => .next s
  | _, _ => .next s

/-! ### An error in a word of a block (R212) -/

/-- Operations that read the words of their block. -/
def OpBody.readsBlock : OpBody → Bool
  | .mma .. | .accst .. | .mread .. => true
  | _ => false

/-- R212: a correctable error is counted; an uncorrectable one is logged and poisons the block, and the operations under way
that read it will report it. -/
def State.strikeBlock (s : State) (core phys w : Nat) (uncorrectable : Bool) : State :=
  match s.pairs.find? fun q => q.core == core || q.core + 1 == core with
  | none => s
  | some q =>
    if !uncorrectable then { s with corrected := SMap.set 0 s.corrected core (SMap.get 0 s.corrected core + 1) }
    else
      let hit := (q.begun.map (·.1)).filter fun id => match s.op id with
        | some o => o.body.accBlock == some phys && o.body.readsBlock
        | none => false
      let q := q.modBlock phys AccBlock.poison
      (s.putPair { q with struck := q.struck ++ hit.filter (!q.struck.contains ·) }).logEvent 13 [core, phys, w]

/-! ### Pair reset (R213) -/

/-- A cancelled ACCST that had begun: each line written wholly or not at all, by a free value. -/
def State.partialStore (s : State) (p : Ply) (va : Nat) (pages : List (Nat × Nat × Nat)) (k : AccBlock) : State :=
  let ctr := s.freeCtr
  let s := (List.range 8192).foldl (init := s) fun s i =>
    if (Config.freeValue (ctr + i / 8)).getLsbD 0 then s.accStore p va pages k i else s
  { s with freeCtr := ctr + 1024 }

/-- An operation is cancelled; its slot loses one. -/
def State.cancelPairOp (s : State) (pair : Nat) (o : Op) : State :=
  match s.pair pair with
  | none => s
  | some q =>
    let s := match o.body, s.issuer o, q.begun.any (·.1 == o.id) with
      | .accst phys va, some p, true => match q.block phys with
        | some k => s.partialStore p va o.pages k
        | none => s
      | _, _, _ => s
    let s := match o.body.accBlock, s.pair pair with
      | some phys, some q => s.putPair (match o.body with
        | .accfree _ => q.dropBlock phys s.clock
        | _ => q.modBlock phys AccBlock.poison)
      | _, _ => s
    s.pairDone pair o.id

/-- The reset begins: its effects on the pair. -/
def State.pairReset (s : State) (pair : Nat) : State :=
  match s.pair pair with
  | none => s
  | some q =>
    let ops := q.queue.filterMap s.op
    let plies := (ops.map (·.ply)).eraseDups
    let s := plies.foldl (init := s) fun s h =>
      let mine := ops.filter (·.ply == h)
      let fs := sortBy id (mine.flatMap (·.left)).eraseDups
      match mine with
      | [] => s
      | o :: _ => s.modPly h fun p => p.defer 0x29 fs (BitVec.ofNat 64 (o.addr % 2 ^ 57))
    let s := ops.foldl (fun s o => s.cancelPairOp pair o) s
    match s.pair pair with
    | none => s
    | some q => s.putPair { q with resetting := true }

/-- PAIR_OP_TIMEOUT (R213): an array operation has not retired 4,096 cycles after it began. -/
def execPairOpTimeout (pair : Nat) (s : State) : Host.Outcome State Fault Refusal :=
  match s.pair pair with
  | none => .next s
  | some q =>
    let late := q.begun.any fun (op, t) => t + 4096 ≤ s.clock && match s.op op with
      | some o => o.body.arrayCycles.isSome
      | none => false
    if late then .next (s.pairReset pair) else .next s

/-- PAIR_RESET (R213): asked for by Moafer, or after an error in the array datapath. -/
def execPairReset (pair : Nat) (s : State) : Host.Outcome State Fault Refusal := .next (s.pairReset pair)

/-- PAIR_RESET_COMPLETE (R213). -/
def execPairResetComplete (pair : Nat) (s : State) : Host.Outcome State Fault Refusal :=
  match s.pair pair with
  | none => .next s
  | some q => .next (s.putPair { q with resetting := false })

end Sys2Proof.Machine
end

