-- ==== Sys2Proof/Machine/MemOps.lean ====
section
/-! DEFINITION.  Device memory as fibres reach it: loads, stores, atomics, memory-side arithmetic, fences, the wait
table (08 R237 to R263; 10 R290 to R294; 12 R328, R329). -/

namespace Sys2Proof.Machine

/-! ### Order (R241 to R249) -/

/-- The access of a fibre that an operation still makes. -/
def Op.pending (o : Op) (f : Nat) : Option (MemOp × MItem) :=
  match o.body with
  | .mem m _ =>
    if o.left.contains f then (m.items.find? fun i => i.fibre == f && i.state != .done).map (m, ·) else none
  | _ => none

def MemOp.acquires (m : MemOp) : Bool := m.cls == .waitv || m.cls == .ncqw || (m.cls == .load && m.sync)

/-- R244, R329: st.rel, WAKEV, and a store to a KICK register. -/
def State.releases (s : State) (asid : Nat) (m : MemOp) (i : MItem) : Bool :=
  m.cls == .wakev || (m.cls == .store && (m.sync || (s.isKick asid i.ia && i.ia % 0x400 == 0x10)))

def MemClass.writes : MemClass → Bool
  | .store | .atom => true
  | _ => false

def MemClass.reads : MemClass → Bool
  | .load | .atom | .waitv | .ncqw => true
  | _ => false

/-- An access of a fibre may not perform before an earlier one has (R242 to R245). -/
def State.mustFollow (s : State) (asid : Nat) (e : MemOp × MItem) (l : MemOp × MItem) : Bool :=
  let (m', i') := e
  let (m, i) := l
  let same := i'.ia / 8 == i.ia / 8
  let sync' := m'.acquires || s.releases asid m' i'
  let sync := m.acquires || s.releases asid m i
  m'.cls != .redms && m.cls != .redms
    && ((same && (i.kind != 2 || (m'.cls.writes && m.cls.reads)))
      || (i'.kind == 0 && i.kind == 0)
      || (s.releases asid m i && i'.kind != 2)
      || (m'.acquires && i.kind != 2)
      || (sync' && sync))

/-- The reads of a CHARTLD, which are loads of its lowest active fibre (R54), come before an access of that fibre: those of a
granule before one to it, those of an SO page before one to an SO page, those that are not UN before a release (R242 to R245). -/
def State.chartldFirst (s : State) (e : Op) (f : Nat) (asid : Nat) (m : MemOp) (i : MItem) : Bool :=
  match e.body with
  | .chartld va blk _ => e.left.headD 64 == f && m.cls != .redms && e.pages.any fun (v, ia, kind) =>
      let a := v * 65536 + i.ia % 65536
      (ia == i.ia / 65536 && i.kind != 2 && va ≤ a && a < va + chartldBytes blk)
        || (kind == 0 && i.kind == 0) || (s.releases asid m i && kind != 2)
  | _ => false

/-- The access of a fibre may perform now. -/
def State.mayPerform (s : State) (o : Op) (f : Nat) : Bool :=
  match o.pending f with
  | some (m, i) =>
    (match i.state with | .waiting | .last => true | _ => false)
      && !(s.ops.any fun e => e.ply == o.ply && e.id < o.id && match e.pending f with
            | some x => s.mustFollow o.asid x (m, i)
            | none => s.chartldFirst e f o.asid m i)
      && (m.cls != .wakev || m.items.all fun j => f ≤ j.fibre || j.state == .done || !o.left.contains j.fibre)
  | none => false

/-! ### The memory-side unit (R254 to R257) -/

/-- An integer operation of ATOM or REDMS on numbers of `w` bits. -/
def memInt (op w old b : Nat) : Nat :=
  let pick (ui less : Bool) : Nat :=
    let x := readInt ui w old
    let y := readInt ui w b
    if (if less then decide (y < x) else decide (x < y)) then b % 2 ^ w else old % 2 ^ w
  match op with
  | 0 => (old + b) % 2 ^ w
  | 2 => pick false true
  | 3 => pick true true
  | 4 => pick false false
  | 5 => pick true false
  | 6 => old &&& b
  | 7 => old ||| b
  | 8 => old ^^^ b
  | _ => b % 2 ^ w

/-- A floating-point sum, subnormals kept (R254, R257). -/
def memAdd (b : Bin) (x y : Nat) : Nat := (b.sum .rne false [(b.decode x).term, (b.decode y).term]).bits

/-- Bytes that an ATOM accesses, by the tag of B (R254); 0 for a tag it does not take. -/
def atomBytes (op : Nat) (t : Fmt) : Nat :=
  match t with
  | .i64 => if op = 1 then 0 else 8
  | .i32 => if op = 1 then 0 else 4
  | .raw => if 6 ≤ op then 8 else 0
  | .f32 | .bf16 => if op = 1 then 4 else 0
  | _ => 0

/-- The new value of an ATOM; none where .cas does not match. -/
def atomNew (op : Nat) (t : Fmt) (old b c : Nat) : Option Nat :=
  let w := 8 * atomBytes op t
  match op with
  | 1 => some (match t with
    | .bf16 => memAdd binB16 (bitsOf old 0 16) (bitsOf b 0 16) + memAdd binB16 (bitsOf old 16 16) (bitsOf b 16 16) * 2 ^ 16
    | _ => memAdd bin32 (old % 2 ^ 32) (b % 2 ^ 32))
  | 10 => if old = c % 2 ^ w then some (b % 2 ^ w) else none
  | _ => some (memInt op w old (b % 2 ^ w))

/-- One element of a REDMS (R257): op 0 .add, 1 .max, 2 .min. -/
def redmsElem (fmt : Fmt) (ui : Bool) (op old b : Nat) : Nat :=
  if fmt.isInt then memInt (if op = 0 then 0 else (if op = 1 then 4 else 2) + b2n ui) fmt.width old b
  else if op = 0 then memAdd (binOf fmt) old b
  else ((binOf fmt).minmax (op == 2) false old b).bits

def redmsNew (fmt : Fmt) (ui : Bool) (op old b : Nat) : Word :=
  buildSub fmt fun e => redmsElem fmt ui op (subAt fmt old e) (subAt fmt b e)

/-- Fields of a MemOp's code: an ATOM's op; a REDMS's op, .ui and format. -/
def redmsCode (op : Nat) (ui : Bool) : Nat := op + 4 * b2n ui

/-! ### An access at its home (R251, R255, R257, R261, R294) -/

/-- The rights of an access by its class (R293). -/
def MemClass.access : MemClass → Access
  | .store => .write
  | .atom | .redms => .atomic
  | _ => .read

/-- A waiter that a WAKEV names reads once more and returns (R260); the loop of an NCQW goes on (R394). -/
def State.wakenAs (s : State) (w : Waiter) : AccessState :=
  match s.op w.op with
  | none => .last
  | some o => match o.body with
    | .mem m _ => if m.cls == .ncqw then .waiting else .last
    | _ => .last

/-- Waiters of a key in the table of a die, oldest first; woken up to a number, 0 for all (R261).  The partition that
wrote a trap record waits there for the record's key (R363). -/
def State.wakeKey (s : State) (die enc key n : Nat) : State × Nat :=
  let all := s.waiters.filter fun w => w.home == die && w.enc == enc && w.key == key
  let l := if n = 0 then all else all.take n
  let recs := if enc = 0 then s.recs.filter fun r => r.home == die && !r.woken && r.va.any fun va => va / 8 + 7 == key else []
  let ids := ((if n = 0 then recs else recs.take (n - l.length)).map (·.id))
  let s := l.foldl (fun s w => s.wake w (s.wakenAs w)) s
  let mark (r : TrapRec) : TrapRec := if ids.contains r.id then { r with woken := true } else r
  ({ s with recs := s.recs.map mark }, l.length + ids.length)

/-- An ATOM on the granule found. -/
def atomAt (m : MemOp) (i : MItem) (d : Delivered) : Option Word × Answer :=
  match d with
  | .badTag => (none, .fault 0x15 0)
  | .badCode => (none, .fault 0x16 0)
  | .poison => (none, .fault 0x17 0)
  | .valid w =>
    let t := i.val.tag
    let n := atomBytes m.code t
    let lo := if n = 4 then i.ia % 8 * 8 else 0
    let old := bitsOf w.toNat lo (8 * n)
    let new := (atomNew m.code t old i.val.val.toNat i.cmp.val.toNat).map fun v =>
      BitVec.ofNat 64 (w.toNat - old * 2 ^ lo + v * 2 ^ lo)
    (new, .value ⟨BitVec.ofNat 64 old, t⟩)

/-- THE EFFECT OF A FIBRE'S ACCESS at its home, after the checks of the home, and its answer. -/
def State.atHome (s : State) (p : Ply) (asid : Nat) (m : MemOp) (i : MItem) : State × Answer :=
  match s.resolve i.home asid i.ia m.cls.access (i.home != coreAper p.core) with
  | .error x => (s, .fault x.cause x.sub)
  | .ok a =>
    let s := (s.payLine p a).frameFill i.home asid i.ia a
    match m.cls with
    | .load | .waitv | .ncqw =>
      let g := s.granuleFor p a i.ia
      (s.noteRead p a i.ia, .granule g.1 g.2)
    | .store =>
      let s := if m.sync || i.home != coreAper p.core then s.unrestartable p else s
      (s.writeRegFor p a i.ia i.val, .none)
    | .atom =>
      let s := (s.unrestartable p).noteRead p a i.ia
      let (new, ans) := atomAt m i (judged (s.granuleFor p a i.ia) i.ia)
      ((match new with | some w => s.writeRegFor p a i.ia ⟨w, .raw⟩ | none => s), ans)
    | .redms =>
      let s := s.unrestartable p
      match judged (s.granuleFor p a i.ia) i.ia with
      | .valid w =>
        (s.writeRegFor p a i.ia ⟨redmsNew m.fmt (bitOf m.code 2) (m.code % 4) w.toNat i.val.val.toNat, .raw⟩, .none)
      | d =>
        let cause := match d with | .badTag => 0x15 | .badCode => 0x16 | _ => 0x17
        ((s.writeRegFor p a i.ia ⟨0, .poison⟩).logEvent 3 [a, cause], .fault cause 0)
    | .wakev =>
      let enc := (s.encOfAsid asid).getD 0
      let (s, n) := s.wakeKey i.home enc (i.va / 8) i.cmp.val.toNat
      (s, .count n)

/-! ### The answer at the requester -/

/-- What a load's answer gives (R251): the register, and the cause of a deferred fault. -/
def loadResult (g : Granule) (tagBad : Bool) (ia : Nat) (fmt : Fmt) : Reg × Option Nat :=
  match judged (g, tagBad) ia with
  | .valid w => (⟨w, fmt⟩, none)
  | .poison => (⟨0, .poison⟩, none)
  | .badCode => (⟨0, .poison⟩, some 0x16)
  | .badTag => (⟨0, .poison⟩, some 0x15)

/-- The register and the deferred cause that an answer gives an access (R251, R255, R257, R261, R375). -/
def answerResult (m : MemOp) (i : MItem) (ans : Answer) : Option Reg × Option Nat :=
  let gives := m.cls == .load || m.cls == .atom
  match ans with
  | .granule g b => let r := loadResult g b i.ia m.fmt; (some r.1, r.2)
  | .value r => (some r, none)
  | .count n => (some ⟨BitVec.ofNat 64 n, .i64⟩, none)
  -- a WAKEV that fails at its home has woken none (DEDUCED, log 81)
  | .fault c _ => (if gives then some ⟨0, .poison⟩ else if m.cls == .wakev then some ⟨0, .i64⟩ else none, some c)
  | .lost => (if gives then some ⟨0, .poison⟩ else none, none)
  | _ => (none, none)

/-- eaux of a deferred fault of a memory instruction (R252). -/
def deferEaux (addr : Nat) : Word := BitVec.ofNat 64 (addr % 2 ^ 63)

/-- The access of a fibre is over: its operation ends with the last of them. -/
def State.finishAccess (s : State) (op f : Nat) : State :=
  match s.op op with
  | none => s
  | some o =>
    let left := o.left.filter (· != f)
    if left.isEmpty then s.dropOp op
    else
      let mine (t : Target) : Bool := match t with | .v g _ | .p g _ => g == f | _ => false
      let o := { o with left, dests := o.dests.filter (!mine ·) }
      { s with ops := updateWhere (·.id == op) (fun _ => o) s.ops }

/-- The reply of an access reaches its fibre (R251). -/
def State.reply (s : State) (o : Op) (m : MemOp) (i : MItem) (ans : Answer) : State :=
  let (r, cause) := answerResult m i ans
  let s := s.modPly o.ply fun p =>
    let p := match r with | some v => p.setDst i.fibre m.dst v | none => p
    match cause with
    | some c => p.defer c [i.fibre] (deferEaux o.addr)
        (infoOf i.ia (match ans with | .fault _ sub => sub | _ => 0) m.cls.access.code)
    | none => p
  s.finishAccess o.id i.fibre

/-! ### The wait table (R259, R260) -/

/-- The granule that a store leaves. -/
def MItem.granule (i : MItem) : Granule :=
  if i.val.tag = .poison then ⟨0, poisonCode i.ia⟩ else ⟨i.val.val, selv i.val.val i.ia⟩

/-- What a request carries beside its address (R376, R377): a write, the granule and its code; an atomic, b and c; memory-side
arithmetic, b. -/
def Msg.load (m : Msg) (b : OpBody) (i : MItem) : Msg :=
  match b with
  | .mem o _ =>
    if m.opc = 2 then { m with gmask := 2 ^ (i.ia / 8 % 8), line := lineWith i.ia i.granule }
    else if m.opc = 3 then
      { m with arg := o.code, line := [i.granule, ⟨i.cmp.val, selv i.cmp.val i.ia⟩] ++ List.replicate 6 ⟨0, 0⟩ }
    else if m.opc = 4 then { m with arg := o.code + 8 * o.fmt.code.toNat, line := lineWith i.ia i.granule }
    else m
  | _ => m

/-- The access that a request asks of its home: its values are those of the line it carries. -/
def MItem.asked (i : MItem) (m : Msg) : MItem :=
  let g (n : Nat) : Granule := m.line.getD n ⟨0, 0⟩
  let val (x : Granule) (t : Fmt) : Reg := if x.data = 0 ∧ x.code = poisonCode i.ia then ⟨0, .poison⟩ else ⟨x.data, t⟩
  if m.opc = 2 ∨ m.opc = 4 then { i with val := val (g (i.ia / 8 % 8)) i.val.tag }
  else if m.opc = 3 then { i with val := val (g 0) i.val.tag, cmp := { i.cmp with val := (g 1).data } }
  else i

/-- A fibre's request to the home of its granule. -/
def State.request (s : State) (o : Op) (p : Ply) (i : MItem) (opc : Nat) : State :=
  let m := Msg.ask s.nextId opc o.asid (coreAper p.core) i.home i.ia (i.kind == 0) o.id i.fibre p.core
  State.send { s with nextId := s.nextId + 1 } (m.load o.body i)

/-- R259: an entry in the table of the home's die, spilled when the table is full; none when the spill area is full
too. -/
def State.enterTable (s : State) (o : Op) (p : Ply) (i : MItem) (addr : Nat) : Option State :=
  let here := s.waiters.filter (·.home == i.home)
  let spilled := 65536 ≤ (here.filter (!·.spilled)).length
  let mine := (s.waiters.filter fun w => w.spilled && w.enc == p.enc).length
  let room := match s.enclave p.enc with | some e => e.nspill * 2048 | none => 0
  if spilled && room ≤ mine then none
  else
    let w : Waiter := ⟨o.id, i.fibre, p.enc, i.va / 8, i.home, addr, spilled⟩
    some ({ s with waiters := s.waiters ++ [w] }.setAccess o.id i.fibre (.asleep i.deadline))

/-- A fibre no longer waits; the course goes on when none is left. -/
def State.leaveWait (s : State) (op f : Nat) : State :=
  match s.op op with
  | none => s
  | some o =>
    let left := o.left.filter (· != f)
    if left.isEmpty then s.resume o (match o.body with | .mem _ len => len | _ => 8) none 0
    else { s with ops := updateWhere (·.id == op) (fun _ => { o with left }) s.ops }

/-- The value a waiting fibre returns with; its course goes on when every fibre has returned (R260).  An NCQW returns
for its course (R394). -/
def State.returnWait (s : State) (o : Op) (m : MemOp) (i : MItem) (x : Word) : State :=
  let s := match s.issuer o with | some p => (s.cacheWrite p i.ia none).acquire p.core m.scope | none => s
  if m.cls == .ncqw then
    (s.modPly o.ply fun p => p.setDst i.fibre m.dst ⟨x, .i64⟩).resume o (match o.body with | .mem _ len => len | _ => 8) none 0
  else
    let s := s.modPly o.ply fun p => p.setDst i.fibre m.dst ⟨x, i.val.tag⟩
    (s.setAccess o.id i.fibre .done).leaveWait o.id i.fibre

/-- A fibre parks at its WAITV (R260), every active fibre at its NCQW (R394); a hub core takes the trap. -/
def State.faultWait (s : State) (o : Op) (m : MemOp) (i : MItem) (cause sub : Nat) : State :=
  let e : FaultAt := ⟨cause, BitVec.ofNat 64 (i.va % 2 ^ 57 + sub * 2 ^ 57)⟩
  if (s.ply o.ply).any Ply.isHub then
    { s.parkBlocked o [i.fibre] e with ops := s.ops.filter (·.id != o.id) }
  else if m.cls == .ncqw then (s.parkBlocked o o.left e).resume o (match o.body with | .mem _ len => len | _ => 8) none 0
  else (s.parkBlocked o [i.fibre] e).leaveWait o.id i.fibre

/-- The value read leaves the fibre waiting (R260, R394). -/
def MItem.sleeps (i : MItem) (m : MemOp) (x : Word) : Bool :=
  if m.cls == .ncqw then x.extractLsb' 32 32 == 0 && x.extractLsb' 0 32 < i.val.val.extractLsb' 0 32 else x == i.val.val

/-- The table and the spill area are full: a WAITV returns at once (R259); the loop of an NCQW reads again (R394). -/
def State.tableFull (s : State) (o : Op) (m : MemOp) (i : MItem) (x : Word) : State :=
  if m.cls == .ncqw then s.setAccess o.id i.fibre .waiting else s.returnWait o m i x

/-- What the value read means for a WAITV or NCQW: it returns, or sleeps (R260, R394).  `sleep` puts it to sleep. -/
def State.waitRead (s : State) (o : Op) (m : MemOp) (i : MItem) (ans : Answer) (sleep : State → Option State) : State :=
  match ans with
  | .granule g b => match judged (g, b) i.ia with
    | .badTag => s.faultWait o m i 0x15 0
    | .badCode => s.faultWait o m i 0x16 0
    | .poison => s.faultWait o m i 0x17 0
    | .valid x =>
      if !i.sleeps m x || i.state == .last then s.returnWait o m i x
      else match sleep s with
        | some s => s
        | none => (s.logEvent 4 [i.home, i.va]).tableFull o m i x
  | .fault c sub => s.faultWait o m i c sub
  | _ => s

/-! ### Issue -/

/-- Translation at issue (R286, R291): none while a probe of the home must be awaited. -/
def State.xlate (s : State) (core asid va : Nat) (acc : Access) : Except XFault (Option Trans) := do
  let ia ← s.toIa (core / 1024) asid va
  let waits :=
    if s.isKick asid ia || ((s.core core).tlbFind asid ia).isSome then none
    else match s.walk (coreAper core) asid ia with
      | .stub .. => some ((s.probes.find? fun q => q.core == core && q.asid == asid && q.page == ia / 65536).bind (·.failed))
      | _ => none
  match waits with
  | some (some (c, sub)) => .error ⟨c, sub, ia⟩
  | some none => .ok none
  | none => return some (← s.translate core asid va acc)

/-- R278: the doorbell page that the monitor maps for a hub thread; only stores reach it. -/
def Ply.bellAt (p : Ply) (va : Nat) : Bool := p.level3 == 0 && (p.hub.bind (·.bell)) == some (va / 65536)

/-- Translation at issue for a ply: a doorbell page is the hub die's own, and no page entry is consulted for it (log 27). -/
def State.xlateFor (s : State) (p : Ply) (va : Nat) (acc : Access) : Except XFault (Option Trans) :=
  if p.bellAt va then
    let attr : Attr := ⟨0, 2, 0, coreAper p.core, 16, false⟩
    match rights acc attr (va % 2 ^ 52) with
    | some x => .error x
    | none => .ok (some ⟨va % 2 ^ 52, attr⟩)
  else s.xlate p.core p.asid va acc

/-- A memory instruction: the address of a fibre, its operand faults, its alignment, its values, and what is made of
them. -/
structure MemForm where
  op : MemOp
  addr : Issue → Nat → Word
  operands : Issue → Nat → List FaultAt
  align : Issue → Nat → Nat := fun _ _ => 8
  val : Issue → Nat → Reg := fun _ _ => Reg.zero
  cmp : Issue → Nat → Reg := fun _ _ => Reg.zero
  deadline : Issue → Nat → Option Nat := fun _ _ => none
  kick : Bool := false     -- it reaches the kick registers (R328)
  blocks : Bool := false
  opc : Nat                -- its request (R377)

/-- R344: an access that a speculation must not make. -/
def State.sideEffect (s : State) (asid : Nat) (x : Spec) (m : MemOp) (t : Trans) : Bool :=
  match m.cls with
  | .store => t.attr.peer || s.isKick asid t.ia
  | .atom => t.attr.peer || !(x.swatch.any fun g => g.1 / 8 == t.ia / 64)
  | .redms | .wakev => true
  | _ => false

/-- The probes of the pages that fibres need (R291). -/
def State.probeFor (s : State) (p : Ply) (va : Nat) : State :=
  match s.toIa (p.core / 1024) p.asid va with
  | .error _ => s
  | .ok ia =>
    match s.walk (coreAper p.core) p.asid ia with
    | .stub _ e =>
      if s.probes.any fun q => q.core == p.core && q.asid == p.asid && q.page == ia / 65536 then s
      else
        let m := Msg.ask s.nextId 5 p.asid (coreAper p.core) (bitsOf e 42 12) (ia / 65536 * 65536) false 0 0 p.core
        State.send { s with nextId := s.nextId + 1, probes := s.probes ++ [⟨p.core, p.asid, ia / 65536, none⟩] } m
    | _ => s

/-- Probes that failed have been reported. -/
def State.probesSeen (s : State) (p : Ply) : State :=
  { s with probes := s.probes.filter fun q => !(q.core == p.core && q.asid == p.asid && q.failed.isSome) }

/-- The item of a fibre. -/
def MemForm.item (g : MemForm) (x : Issue) (f : Nat) (t : Trans) : MItem :=
  ⟨f, (g.addr x f).toNat, t.ia, t.attr.aper, t.attr.kind, g.val x f, g.cmp x f, g.deadline x f, .waiting⟩

/-- What the access stage finds for a fibre (R10, R251, R328). -/
def MemForm.access (g : MemForm) (s : State) (x : Issue) (f : Nat) : Except FaultAt Trans :=
  let va := (g.addr x f).toNat
  let off : List FaultAt := if va % g.align x f = 0 then [] else [⟨0x18, BitVec.ofNat 64 (va % 2 ^ 57)⟩]
  match s.xlateFor x.ply va g.op.cls.access with
  | .error e => .error ((lowestFault (⟨e.cause, xEaux va e⟩ :: off)).getD ⟨e.cause, xEaux va e⟩)
  | .ok none => .error ⟨0x11, 0⟩     -- not reached: the instruction waits
  | .ok (some t) =>
    let kick : List FaultAt := if !g.kick && s.isKick x.ply.asid t.ia then [⟨0x18, BitVec.ofNat 64 (va % 2 ^ 57)⟩] else []
    match lowestFault (off ++ kick) with
    | some e => .error e
    | none => .ok t

/-- R370: a ply that enters WAITV raises the level of plies of its enclave that are saved for admission. -/
def State.noteWait (s : State) (p : Ply) : State :=
  { s with plies := s.plies.map fun (q : Ply) =>
      if q.enc = p.enc then { q with boost := q.boost.map (Nat.max p.level) } else q }

/-- A MEMORY INSTRUCTION AT ISSUE: the checks of each fibre, then the operation with an item for each that passes. -/
def memRun (s : State) (i : Instr) (g : MemForm) : Host.Outcome State Fault Refusal :=
  runIssue s i (fun _ => []) fun x sb =>
    let ready := x.active.filter fun f => (lowestFault (sb ++ g.operands x f)).isNone
    let probing := ready.filter fun f =>
      match s.xlateFor x.ply (g.addr x f).toNat g.op.cls.access with | .ok none => true | _ => false
    if !probing.isEmpty then x.wait (probing.foldl (fun s f => s.probeFor x.ply (g.addr x f).toNat) s)
    else
      let judge (f : Nat) : Except FaultAt Trans := do
        stage (sb ++ g.operands x f)
        g.access s x f
      let good := x.active.filterMap fun f => match judge f with | .ok t => some (f, t) | .error _ => none
      let faults := (x.active.filterMap fun f => match judge f with | .ok _ => none | .error e => some (f, e))
        ++ x.inactiveFaults sb
      match s.specOf x.ply with
      | some sp =>
        if good.any fun t => s.sideEffect x.ply.asid sp g.op t.2 then s.discardSpec sp 2
        else go x s g good faults
      | none => go x s g good faults
where
  go (x : Issue) (s : State) (g : MemForm) (good : List (Nat × Trans)) (faults : List (Nat × FaultAt)) : State :=
    let s := s.probesSeen x.ply
    let s := good.foldl (fun s t => if x.ply.bellAt (g.addr x t.1).toNat then s else s.tlbFill x.ply.core x.ply.asid t.2) s
    if good.isEmpty then x.finish s x.ply [] faults
    else
      let s := if g.op.cls == .waitv then s.noteWait x.ply else s
      let fs := good.map (·.1)
      let items := good.map fun t => g.item x t.1 t.2
      let (s', p) := x.launchOp s x.ply x.sh.slot true fs (fs.filterMap (dstTarget g.op.dst)) (.mem { g.op with items } x.len)
      let s' := match s'.op s.nextId with
        | some o => items.foldl (fun s i => if i.home = coreAper p.core then s else s.request o p i g.opc) s'
        | none => s'
      if g.blocks then x.block s' p fs faults else x.finish s' p [] faults

/-- A load (R251). -/
def loadForm (ad : Addr) (d : Dst) (fmt : Fmt) (acq : Bool) (scope : Nat) : MemForm where
  op := ⟨.load, d, fmt, 0, acq, scope, []⟩
  addr := fun x f => x.addr64 f ad
  operands := fun x f => x.checkAddr f ad
  kick := true
  opc := 1

/-- A store (R251). -/
def storeForm (ad : Addr) (d : Src) (rel : Bool) (scope : Nat) : MemForm where
  op := ⟨.store, .none, .raw, 0, rel, scope, []⟩
  addr := fun x f => x.addr64 f ad
  operands := fun x f => x.checkAddr f ad
  val := fun x f => x.reg f d
  kick := true
  opc := 2

/-- LD (R250, R251). -/
def execLd (h : Head) (d : Dst) (a : Src) (off : BitVec 14) (slot : BitVec 3) (f : Fmt) (acq : Bool) (scope : BitVec 3) (s : State) :
    Host.Outcome State Fault Refusal :=
  memRun s (.ld h d a off slot f acq scope) (loadForm { a, off } d f acq scope.toNat)

/-- LD_BASE (R250, R251). -/
def execLdBase (h : Head) (d : BitVec 6) (a : Src) (b : Src) (s : State) : Host.Outcome State Fault Refusal :=
  memRun s (.ldBase h d a b) (loadForm { a, b } (.v (d.setWidth 8)) .raw false 0)

/-- ST (R250, R251). -/
def execSt (h : Head) (d : Src) (a : Src) (off : BitVec 14) (slot : BitVec 3) (rel : Bool) (scope : BitVec 3) (s : State) :
    Host.Outcome State Fault Refusal :=
  memRun s (.st h d a off slot rel scope) (storeForm { a, off } d rel scope.toNat)

/-- ST_BASE (R250, R251). -/
def execStBase (h : Head) (d : BitVec 6) (a : Src) (b : Src) (s : State) : Host.Outcome State Fault Refusal :=
  memRun s (.stBase h d a b) (storeForm { a, b } (.v (d.setWidth 8)) false 0)

/-- The operand B of an ATOM (R254): its tag fixes the access, and C holds that tag; a poisoned B fixes none (R109). -/
def checkAtom (x : Issue) (f op : Nat) (b c : Src) : List FaultAt :=
  let t := (x.reg f b).tag
  let rb : List FaultAt :=
    if b.isReg && t == .poison then [⟨0x17, x.poisonEaux f b⟩]
    else if atomBytes op t = 0 then [⟨0x09, tagEaux b t⟩] else []
  rb ++ if op = 10 then x.check f (fun k => t == .poison || k == t) c else []

/-- ATOM (R254, R255). -/
def execAtom (h : Head) (d : Dst) (a : Src) (b : Src) (c : Src) (slot : BitVec 3) (op : BitVec 4) (s : State) :
    Host.Outcome State Fault Refusal :=
  memRun s (.atom h d a b c slot op)
    { op := ⟨.atom, d, .raw, op.toNat, false, 0, []⟩
      addr := fun x f => (x.reg f a).val
      operands := fun x f => x.check f okCtl a ++ checkAtom x f op.toNat b c
      align := fun x f => Nat.max 1 (atomBytes op.toNat (x.reg f b).tag)
      val := fun x f => x.reg f b
      cmp := fun x f => ⟨BitVec.ofNat 64 (x.lanes f (x.reg f b).tag c), (x.reg f b).tag⟩
      opc := 3 }

/-- REDMS (R256). -/
def execRedms (h : Head) (a : Src) (b : Src) (f : Fmt) (ui : Bool) (op : BitVec 2) (s : State) :
    Host.Outcome State Fault Refusal :=
  memRun s (.redms h a b f ui op)
    { op := ⟨.redms, .none, f, redmsCode op.toNat ui, false, 0, []⟩
      addr := fun x g => (x.reg g a).val
      operands := fun x g => x.check g okCtl a ++ x.need g f b
      val := fun x g => ⟨BitVec.ofNat 64 (x.lanes g f b), f⟩
      opc := 4 }

/-- WAITV (R260). -/
def execWaitv (h : Head) (d : Dst) (a : Src) (b : Src) (c : Src) (scope : BitVec 3) (s : State) :
    Host.Outcome State Fault Refusal :=
  memRun s (.waitv h d a b c scope)
    { op := ⟨.waitv, d, .raw, 0, true, scope.toNat, []⟩
      addr := fun x f => (x.reg f a).val
      operands := fun x f => x.check f okCtl a ++ x.check f (· != .poison) b ++ x.check f (· == .i64) c
      val := fun x f => x.reg f b
      deadline := fun x f =>
        let t := (x.reg f c).val.toNat
        if t = 0 then none else some (x.time + t)
      blocks := true
      opc := 1 }

/-- WAKEV (R261). -/
def execWakev (h : Head) (d : Dst) (a : Src) (b : Src) (slot : BitVec 3) (scope : BitVec 3) (s : State) :
    Host.Outcome State Fault Refusal :=
  memRun s (.wakev h d a b slot scope)
    { op := ⟨.wakev, d, .i64, 0, true, scope.toNat, []⟩
      addr := fun x f => (x.reg f a).val
      operands := fun x f => x.check f okCtl a ++ x.check f (· == .i64) b
      cmp := fun x f => x.reg f b
      opc := 7 }

/-- PREF (R253): programs observe nothing of it, and it never faults after decode. -/
def execPref (h : Head) (a : Src) (off : BitVec 14) (level : BitVec 2) (s : State) : Host.Outcome State Fault Refusal :=
  runIssue s (.pref h a off level) (fun _ => []) fun x sb =>
    match lowestFault sb with
    | some e => x.refuse s sb e
    | none => x.finish s x.ply [] []

/-! ### Replies -/

/-- The access performs at its own die, or in a cache of its core, and its reply arrives. -/
def State.memReply (s : State) (o : Op) (p : Ply) (m : MemOp) (i : MItem) (via : Via) : State :=
  let key := cacheKey p.asid i.ia
  let free := m.cls == .load && i.kind != 0 && (s.specOf p).isNone
  let hit (g : Option Granule) (scope : Nat) (fill : Bool) : State := match g with
    | some v =>
      if free && !(m.sync && scope ≤ m.scope) then
        let s := { s with msgs := s.msgs.filter fun q => !(q.op == o.id && q.fibre == i.fibre) }
        let s := if fill then s.putCore ((s.core p.core).l1Fill key v) else s
        let s := if m.sync then s.acquire p.core m.scope else s
        s.reply o m i (.granule v false)
      else s
    | none => s
  match via with
  | .l1 => hit ((s.core p.core).copy key) 3 false
  | .l2 => if i.home = coreAper p.core then s else hit (s.l2Copy (coreAper p.core) key) 5 true
  | .home =>
    if i.home != coreAper p.core || p.bellAt i.va then s
    else if s.isKick p.asid i.ia then
      match m.cls, s.enclaveOfAsid p.asid with
      | .load, some e => s.reply o m i (.value ⟨s.kickRead e (i.ia % 65536), m.fmt⟩)
      | .store, _ => if [0x00, 0x08, 0x10].contains (i.ia % 0x400) then s else s.reply o m i .none
      | _, _ => s
    else
      match m.cls with
      | .load =>
        let (s, ans) := s.atHome p p.asid m i
        let s := match ans with | .granule g false => s.cacheFill p i g | _ => s
        let s := if m.sync then s.acquire p.core m.scope else s
        s.reply o m i ans
      | .store =>
        let (s, ans) := s.atHome p p.asid m i
        let s := match ans with | .none => s.cacheWrite p i.ia (some i.granule) | _ => s
        s.reply o m i ans
      | .wakev => let (s, ans) := s.atHome p p.asid m i; s.reply o m i ans
      | .waitv | .ncqw =>
        let (s, ans) := s.atHome p p.asid m i
        s.waitRead o m i ans fun s => match s.resolve i.home p.asid i.ia .read false with
          | .ok a => s.enterTable o p i (a / 8 * 8)
          | .error _ => none
      | .atom | .redms => s

/-- The line of an access is within the budget of its issuer at the stack of its home (R402). -/
def State.homeWithin (s : State) (p : Ply) (m : MemOp) (i : MItem) : Bool :=
  s.budgets.isEmpty || match s.resolve i.home p.asid i.ia m.cls.access (i.home != coreAper p.core) with
    | .ok a => s.lineWithin p a
    | .error _ => true

/-- The access of an operation's fibre that may perform now, with the ply under the ASID of its issue (R284); the home holds it
until the next period when it is beyond its budget (R402). -/
def State.access (s : State) (op f : Nat) : Option (Op × Ply × MemOp × MItem) :=
  match s.op op with
  | none => none
  | some o =>
    match s.issuer o, o.pending f with
    | some p, some (m, i) =>
      if s.mayPerform o f && s.homeWithin p m i then some (o, p, m, i) else none
    | _, _ => none

/-- MEMORY_REPLY (R251). -/
def execMemoryReply (op : Nat) (fibre : Nat) (via : Via) (s : State) : Host.Outcome State Fault Refusal :=
  match s.access op fibre with
  | some (o, p, m, i) => .next (s.memReply o p m i via)
  | none => .next s

/-- An operation of the memory-side unit of the requester's own die. -/
def State.sideUnit (s : State) (op f : Nat) (cls : MemClass) : State :=
  match s.access op f with
  | some (o, p, m, i) =>
    if m.cls != cls || i.home != coreAper p.core then s
    else
      let (s, ans) := s.atHome p p.asid m i
      (s.cacheWrite p i.ia none).reply o m i ans
  | none => s

/-- MEMORY_SIDE_ATOMIC (R255). -/
def execMemorySideAtomic (op : Nat) (fibre : Nat) (s : State) : Host.Outcome State Fault Refusal :=
  .next (s.sideUnit op fibre .atom)

/-- MEMORY_SIDE_REDUCE (R257). -/
def execMemorySideReduce (op : Nat) (fibre : Nat) (s : State) : Host.Outcome State Fault Refusal :=
  .next (s.sideUnit op fibre .redms)

/-- WAITV_TIMEOUT (R260). -/
def execWaitvTimeout (ply : Nat) (fibre : Nat) (s : State) : Host.Outcome State Fault Refusal :=
  let hit (o : Op) : Option (Op × MItem) :=
    if o.ply != ply then none
    else match o.pending fibre with
      | some (m, i) => match m.cls, i.state with
        | .waitv, .asleep (some d) => if d ≤ s.clock then some (o, i) else none
        | _, _ => none
      | none => none
  match s.ops.findSome? hit, s.ply ply with
  | some (o, i), some p =>
    let s := { s with
      waiters := s.waiters.filter fun w => !(w.op == o.id && w.fibre == fibre)
      msgs := s.msgs.filter fun m => !(m.op == o.id && m.fibre == fibre) }
    let s := s.setAccess o.id fibre .last
    .next (if i.home = coreAper p.core then s else s.request o p i 1)
  | _, _ => .next s

/-! ### Stores to the kick page (R329) -/

/-- A store to a register of the kick page performs: the enclave, the queue and the value. -/
def State.kickPage (s : State) (op f reg : Nat) (act : State → Enclave → Nat → Nat → State) : State :=
  match s.access op f with
  | some (o, p, m, i) =>
    match s.enclaveOfAsid p.asid with
    | some e =>
      if m.cls == .store && s.isKick p.asid i.ia && i.ia % 0x400 == reg then
        (act s e (i.ia % 65536 / 0x400) i.val.val.toNat).reply o m i .none
      else s
    | none => s
  | none => s

/-- A queue's registers change; a speculation of the queue is discarded when they do (R344). -/
def State.requeue (s : State) (e : Enclave) (q : Nat) (k : Queue) : State :=
  if k = e.queue q then s
  else
    let s := s.putEnclave (e.setQueue q k)
    match s.specs.find? fun x => x.enc == e.enc && x.queue == q with
    | some x => s.discardSpec x 7
    | none => s

/-- KICK (R329): a release store, after which its skein is not restarted (R350). -/
def execKick (op : Nat) (fibre : Nat) (s : State) : Host.Outcome State Fault Refusal :=
  let p := ((s.op op).bind fun o => s.ply o.ply)
  .next (s.kickPage op fibre 0x10 fun s e q v => match p with
    | some p => (s.unrestartable p).kickStore e q v
    | none => s.kickStore e q v)

/-- QBASE_WRITE (R329). -/
def execQbaseWrite (op : Nat) (fibre : Nat) (s : State) : Host.Outcome State Fault Refusal :=
  .next (s.kickPage op fibre 0x00 fun s e q v => s.requeue e q ((e.queue q).writeBase v))

/-- QCFG_WRITE (R329). -/
def execQcfgWrite (op : Nat) (fibre : Nat) (s : State) : Host.Outcome State Fault Refusal :=
  .next (s.kickPage op fibre 0x08 fun s e q v => s.requeue e q ((e.queue q).writeConfig e.ceiling v))

/-! ### Fences (R246, R258) -/

def Token.empty : Token := ⟨0, 0, []⟩

/-- Operations of the engines and of the network that a fence of class EN covers (R246). -/
def OpBody.isEngine : OpBody → Bool
  | .mma .. | .acczero _ | .accfree _ | .accld .. | .accst .. | .mread .. | .chartld .. | .copy .. | .copyl .. | .cmap ..
  | .stgpost .. | .npost .. => true
  | _ => false

/-- The accesses of a fibre, of the classes given, that have not performed (R246); the requests that an NPOST has copied
(R391) stand for its operation. -/
def State.covered (s : State) (p : Ply) (c : Course) (f : Nat) (classes : BitVec 5) : List Item :=
  (s.ops.filterMap fun o =>
    let hit := o.ply == p.handle && match o.body with
      | .mem m _ => o.left.contains f && m.items.any fun i => i.fibre == f &&
          (if m.cls == .redms then classes.getLsbD 3
           else (i.kind == 0 && classes.getLsbD 0) || (i.kind == 1 && classes.getLsbD 1) || (i.kind == 2 && classes.getLsbD 2))
      | b => b.isEngine && classes.getLsbD 4 && (o.left.contains f || o.course == c.id || c.sb.any (·.op == o.id))
    if hit then some ⟨o.id, f⟩ else none)
  ++ if classes.getLsbD 4 then
      ((s.nets.filter fun r => r.ply == p.handle && r.fibres.contains f).map (·.post)).eraseDups.map fun n => ⟨n, f⟩
    else []

/-- FENCE (R258). -/
def execFence (h : Head) (k : BitVec 3) (scope : BitVec 3) (classes : BitVec 5) (s : State) :
    Host.Outcome State Fault Refusal :=
  runIssue s (.fence h k scope classes) (fun _ => []) fun x sb =>
    match lowestFault sb with
    | some e => x.refuse s sb e
    | none =>
      let p := x.ply.modFibres x.active fun f y =>
        { y with tokens := SMap.set Token.empty y.tokens k.toNat ⟨scope.toNat, classes, s.covered x.ply x.course f classes⟩ }
      x.finish s p [] []

/-- WAITF (R258, R246). -/
def execWaitf (h : Head) (k : BitVec 3) (s : State) : Host.Outcome State Fault Refusal :=
  runIssue s (.waitf h k) (fun _ => []) fun x sb =>
    match lowestFault sb with
    | some e => x.refuse s sb e
    | none =>
      let token (f : Nat) : Token := SMap.get Token.empty (x.ply.fibre f).tokens k.toNat
      if x.active.all fun f => s.tokenDone x.ply f k.toNat then
        let s := x.active.foldl (init := s) fun s f =>
          if (token f).classes &&& 7 = 0 then s else s.acquire x.ply.core (token f).scope
        x.finish s (x.ply.modFibres x.active fun _ y => { y with tokens := SMap.set Token.empty y.tokens k.toNat Token.empty }) [] []
      else if x.hub then x.wait s
      else
        let c := { x.course with phase := .waiting (some k.toNat), chain := [], chainLast := 0, hold := 0, nextIssue := Nat.max (x.lastTick + 1) x.course.hold }
        ((x.holdPipe s).dropRun x.ply x.course.id).putPly (x.ply.putCourse c)

end Sys2Proof.Machine
end

