-- ==== Sys2Proof/Machine/TensorCopy.lean ====
section
/-! DEFINITION.  Tensor maps, element conversion and the data path of a copy (09 R266 to R272). -/

namespace Sys2Proof.Machine

/-! ### Element formats and maps (R266, R267) -/

/-- An element format (R267): its code. -/
abbrev CopyFmt := Nat

/-- Nibbles of an element. -/
def fmtNibbles (f : CopyFmt) : Nat :=
  match f with
  | 0 | 7 | 8 => 2
  | 1 | 5 | 6 => 4
  | 2 | 4 => 8
  | 3 => 16
  | _ => 1

def isGq (f : CopyFmt) : Bool := f == 8 || f == 9

structure TDim where
  stride : Int
  extent : Nat
  box : Nat
  deriving DecidableEq, Repr

structure TMap where
  base : Nat
  hbase : Nat
  hdr : Bool
  gdim : Nat
  group : Nat
  fmt : CopyFmt
  dims : List TDim
  deriving DecidableEq, Repr

/-- A dimension entry; none when it breaks its rules. -/
def parseDim (b : List Byte) (d ndim : Nat) : Option TDim :=
  let at' (o n : Nat) : Nat := field b (32 + 16 * d + o) n
  if ndim ≤ d then (if at' 0 16 = 0 then some ⟨0, 1, 1⟩ else none)
  else if (d = 0 ∧ at' 0 8 ≠ 0) ∨ at' 8 4 = 0 ∨ at' 12 2 = 0 ∨ 4096 < at' 12 2 ∨ at' 14 2 ≠ 0 then none
  else some ⟨signed 64 (at' 0 8), at' 8 4, at' 12 2⟩

/-- A map image; none when it is invalid. -/
def parseMap (b : List Byte) : Option TMap :=
  let ctrl := field b 16 8
  let fmt := bitsOf ctrl 0 4
  let ndim := bitsOf ctrl 4 4 + 1
  let gsz := bitsOf ctrl 8 2
  let gdim := bitsOf ctrl 10 4
  let hdr := bitOf ctrl 14
  match (List.range 14).mapM fun d => parseDim b d ndim with
  | none => none
  | some dims =>
    let d0 := dims.headD ⟨0, 1, 1⟩
    if bitsOf ctrl 15 49 ≠ 0 ∨ 14 < ndim ∨ gsz = 3 ∨ ndim ≤ gdim ∨ 10 ≤ fmt ∨ field b 24 8 ≠ 0
        ∨ field b 0 8 % Nat.max 1 (fmtNibbles fmt / 2) ≠ 0 ∨ (hdr = true ∧ field b 8 8 % 4 ≠ 0)
        ∨ (isGq fmt = true ∧ hdr = false) ∨ (fmt = 9 ∧ (d0.extent % 2 ≠ 0 ∨ d0.box % 2 ≠ 0)) then none
    else some ⟨field b 0 8, field b 8 8, hdr, gdim, 32 * 2 ^ gsz, fmt, dims.take ndim⟩

/-! ### Boxes -/

/-- Coordinates of linear index `i` in a box, dimension 0 fastest. -/
def boxCoords : List Nat → Nat → List Nat
  | [], _ => []
  | b :: r, i => i % b :: boxCoords r (i / b)

def product (l : List Nat) : Nat := l.foldl (· * ·) 1

/-- Row-major index of coordinates over extents, dimension 0 fastest. -/
def linear : List Nat → List Nat → Nat
  | e :: es, c :: cs => c + e * linear es cs
  | _, _ => 0

/-- A coordinate divided along one dimension. -/
def divAt (l : List Nat) (d g : Nat) : List Nat := l.modify d (· / g)

def ceilAt (l : List Nat) (d g : Nat) : List Nat := l.modify d fun x => (x + g - 1) / g

/-- The tensor coordinates of an element of the box. -/
def TMap.coords (m : TMap) (start : List Int) (i : Nat) : List Int :=
  (boxCoords (m.dims.map (·.box)) i).zipWith (fun (c : Nat) (s : Int) => s + c) start

def TMap.inside (m : TMap) (c : List Int) : Bool :=
  (m.dims.zip c).all fun d => 0 ≤ d.2 && d.2 < d.1.extent

/-- The nibble address of an element in memory (R268), modulo the virtual address space. -/
def TMap.nibbleAt (m : TMap) (c : List Int) : Nat :=
  let i0 := c.headD 0
  let rest := ((m.dims.drop 1).zip (c.drop 1)).foldl (fun a d => a + d.1.stride * d.2) (0 : Int)
  let bytes : Int := (m.base : Int) + rest
  wrap 65 (2 * bytes + i0 * fmtNibbles m.fmt)

/-- The group row of coordinates inside the extents: the place of its header in the plane (R267). -/
def TMap.headerAt (m : TMap) (c : List Nat) : Nat :=
  wrap 64 ((m.hbase : Int) + 4 * linear (ceilAt (m.dims.map (·.extent)) m.gdim m.group) c)

/-! ### What a read gives -/

/-- A value on its way: `bad` makes its destination poison, `skip` leaves it unwritten (R272, R274 step 5). -/
structure Got where
  val : Nat
  bad : Bool := false
  skip : Bool := false
  faults : List (Nat × Nat) := []   -- cause and sub-code
  deriving DecidableEq, Repr

def Got.join (a b : Got) (f : Nat → Nat → Nat) : Got :=
  ⟨f a.val b.val, a.bad || b.bad, a.skip || b.skip, a.faults ++ b.faults⟩

def gotOf (d : Delivered) (shift width : Nat) : Got :=
  match d with
  | .valid w => { val := bitsOf w.toNat shift width }
  | .poison => { val := 0, bad := true }
  | .badCode => { val := 0, bad := true, faults := [(0x16, 0)] }
  | .badTag => { val := 0, bad := true, faults := [(0x15, 0)] }

/-- One nibble of memory. -/
def State.memNibble (s : State) (p : Ply) (n : Nat) : Got :=
  match s.locate (coreAper p.core) p.asid (n / 2) .read with
  | .error x => { val := 0, skip := true, faults := [(x.cause, x.sub)] }
  | .ok (a, ia) => gotOf (judged (s.granuleFor p a ia) ia) (8 * (ia % 8) + 4 * (n % 2)) 4

def Carve.nibble (c : Carve) (n : Nat) : Got :=
  let off := n / 2
  gotOf ((c.granule off).judge (off / 8 * 8)) (8 * (off % 8) + 4 * (n % 2)) 4

/-- `k` nibbles from a nibble address upwards. -/
def readNibbles (rd : Nat → Got) : Nat → Nat → Got
  | _, 0 => { val := 0 }
  | n, k + 1 => (rd n).join (readNibbles rd (n + 1) k) fun a b => a + 16 * b

/-! ### Conversion (R269, R270) -/

def copyBin (f : CopyFmt) : Bin := match f with | 5 => binB16 | 6 => bin16 | _ => bin32

/-- The pairs of R269. -/
def pairOk (src dst : CopyFmt) : Bool :=
  src == dst || (src == 4 && [5, 6, 7, 8, 9].contains dst) || ([5, 6, 7].contains src && dst == 4)
    || (src == 5 && isGq dst) || (isGq src && dst == 5)

/-- An element that neither quantises nor dequantises. -/
def convertElem (src dst : CopyFmt) (mode : Rnd) (sat : BitVec 2) (x : Nat) : Nat :=
  if src = dst then x
  else if dst = 7 then wrap 8 (toInteger mode (-128) 127 (bin32.decode x)).1
  else if src = 7 then (bin32.convert .rne false (numOfInt (signed 8 x))).bits
  else
    let b := copyBin dst
    let r := b.convert mode false ((copyBin src).decode x)
    if dst = 4 then r.bits else (b.saturate sat r).bits

/-- A weight with its header (R269): the BF16 value. -/
def dequantise (mode : Rnd) (w h : Nat) : Nat :=
  (binB16.sum mode false [(numOfInt ((w : Int) - bitsOf h 16 8)).times (bin16.decode (bitsOf h 0 16))]).bits

/-- The exact quotient of two finite numbers, rounded to an integer by RNE. -/
def quotientInt (x y : Num) : Int :=
  match x, y with
  | .fin neg m e, .fin _ m' e' =>
    let num := m * 2 ^ (e - e').toNat
    let den := m' * 2 ^ (e' - e).toNat
    let q := num / den
    let r := num % den
    let q := if 2 * r > den ∨ (2 * r = den ∧ q % 2 = 1) then q + 1 else q
    if neg then -(q : Int) else q
  | _, _ => 0

/-- The exact difference of two finite numbers. -/
def Num.minus (x y : Num) : Num :=
  match x, y with
  | .fin n m e, .fin n' m' e' =>
    let lo := if e < e' then e else e'
    let a : Int := m * 2 ^ (e - lo).toNat
    let b : Int := m' * 2 ^ (e' - lo).toNat
    let d := (if n then -a else a) - (if n' then -b else b)
    .fin (decide (d < 0)) d.natAbs lo
  | _, _ => .fin false 0 0

def Num.isFinite : Num → Bool
  | .fin .. => true
  | _ => false

def Num.isZero : Num → Bool
  | .fin _ m _ => m == 0
  | _ => false

/-- R270: the header of a group. -/
def groupEncode (n : Nat) (xs : List Num) : Nat × Option Num :=
  if xs.any fun x => !x.isFinite then (0x7E00, none)
  else
    let zero : Num := .fin false 0 0
    let xs := xs.map fun x => if x.isZero then zero else x
    let lo := xs.foldl (fun a x => if x.less a then x else a) zero
    let hi := xs.foldl (fun a x => if a.less x then x else a) zero
    if !(lo.less hi) then (0x3C00, none)
    else
      let s := (bin16.div .ru false (hi.minus lo) (numOfInt n)).bits
      let s := if s = bin16.inf false then bin16.maxFinite false else s
      let z := clampInt 0 n (quotientInt (zero.minus lo) (bin16.decode s))
      (z.toNat * 2 ^ 16 + s, some (bin16.decode s))

/-- R270: the weight of an element of an encoded group. -/
def groupWeightOf (n h : Nat) (s : Option Num) (x : Num) : Nat :=
  match s with
  | none => 0
  | some s => (clampInt 0 n (quotientInt x s + bitsOf h 16 8)).toNat

/-! ### Destinations -/

/-- What is written to a granule: its nibbles by place, and whether it is poisoned. -/
structure Piece where
  nibs : SMap Nat
  bad : Bool
  deriving DecidableEq, Repr

/-- Pieces by granule. -/
abbrev Pieces := SMap Piece

/-- A nibble of a destination; one that is to be left as it is leaves its piece. -/
def Pieces.put (m : Pieces) (n : Nat) (g : Got) : Pieces :=
  let q := SMap.get ⟨[], false⟩ m (n / 16)
  if g.skip then
    let nibs := q.nibs.del (n % 16)
    if nibs.isEmpty then m.del (n / 16) else SMap.put m (n / 16) { q with nibs }
  else SMap.put m (n / 16) ⟨SMap.put q.nibs (n % 16) (g.val % 16), q.bad || g.bad⟩

/-- `k` nibbles of a value. -/
def Pieces.putValue (m : Pieces) (n : Nat) (g : Got) : Nat → Pieces
  | 0 => m
  | k + 1 => Pieces.putValue (m.put n g) (n + 1) { g with val := g.val / 16 } k

/-- The data of a piece over an old granule. -/
def Piece.merge (q : Piece) (old : Nat) : Word :=
  BitVec.ofNat 64 ((List.range 16).foldl (fun a i => a + SMap.get (bitsOf old (4 * i) 4) q.nibs i * 2 ^ (4 * i)) 0)

/-- R271, R272: the register that a piece leaves, over what the granule holds, with the causes found. -/
def Piece.result (q : Piece) (old : Delivered) : Reg × List (Nat × Nat) :=
  if q.nibs.length = 16 then (if q.bad then ⟨0, .poison⟩ else ⟨q.merge 0, .raw⟩, [])
  else match old with
    | .valid w => (if q.bad then ⟨0, .poison⟩ else ⟨q.merge w.toNat, .raw⟩, [])
    | .poison => (⟨0, .poison⟩, [])
    | .badCode => (⟨0, .poison⟩, [(0x16, 0)])
    | .badTag => (⟨0, .poison⟩, [(0x15, 0)])

/-- Pieces written to memory for a ply (R271, R274 step 5); a merge reads the granule (R343), and the core's own copies of the
lines are dropped (R224). -/
def State.writePieces (s : State) (p : Ply) (m : Pieces) : State × List (Nat × Nat) :=
  m.foldl (init := (s, [])) fun (s, fl) (k, q) =>
    match s.locate (coreAper p.core) p.asid (8 * k) .write with
    | .error x => (s, fl ++ [(x.cause, x.sub)])
    | .ok (a, ia) =>
      let s := if q.nibs.length = 16 then s else s.noteRead p a ia
      let (r, f) := q.result (judged (s.granuleFor p a ia) ia)
      (((s.peerWrite p a).writeRegFor p a ia r).engineWrote p ia, fl ++ f)

/-- Pieces written to a carve (R271, R272). -/
def Carve.writePieces (c : Carve) (m : Pieces) : Carve × List (Nat × Nat) :=
  m.foldl (init := (c, [])) fun (c, fl) (k, q) =>
    let (r, f) := q.result ((c.granule (8 * k)).judge (8 * k))
    (c.putReg (8 * k) r, fl ++ f)

/-! ### A copy -/

/-- A copy as its data path sees it: the map, the box's start, the formats, the image's place. -/
structure CopyJob where
  map : TMap
  start : List Int
  store : Bool             -- .s2g
  cmd : CopyFmt            -- format on the scratchpad side
  mode : Rnd
  sat : BitVec 2
  off : Nat
  deriving DecidableEq, Repr

def CopyJob.src (j : CopyJob) : CopyFmt := if j.store then j.cmd else j.map.fmt
def CopyJob.dst (j : CopyJob) : CopyFmt := if j.store then j.map.fmt else j.cmd

def CopyJob.boxes (j : CopyJob) : List Nat := j.map.dims.map (·.box)

def CopyJob.count (j : CopyJob) : Nat := product j.boxes

/-- Group rows of the box. -/
def CopyJob.rows (j : CopyJob) : List Nat := j.boxes.modify j.map.gdim (· / j.map.group)

def pad (n k : Nat) : Nat := (n + k - 1) / k * k

/-- Bytes of the packed elements, and of the whole image (R268). -/
def CopyJob.elemBytes (j : CopyJob) : Nat := pad ((j.count * fmtNibbles j.cmd + 1) / 2) 8
def CopyJob.imageBytes (j : CopyJob) : Nat :=
  if isGq j.cmd then pad j.elemBytes 256 + pad (4 * product j.rows) 8 else j.elemBytes

/-- R270: whole groups. -/
def CopyJob.grouped (j : CopyJob) : Bool :=
  !((isGq j.dst && !isGq j.src) || isGq j.cmd)
    || ((j.start.getD j.map.gdim 0) % j.map.group == 0 && (j.boxes.getD j.map.gdim 1) % j.map.group == 0)

/-- Places of element `i` and of header `r` of the image, in nibbles. -/
def CopyJob.imageElem (j : CopyJob) (i : Nat) : Nat := 2 * j.off + i * fmtNibbles j.cmd
def CopyJob.imageHeader (j : CopyJob) (r : Nat) : Nat := 2 * (j.off + pad j.elemBytes 256 + 4 * r)

/-- The group row of an element of the box, as an index over `rows`. -/
def CopyJob.rowOf (j : CopyJob) (i : Nat) : Nat := linear j.rows (divAt (boxCoords j.boxes i) j.map.gdim j.map.group)

/-- Tensor coordinates of a group row of the box; none where the row lies wholly outside the extents. -/
def CopyJob.rowCoords (j : CopyJob) (r : Nat) : Option (List Nat) :=
  let g := j.map.group
  let c : List Int := (boxCoords j.rows r).zipIdx.map fun (x, d) =>
    if d = j.map.gdim then (j.start.getD d 0) / (g : Int) + (x : Int) else (j.start.getD d 0) + (x : Int)
  let ok := (c.zip (ceilAt (j.map.dims.map (·.extent)) j.map.gdim g)).all fun x => 0 ≤ x.1 && x.1 < x.2
  if ok then some (c.map Int.toNat) else none

/-- Whether an element lies inside the extents, and its value in the source. -/
def CopyJob.readElem (j : CopyJob) (mem scr : Nat → Got) (i : Nat) : Got :=
  let c := j.map.coords j.start i
  if j.store then readNibbles scr (j.imageElem i) (fmtNibbles j.cmd)
  else if j.map.inside c then readNibbles mem (j.map.nibbleAt c) (fmtNibbles j.map.fmt)
  else { val := 0 }

/-- The header of an element of a GQ source: of its row of the image, or of its own group in the header plane. -/
def CopyJob.readHeader (j : CopyJob) (mem scr : Nat → Got) (i : Nat) : Got :=
  if j.store then readNibbles scr (j.imageHeader (j.rowOf i)) 8
  else
    let c := j.map.coords j.start i
    if j.map.inside c then readNibbles mem (2 * j.map.headerAt (divAt (c.map Int.toNat) j.map.gdim j.map.group)) 8
    else { val := 0 }

/-- An element by R269 when no group is encoded. -/
def CopyJob.elem (j : CopyJob) (mem scr : Nat → Got) (i : Nat) : Got :=
  let x := j.readElem mem scr i
  if isGq j.src && !isGq j.dst then
    if j.store || j.map.inside (j.map.coords j.start i) then
      let h := j.readHeader mem scr i
      let g := x.join h (dequantise j.mode)
      if bitsOf h.val 24 8 ≠ 0 then { g with val := binB16.nan, faults := g.faults ++ [(0x09, 0)] } else g
    else { val := 0 }
  else { x with val := convertElem j.src j.dst j.mode j.sat x.val }

/-- Elements of a group row of the box. -/
def CopyJob.rowElems (j : CopyJob) (r : Nat) : List Nat :=
  let c := boxCoords j.rows r
  (List.range j.map.group).map fun k =>
    linear j.boxes (c.zipIdx.map fun (x, d) => if d = j.map.gdim then x * j.map.group + k else x)

/-- R270: a group encoded: its header, and its elements with their weights. -/
def CopyJob.encodeRow (j : CopyJob) (mem scr : Nat → Got) (r : Nat) : Got × List (Nat × Got) :=
  let n := if j.dst = 8 then 255 else 15
  let xs := (j.rowElems r).map fun i =>
    let inside := j.map.inside (j.map.coords j.start i)
    (i, if inside then j.readElem mem scr i else { val := 0 })
  let b := copyBin j.src
  let all := xs.foldl (fun (a : Got) x => a.join x.2 fun _ _ => 0) { val := 0 }
  let (h, s) := groupEncode n (xs.map fun x => b.decode x.2.val)
  let h := if (j.rowCoords r).isNone then 0 else h     -- R271
  ({ all with val := h }, xs.map fun x => (x.1, { all with val := groupWeightOf n h s (b.decode x.2.val), faults := [] }))

/-- Where element `i` goes; none where a store writes nothing (R271). -/
def CopyJob.elemPlace (j : CopyJob) (i : Nat) : Option Nat :=
  if j.store then
    let c := j.map.coords j.start i
    if j.map.inside c then some (j.map.nibbleAt c) else none
  else some (j.imageElem i)

/-- Where the header of row `r` goes. -/
def CopyJob.headerPlace (j : CopyJob) (r : Nat) : Option Nat :=
  if j.store then (if j.map.hdr then (j.rowCoords r).map fun c => 2 * j.map.headerAt c else none)
  else some (j.imageHeader r)

/-- A header copied with its weights (R269, R271). -/
def CopyJob.copyHeader (j : CopyJob) (mem scr : Nat → Got) (r : Nat) : Got :=
  if j.store then readNibbles scr (j.imageHeader r) 8
  else match j.rowCoords r with
    | some c => readNibbles mem (2 * j.map.headerAt c) 8
    | none => { val := 0 }

/-- The image filled with zeros, padding included (R268, R271). -/
def CopyJob.fill (j : CopyJob) : Pieces :=
  if j.store then []
  else (List.range (2 * j.imageBytes)).foldl (fun m i => Pieces.put m (2 * j.off + i) { val := 0 }) []

/-- The granules of memory that a load reads, by virtual address. -/
def CopyJob.reads (j : CopyJob) : List Nat :=
  if j.store then []
  else
    let elems := (List.range j.count).flatMap fun i =>
      let c := j.map.coords j.start i
      if !j.map.inside c then []
      else
        let n := j.map.nibbleAt c
        let h := 2 * j.map.headerAt (divAt (c.map Int.toNat) j.map.gdim j.map.group)
        [n / 16, (n + fmtNibbles j.map.fmt - 1) / 16] ++ if isGq j.map.fmt then [h / 16] else []
    elems.eraseDups.map (8 * ·)

/-- THE DATA OF A COPY: its pieces at the destination, and the causes found. -/
def CopyJob.run (j : CopyJob) (mem scr : Nat → Got) : Pieces × List (Nat × Nat) :=
  let w := fmtNibbles j.dst
  let put (st : Pieces × List (Nat × Nat)) (place : Option Nat) (g : Got) (k : Nat) : Pieces × List (Nat × Nat) :=
    match place with
    | none => st
    | some n => (st.1.putValue n g k, st.2 ++ g.faults)
  let st : Pieces × List (Nat × Nat) := (j.fill, [])
  if isGq j.dst && !isGq j.src then
    (List.range (product j.rows)).foldl (init := st) fun st r =>
      let (h, ws) := j.encodeRow mem scr r
      let st := put st (j.headerPlace r) h 8
      ws.foldl (fun st x => put st (j.elemPlace x.1) x.2 w) st
  else
    let st := (List.range j.count).foldl (fun st i => put st (j.elemPlace i) (j.elem mem scr i) w) st
    if isGq j.dst then
      (List.range (product j.rows)).foldl (fun st r => put st (j.headerPlace r) (j.copyHeader mem scr r) 8) st
    else st

end Sys2Proof.Machine
end

