-- ==== Sys2Proof/Machine/Copy.lean ====
section
/-! DEFINITION.  The copy engine: its slots and budgets, COPY, COPYL and CMAP, and their work (09 R264 to R277; 15 R401,
R402). -/

namespace Sys2Proof.Machine

/-! ### Slots and budgets -/

def OpBody.isCopy : OpBody → Bool
  | .copy .. | .copyl .. | .cmap .. => true
  | _ => false

/-- Engine slots that the skeins of a core hold, by skein. -/
def State.copySlots (s : State) (core : Nat) : List Nat :=
  (s.ops.filter (·.body.isCopy)).filterMap fun o => match s.ply o.ply with
    | some p => if p.core = core then some p.skein else none
    | none => none

/-- R264: a skein may take a slot. -/
def State.slotFree (s : State) (p : Ply) : Bool :=
  let l := s.copySlots p.core
  let count (k : Nat) : Nat := (l.filter (· == k)).length
  let shared := l.eraseDups.foldl (fun a k => a + (count k - 4)) 0
  let here := (s.skeins.filter fun k => k.core == p.core && k.residence == Residence.resident).length
  count p.skein < 4 || shared < 96 - 4 * here

/-- Copy bytes are resource 3, by core; what the engine reads and writes in the stacks, at these virtual addresses, is charged
beside them (R401, R402, log 83). -/
def State.spendCopy (s : State) (o : Op) (p : Ply) (n : Nat) (l : List (Nat × Access)) : State × Bool :=
  s.spendLines o.id (s.holderOf p) [⟨p.core / 1024, s.holderOf p, 3, p.core % 1024, n⟩] fun s =>
    l.filterMap fun (va, acc) => match s.locate (coreAper p.core) p.asid va acc o.pages with
      | .ok x => some x.1
      | .error _ => none

/-- The command goes to the engine, or is refused at the port for a cycle (R264). -/
def Issue.toEngine (x : Issue) (s : State) (body : OpBody) : State :=
  if !s.slotFree x.ply then x.wait s
  else
    let (s, p) := x.launchOp (s.fillChecked x.ply body) x.ply x.sh.slot false x.active [] body
    x.finish s p [] []

/-- A command that acts once for its course: its operand faults, then those of access. -/
def engineRun (s : State) (i : Instr) (operands access : Issue → List FaultAt) (body : Issue → OpBody) :
    Host.Outcome State Fault Refusal :=
  runIssue s i (fun _ => []) fun x sb =>
    if x.active.isEmpty && sb.isEmpty then x.finish s x.ply [] []
    else
      let chk : Except FaultAt Unit := do
        stage (sb ++ operands x)
        stage (access x)
      match chk with
      | .error e => x.refuse s sb e
      | .ok _ => x.toEngine s (body x)

/-! ### Issue -/

/-- R273: a barrier that a command names. -/
def Issue.barFaults (x : Issue) (s : State) (named : Bool) (b : Src) : List FaultAt :=
  let n := (x.uniform b).toNat
  if named && (s.carve x.ply.skein).bars.length ≤ n then [⟨0x12, scratchEaux 3 n⟩] else []

/-- The RND and SAT of a copy (R269). -/
def Issue.copyMode (x : Issue) : Rnd :=
  match x.pfx with
  | some p => if p.rnd = .inherit then .rne else p.rnd
  | none => .rne

/-- The sA + k of a COPY. -/
def coordSrc (a : BitVec 6) (k : Nat) : Src := .s (a + BitVec.ofNat 6 k)

/-- COPY (R273). -/
def execCopy (h : Head) (d : Src) (a : BitVec 6) (b : Src) (slot : BitVec 3) (map : BitVec 5) (s2g : Bool) (ring : Bool)
    (cf : BitVec 4) (bar : Bool) (s : State) : Host.Outcome State Fault Refusal :=
  let i : Instr := .copy h d a b slot map s2g ring cf bar
  engineRun s i
    (fun x => x.checkUniform okCtl d ++ ((List.range 14).flatMap fun k => x.checkUniform okCtl (coordSrc a k))
      ++ if bar then x.checkUniform okCtl b else [])
    (fun x =>
      let n := (x.uniform d).toNat
      (if ring && (s.carve x.ply.skein).rings.length ≤ n then [⟨0x12, scratchEaux 3 n⟩] else []) ++ x.barFaults s bar b)
    (fun x => .copy i (x.uniform d).toNat (x.uniform b).toNat
      ((List.range 14).map fun k => (x.uniform (coordSrc a k)).toInt) x.copyMode x.sat .queued)

/-- R277: eaux of a copy fault. -/
def copyEaux (sub addr : Nat) : Word := BitVec.ofNat 64 (2 ^ 61 + sub * 2 ^ 57 + addr % 2 ^ 57)

/-- R276: a range of the scratchpad lies within one plain or ring region.  Where it begins inside one and runs past its end, R220
does not say whether sub-code 1 or that of the region beyond stands: it is 1, at the region's end (DESIGN CHOICE, log 80). -/
def Carve.checkRange (c : Carve) (off n : Nat) : List FaultAt :=
  if n = 0 then []
  else match c.regionAt off with
    | none => [⟨0x12, scratchEaux 1 off⟩]
    | some r =>
      if r.kind != 1 && r.kind != 4 then [⟨0x12, scratchEaux 2 off⟩]
      else if r.base + r.size < off + n then [⟨0x12, scratchEaux 1 (r.base + r.size)⟩] else []

/-- The access faults of one side of a COPYL. -/
def Issue.sideFaults (x : Issue) (s : State) (memory : Bool) (va n : Nat) (acc : Access) : List FaultAt :=
  if memory then (if n = 0 then [] else s.rangeFaults x.ply va n acc) else (s.carve x.ply.skein).checkRange va n

def misalignedSide (memory : Bool) (va : Nat) : List FaultAt :=
  if va % 8 = 0 then [] else [⟨0x18, if memory then BitVec.ofNat 64 (va % 2 ^ 57) else scratchEaux 0 va⟩]

/-- COPYL (R276).  A count above its limit does not keep the ranges from their checks (R10), which then are those of the
first 2^24 bytes (DESIGN CHOICE, log 80). -/
def execCopyl (h : Head) (d : Src) (a : Src) (b : Src) (c : Src) (slot : BitVec 3) (dir : BitVec 2) (bar : Bool) (s : State) :
    Host.Outcome State Fault Refusal :=
  let toMem := dstInMemory dir.toNat
  let fromMem := srcInMemory dir.toNat
  engineRun s (.copyl h d a b c slot dir bar)
    (fun x => x.checkUniform okCtl d ++ x.checkUniform okCtl a ++ x.checkUniform okCtl b
      ++ if bar then x.checkUniform okCtl c else [])
    (fun x =>
      let dst := (x.uniform d).toNat
      let src := (x.uniform a).toNat
      let n := (x.uniform b).toNat
      let count : Bool := n % 8 == 0 && n ≤ 2 ^ 24
      let m := Nat.min n (2 ^ 24)
      (if count then [] else [⟨0x12, copyEaux 5 x.addr⟩])
        ++ x.sideFaults s toMem dst m .write ++ x.sideFaults s fromMem src m .read ++ x.barFaults s bar c ++ misalignedSide toMem dst ++ misalignedSide fromMem src)
    (fun x => .copyl (x.uniform d).toNat (x.uniform a).toNat (x.uniform b).toNat dir.toNat
      (if bar then some (x.uniform c).toNat else none) .queued)

/-- CMAP (R275). -/
def execCmap (h : Head) (a : BitVec 6) (off : BitVec 14) (slot : BitVec 3) (map : BitVec 5) (s : State) :
    Host.Outcome State Fault Refusal :=
  let va (x : Issue) : Nat := ((x.uniform (.s a)) + off.signExtend 64).toNat
  engineRun s (.cmap h a off slot map) (fun x => x.checkUniform okCtl (.s a))
    (fun x => s.rangeFaults x.ply (va x) 256 .read
      ++ if va x % 64 = 0 then [] else [⟨0x18, BitVec.ofNat 64 (va x % 2 ^ 57)⟩])
    (fun x => .cmap (va x) map.toNat)

/-! ### The engine -/

def State.putOp (s : State) (o : Op) : State := { s with ops := updateWhere (·.id == o.id) (fun _ => o) s.ops }

def OpBody.copyPhase : OpBody → Option CopyPhase
  | .copy _ _ _ _ _ _ p => some p
  | .copyl _ _ _ _ _ p => some p
  | _ => none

def OpBody.setPhase (ph : CopyPhase) : OpBody → OpBody
  | .copy i d b cs m st _ => .copy i d b cs m st ph
  | .copyl d a n dir bar _ => .copyl d a n dir bar ph
  | b => b

/-- The operation has begun: the pages that were checked at its issue have been used, or it translates afresh (R303). -/
def Op.setPhase (o : Op) (ph : CopyPhase) : Op := { o with body := o.body.setPhase ph, pages := [] }

/-- The map slot that an operation reads or fills. -/
def OpBody.mapSlot : OpBody → Option Nat
  | .copy (.copy _ _ _ _ _ map _ _ _ _) .. => some map.toNat
  | .cmap _ map => some map
  | _ => none

/-- An operation that the engine has not begun. -/
def OpBody.waiting : OpBody → Bool
  | .cmap .. => true
  | b => b.copyPhase == some .queued

/-- R234: a copy that waits to acquire a slot of a ring none of whose slots is free. -/
def State.acquireWaits (s : State) (o : Op) : Bool :=
  match o.body, (s.ply o.ply).bind fun p => s.skein p.skein with
  | .copy (.copy _ _ _ _ _ _ false _ _ _) d _ _ _ _ (.slotWait _), some k =>
    k.residence == .resident && match k.carve.ring d with | some r => r.acquire.isNone | none => false
  | _, _ => false

/-- R265, R274 step 1: operations of one ply begin in issue order, and those of a skein use a map slot in that order; those
of a core wait behind one that waits for a free slot (R234). -/
def State.engineTurn (s : State) (o : Op) (p : Ply) : Bool :=
  s.forkReady o
  && !(s.ops.any fun e => e.id < o.id && s.acquireWaits e && (s.ply e.ply).any fun q => q.core == p.core)
  && !(s.ops.any fun e => e.id < o.id && e.body.waiting && e.body.isCopy
    && ((e.ply == o.ply)
      || (o.body.mapSlot.isSome && e.body.mapSlot == o.body.mapSlot
          && match s.ply e.ply with | some q => q.skein == p.skein | none => false)))

/-- Faults of a copy's data as it will defer them: each cause and sub-code once, rising (R277). -/
def Op.dataFaults (o : Op) (l : List (Nat × Nat)) (info : Nat → Nat) : List Deferred :=
  (sortBy (fun x => x.1 * 16 + x.2) l.eraseDups).map fun x =>
    ⟨x.1, o.left, BitVec.ofNat 64 (o.addr % 2 ^ 57 + (if x.1 = 0x12 ∨ x.1 = 0x14 then x.2 else 0) * 2 ^ 57), info x.1⟩

/-- A copy fault of an operation (R277). -/
def Op.copyFault (o : Op) (sub : Nat) : Deferred := ⟨0x12, o.left, copyEaux sub o.addr, 0⟩

/-- The operation completes: its faults are pending from now on (R277). -/
def State.copyEnds (s : State) (o : Op) (l : List Deferred) : State :=
  (s.modPly o.ply fun p => l.foldl (fun p d => p.defer d.cause o.left d.eaux d.info) p).dropOp o.id

/-- A copy that ends with nothing moved, with a copy fault (R274). -/
def State.copyFail (s : State) (o : Op) (sub : Nat) : State := s.putOp (o.setPhase (.arrived [o.copyFault sub]))

/-- The part of a copy that its instruction and its map fix. -/
def copyJob (i : Instr) (m : TMap) (coords : List Int) (mode : Rnd) (sat : BitVec 2) (off : Nat) : CopyJob :=
  match i with
  | .copy _ _ _ _ _ _ s2g _ cf _ => ⟨m, coords.take m.dims.length, s2g, cf.toNat, mode, sat, off⟩
  | _ => ⟨m, coords.take m.dims.length, false, m.fmt, mode, sat, off⟩

/-- The ring of a copy, when it has one, and its direction. -/
def copyRing (i : Instr) : Bool := match i with | .copy _ _ _ _ _ _ _ r _ _ => r | _ => false
def copyStores (i : Instr) : Bool := match i with | .copy _ _ _ _ _ _ d _ _ _ => d | _ => false

/-- R274 step 2 without a ring: the image lies within one plain region. -/
def Carve.imageFits (c : Carve) (off n : Nat) : Bool :=
  c.regions.any fun r => r.kind == 1 && r.base ≤ off && off + n ≤ r.base + r.size

/-- The slot of a ring is published or released. -/
def State.ringDone (s : State) (h n off : Nat) (store : Bool) : State :=
  let c := s.carve h
  match c.ring n with
  | none => s
  | some r => match (r.slotAt off).bind (if store then r.release else r.publish) with
    | some r => s.putCarve h (c.setRing n r)
    | none => s

/-- THE WORK OF A COPY (R274 steps 3 to 5): the slot or the image is at `off`; held while a page is not present. -/
def State.copyMove (s : State) (o : Op) (p : Ply) (map : List Byte) (off : Nat) : State :=
  match o.body, parseMap map with
  | .copy i d _ coords mode sat _, some m =>
    let j := copyJob i m coords mode sat off
    let c := s.carve p.skein
    let slot := match c.ring d with | some r => 2 ^ r.log | none => 0
    if copyRing i && slot < j.imageBytes then
      let fault := [o.copyFault 4]
      if j.store then (s.ringDone p.skein d off true).putOp (o.setPhase (.moved 0 fault))
      else
        let c := (List.range (slot / 8)).foldl (fun c k => c.putReg (off + 8 * k) ⟨0, .poison⟩) c
        ((s.putCarve p.skein c).ringDone p.skein d off false).putOp (o.setPhase (.moved slot fault))
    else
      let (pieces, faults) := j.run (s.memNibble p) c.nibble
      let (s', more) := if j.store then s.writePieces p pieces
        else let (c, fl) := c.writePieces pieces; (s.putCarve p.skein c, fl)
      let faults := faults ++ more
      if faults.any (·.1 == 0x11) then s.putOp (o.setPhase (.held off map))
      else
        let moved : List (Nat × Access) :=
          if j.store then pieces.map fun x => (8 * x.1, .write) else j.reads.map fun a => (a, .read)
        match s.spendCopy o p j.imageBytes moved with
        | (s, false) => s
        | (sb, true) =>
          let s' := { s' with budgets := sb.budgets }
          let s' := j.reads.foldl (init := s') fun s a => match s.locate (coreAper p.core) p.asid a .read with
            | .ok (h, ia) => s.noteRead p h ia
            | .error _ => s
          let s' := if copyRing i then s'.ringDone p.skein d off j.store else s'
          let info (cause : Nat) : Nat :=
            if j.store then s.failInfo (coreAper p.core) p.asid cause .write (pieces.map fun x => 8 * x.1)
            else s.failInfo (coreAper p.core) p.asid cause .read j.reads
          s'.putOp (o.setPhase (.moved j.imageBytes (o.dataFaults faults info)))
  | _, _ => s

/-- R274 steps 1 and 2, then a slot of the ring, or the data. -/
def State.copyStart (s : State) (o : Op) (p : Ply) : State :=
  match o.body, s.skein p.skein with
  | .copy i d _ coords mode sat _, some k =>
    match SMap.get none k.maps ((o.body.mapSlot).getD 0) with
    | none => s.copyFail o 1
    | some map =>
      match parseMap map with
      | none => s.copyFail o 1
      | some m =>
        let j := copyJob i m coords mode sat d
        if !pairOk j.src j.dst then s.copyFail o 3
        else if !j.grouped then s.copyFail o 6
        else if copyRing i then
          match k.carve.ring d with
          | none => s.copyFail o 4
          | some r =>
            let r := if j.store then { r with takers := r.takers ++ [o.id] } else { r with acquirers := r.acquirers ++ [o.id] }
            (s.putCarve p.skein (k.carve.setRing d r)).putOp (o.setPhase (.slotWait map))
        else if !k.carve.imageFits d j.imageBytes then s.copyFail o 4
        else s.copyMove o p map d
  | .copy .., none => s.copyFail o 1     -- a ply without a skein has no map
  | _, _ => s

/-- A granule of a COPYL's source. -/
def State.linearRead (s : State) (p : Ply) (memory : Bool) (x : Nat) (pages : List (Nat × Nat × Nat)) :
    Except XFault (Delivered × Option (Nat × Nat)) :=
  if memory then
    match s.locate (coreAper p.core) p.asid x .read pages with
    | .error e => .error e
    | .ok (a, ia) => .ok (judged (s.granuleFor p a ia) ia, some (a, ia))
  else .ok (((s.carve p.skein).granule x).judge x, none)

/-- A granule of a COPYL's destination. -/
def State.linearWrite (s : State) (p : Ply) (memory : Bool) (x : Nat) (pages : List (Nat × Nat × Nat)) (r : Reg) :
    State × List (Nat × Nat) :=
  if memory then
    match s.locate (coreAper p.core) p.asid x .write pages with
    | .error e => (s, [(e.cause, e.sub)])
    | .ok (a, ia) =>
      (((s.peerWrite p a).writeRegFor p a ia r).engineWrote p ia, [])
  else (s.putCarve p.skein ((s.carve p.skein).putReg x r), [])

/-- One granule of a COPYL: where source and destination overlap, its source before or after the copy's own writes, by a
free value (R265). -/
def State.linearStep (s0 : State) (p : Ply) (pages : List (Nat × Nat × Nat)) (dst src dir k : Nat) (st : State × List (Nat × Nat)) :
    State × List (Nat × Nat) :=
  let (s, fl) := st
  let from' := if (Config.freeValue (s0.freeCtr + k)).getLsbD 0 then s else s0
  match from'.linearRead p (srcInMemory dir) (src + 8 * k) pages with
  | .error e => (s, fl ++ [(e.cause, e.sub)])
  | .ok (d, place) =>
    let s := match place with | some (a, ia) => s.noteRead p a ia | none => s
    let (r, f) : Reg × List (Nat × Nat) := match d with
      | .valid w => (⟨w, .raw⟩, [])
      | .poison => (⟨0, .poison⟩, [])
      | .badCode => (⟨0, .poison⟩, [(0x16, 0)])
      | .badTag => (⟨0, .poison⟩, [(0x15, 0)])
    let (s, g) := s.linearWrite p (dstInMemory dir) (dst + 8 * k) pages r
    (s, fl ++ f ++ g)

/-- The work of a COPYL (R276). -/
def State.copylMove (s : State) (o : Op) (p : Ply) : State :=
  match o.body with
  | .copyl dst src n dir _ _ =>
    let ks := List.range (n / 8)
    let ks := if src < dst then ks else ks.reverse
    let (s', faults) := ks.foldl (fun st k => s.linearStep p o.pages dst src dir k st) (s, [])
    if faults.any (·.1 == 0x11) then s.putOp (o.setPhase (.held 0 []))
    else
      let vas (v : Nat) : List Nat := (List.range (n / 8)).map fun k => v + 8 * k
      let side (mem : Bool) (v : Nat) (acc : Access) : List (Nat × Access) := if mem then (vas v).map fun a => (a, acc) else []
      match s.spendCopy o p n (side (dstInMemory dir) dst .write ++ side (srcInMemory dir) src .read) with
      | (s, false) => s
      | (sb, true) =>
        let s' := { s' with budgets := sb.budgets }
        let at_ (acc : Access) (mem : Bool) (v cause : Nat) : Nat :=
          if mem then s.failInfo (coreAper p.core) p.asid cause acc (vas v) o.pages else 0
        let info (cause : Nat) : Nat :=
          Nat.max (at_ .write (dstInMemory dir) dst cause) (at_ .read (srcInMemory dir) src cause)
        { s' with freeCtr := s.freeCtr + n / 8 }.putOp (o.setPhase (.moved n (o.dataFaults faults info)))
  | _ => s

/-- COPY_ENGINE_START (R274): an operation begins, or goes on with its slot, under the ASID of its issue (R284). -/
def execCopyEngineStart (op : Nat) (s : State) : Host.Outcome State Fault Refusal :=
  match s.op op with
  | none => .next s
  | some o =>
    match s.issuer o with
    | none => .next s
    | some p =>
      match o.body with
      | .copy _ _ _ _ _ _ .queued => if s.engineTurn o p then .next (s.copyStart o p) else .next s
      | .copy _ _ _ _ _ _ (.slotReady off map) => .next (s.copyMove o p map off)
      | .copyl _ _ _ _ _ .queued => if s.engineTurn o p then .next (s.copylMove o p) else .next s
      | _ => .next s

/-- ENGINE_PAGE_RESUME (R274 step 5): the page is there again, or not yet. -/
def execEnginePageResume (op : Nat) (s : State) : Host.Outcome State Fault Refusal :=
  match s.op op with
  | none => .next s
  | some o =>
    match s.issuer o with
    | none => .next s
    | some p =>
      match o.body with
      | .copy _ _ _ _ _ _ (.held off map) => .next (s.copyMove o p map off)
      | .copyl _ _ _ _ _ (.held _ _) => .next (s.copylMove o p)
      | _ => .next s

/-- The barrier that an operation arrives at. -/
def OpBody.bar : OpBody → Option Nat
  | .copy (.copy _ _ _ _ _ _ _ _ _ bar) _ b _ _ _ _ => if bar then some b else none
  | .copyl _ _ _ _ bar _ => bar
  | _ => none

/-- ENGINE_BARRIER_ARRIVE (R274 step 6): an uninitialised barrier takes nothing, and the skein counts it. -/
def execEngineBarrierArrive (op : Nat) (s : State) : Host.Outcome State Fault Refusal :=
  match s.op op with
  | none => .next s
  | some o =>
    match s.ply o.ply, o.body.copyPhase, o.body.bar with
    | some p, some (.moved n fl), some b =>
      let s := s.putOp (o.setPhase (.arrived fl))
      match (s.carve p.skein).bars[b]? with
      | none => .next s
      | some v =>
        if v.e = 0 then
          let count (k : Skein) : Skein := if k.handle = p.skein then { k with events := k.events + 1 } else k
          .next { s with skeins := s.skeins.map count }
        else .next (s.arrive p.skein b n)
    | _, _, _ => .next s

/-- COPY_COMPLETE (R274 step 7). -/
def execCopyComplete (op : Nat) (s : State) : Host.Outcome State Fault Refusal :=
  match s.op op with
  | none => .next s
  | some o =>
    match o.body.copyPhase with
    | some (.arrived fl) => .next (s.copyEnds o fl)
    | some (.moved _ fl) => if o.body.bar.isNone then .next (s.copyEnds o fl) else .next s
    | _ => .next s

/-- CMAP_COMPLETE (R275).  One that waits for a page translates afresh when the page is there (R303). -/
def execCmapComplete (op : Nat) (s : State) : Host.Outcome State Fault Refusal :=
  match s.op op with
  | none => .next s
  | some o =>
    match o.body, s.issuer o with
    | .cmap va map, some p =>
      let vas := (List.range 32).map fun k => va + 8 * k
      let reads := vas.map fun a => s.linearRead p true a o.pages
      let absent := reads.any fun r => match r with | .error e => e.cause == 0x11 | .ok _ => false
      if !s.engineTurn o p then .next s
      else if absent then .next (s.putOp { o with pages := [] })
      else
        match s.spendCopy o p 256 (vas.map fun a => (a, .read)) with
        | (s, false) => .next s
        | (s, true) =>
          let got := reads.filterMap fun r => match r with | .ok (d, _) => some d | .error _ => none
          let bad := reads.filterMap fun r => match r with | .error e => some (e.cause, e.sub) | .ok _ => none
          let s := reads.foldl (init := s) fun s r => match r with
            | .ok (_, some (a, ia)) => s.noteRead p a ia
            | _ => s
          let fill (m : Option (List Byte)) (s : State) : State :=
            let put (k : Skein) : Skein := if k.handle = p.skein then { k with maps := SMap.set none k.maps map m } else k
            { s with skeins := s.skeins.map put }
          let causes := judgedCauses got false
          let image := granuleBytes (got.map fun (d : Delivered) => match d with | .valid w => w | _ => 0)
          if !bad.isEmpty || !causes.isEmpty then
            .next ((fill none s).copyEnds o (o.dataFaults (bad ++ causes.map (·, 0)) fun cause =>
              s.failInfo (coreAper p.core) p.asid cause .read vas o.pages))
          else if got.contains .poison || (parseMap image).isNone then .next ((fill none s).copyEnds o [o.copyFault 2])
          else .next ((fill (some image) s).copyEnds o [])
    | _, _ => .next s

end Sys2Proof.Machine
end

