-- ==== Sys2Proof/Machine/Stage.lean ====
section
/-! DEFINITION.  Hub copy queues and the storage stage (09 R278 to R283). -/

namespace Sys2Proof.Machine

/-- Cycles of a microsecond and of a millisecond at 600 MHz (R5). -/
def microCycles : Nat := 600
def milliCycles : Nat := 600000

/-! ### Hub copy queues (R278) -/

/-- A hub copy queue; its ring stands where the machine keeps it (log 27). -/
def Enclave.hubQueue (e : Enclave) (q : Nat) : HubQueue :=
  (SMap.get none e.hubQueues q).getD ⟨Config.hubRingVa e.enc q, Config.hubRingLog e.enc q, 0, 0⟩

def Enclave.setHubQueue (e : Enclave) (q : Nat) (k : HubQueue) : Enclave :=
  { e with hubQueues := SMap.set none e.hubQueues q (some k) }

/-- A store to the doorbell of a queue that may perform (R278). -/
def State.bellStore (s : State) (enc queue tail : Nat) (o : Op) : Option (Op × MemOp × MItem) :=
  match s.ply o.ply, s.access o.id 0 with
  | some p, some (o, _, m, i) =>
    if p.enc == enc && p.bellAt i.va && i.va % 65536 / 8 == queue && i.granule.data.toNat == tail then some (o, m, i) else none
  | _, _ => none

/-- HUB_COPY_DOORBELL (R278): a hub thread's store of a tail to the doorbell of a queue performs. -/
def execHubCopyDoorbell (enc : Nat) (queue : Nat) (tail : Nat) (s : State) : Host.Outcome State Fault Refusal :=
  match s.enclave enc, s.ops.findSome? (s.bellStore enc queue tail) with
  | some e, some (o, m, i) =>
    let k := e.hubQueue queue
    .next ((s.putEnclave (e.setHubQueue queue { k with tail := tail % 2 ^ k.log })).reply o m i .none)
  | _, _ => .next s

/-- Every granule of a range translates for a unit; the first cause otherwise. -/
def State.unitRange (s : State) (dies : List Nat) (asid va n : Nat) (acc : Access) : Option XFault :=
  (List.range ((va % 65536 + n + 65535) / 65536)).findSome? fun i =>
    match s.unitLocate dies asid (if i = 0 then va else (va / 65536 + i) * 65536) acc with
    | .error x => some x
    | .ok _ => none

/-- Hub copies under way in a package. -/
def State.hubCopies (s : State) (pkg : Nat) : Nat :=
  (s.ops.filter fun o => match o.body with
    | .hubcopy enc .. => (s.enclave enc).any (·.pkg == pkg)
    | _ => false).length

/-- HUB_COPY_DESCRIPTOR (R278): one of the four engines takes the descriptor at the head. -/
def execHubCopyDescriptor (enc : Nat) (queue : Nat) (s : State) : Host.Outcome State Fault Refusal :=
  match s.enclave enc with
  | none => .next s
  | some e =>
    let k := e.hubQueue queue
    if k.head = k.tail ∨ 4 ≤ s.hubCopies e.pkg then .next s
    else
      let dies := e.dies s
      let s' := s.putEnclave (e.setHubQueue queue { k with head := (k.head + 1) % 2 ^ k.log })
      match s.unitRead dies e.asid (k.base + 32 * k.head) 4 with
      | none => .next s'
      | some ws =>
        let d := granuleBytes ws
        let dst := field d 0 8
        let src := field d 8 8
        let n := field d 16 4
        let ok : Bool := dst % 8 == 0 && src % 8 == 0 && n % 8 == 0 && n ≤ 2 ^ 24 && field d 20 4 == 0
          && (n == 0 || ((s.unitRange dies e.asid dst n .write).isNone && (s.unitRange dies e.asid src n .read).isNone))
        let o : Op := ⟨s.nextId, 0, 0, 0, s.clock, 0, false, false, [], [],
          .hubcopy enc e.asid dst src n (field d 24 8) ok, e.asid, []⟩
        .next { s' with ops := s'.ops ++ [o], nextId := s'.nextId + 1 }

/-- The hub plies that run a thread of an enclave: for their cores its copy queues work (R224, R278). -/
def State.hubPlies (s : State) (enc : Nat) : List Ply := s.plies.filter fun p => p.isHub && p.enc == enc

/-- One granule of a hub copy (R276, R272); where ranges overlap, its source by a free value. -/
def State.hubStep (s0 : State) (ps : List Ply) (dies : List Nat) (asid dst src k : Nat) (s : State) : State :=
  let from' := if (Config.freeValue (s0.freeCtr + k)).getLsbD 0 then s else s0
  match from'.unitLocate dies asid (src + 8 * k) .read, s.unitLocate dies asid (dst + 8 * k) .write with
  | .ok (a, ia), .ok (b, ib) =>
    (s.storeReg b ib (match from'.deliver a ia with | .valid w => ⟨w, .raw⟩ | _ => ⟨0, .poison⟩)).unitWrote ps ib
  | _, _ => s

/-- ATOM .add on a counter by a unit, for the plies given; a counter that cannot be read keeps what it holds. -/
def State.unitAdd (s : State) (dies : List Nat) (asid va n : Nat) (ps : List Ply := []) : State :=
  match s.unitLocate dies asid va .atomic with
  | .error _ => s
  | .ok (a, ia) => match s.deliver a ia with
    | .valid w => (s.storeReg a ia ⟨w + BitVec.ofNat 64 n, .raw⟩).unitWrote ps ia
    | _ => s

/-- The lines that a hub copy reads and writes are charged to its enclave at their stacks (R402, log 83). -/
def State.spendHubCopy (s : State) (id enc : Nat) (dies : List Nat) (asid dst src n : Nat) : State × Bool :=
  s.spendLines id enc [] fun s => (List.range (n / 8)).flatMap fun k =>
    [(dst, Access.write), (src, Access.read)].filterMap fun x => match s.unitLocate dies asid (x.1 + 8 * k) x.2 with
      | .ok y => some y.1
      | .error _ => none

/-- HUB_COPY_COMPLETE (R278): the copy performs, then its counter. -/
def execHubCopyComplete (op : Nat) (s : State) : Host.Outcome State Fault Refusal :=
  match s.op op with
  | none => .next s
  | some o =>
    match o.body with
    | .hubcopy enc asid dst src n counter ok =>
      match s.enclave enc with
      | none => .next (s.dropOp op)
      | some e =>
        let dies := e.dies s
        let absent (va : Nat) (acc : Access) : Bool := match s.unitRange dies asid va n acc with
          | some x => x.cause == 0x11
          | none => false
        if !ok then .next ((s.unitAdd dies asid counter (2 ^ 32) (s.hubPlies enc)).dropOp op)
        else if n ≠ 0 ∧ (absent dst .write ∨ absent src .read) then .next s
        else match s.spendHubCopy op enc dies asid dst src n with
        | (s, false) => .next s
        | (s, true) =>
          let ks := List.range (n / 8)
          let ks := if src < dst then ks else ks.reverse
          let ps := s.hubPlies enc
          let s' := ks.foldl (fun t k => s.hubStep ps dies asid dst src k t) s
          .next (({ s' with freeCtr := s'.freeCtr + n / 8 }.unitAdd dies asid counter 1 ps).dropOp op)
    | _ => .next s

/-! ### The storage stage (R279 to R281) -/

def Enclave.stream (e : Enclave) (n : Nat) : Stream := SMap.get Stream.idle e.streams n

def Enclave.setStream (e : Enclave) (n : Nat) (k : Stream) : Enclave :=
  { e with streams := SMap.set Stream.idle e.streams n k }

/-- R281: the lease is revoked. -/
def Stream.revoke (k : Stream) : Stream := { Stream.idle with gen := k.gen + 1 }

/-- R279: the extents of a stage list, as bytes. -/
def listExtents : Nat → List Byte → List (List Byte)
  | 0, _ => []
  | n + 1, b => b.take 32 :: listExtents n (b.drop 32)

/-- A stage list that keeps the rules of R279. -/
def stageListOk (h : List Byte) (ext : List (List Byte)) : Bool :=
  let lbs := field h 20 1
  12 ≤ lbs && lbs ≤ 20 && 1 ≤ field h 21 1 && field h 22 42 == 0 && 1 ≤ field h 16 4 && field h 16 4 ≤ 255
    && field h 0 8 % 2 ^ lbs == 0 && field h 8 8 % 16 == 0
    && ext.all fun x => field x 2 2 == 0 && 1 ≤ field x 16 4 && field x 20 12 == 0

/-- The bytes of an extent; the size of a logical block is the device's (log 26). -/
def extentBytes (x : List Byte) : Nat := field x 16 4 * Config.blockBytes (field x 0 2) (field x 4 4)

/-- The frame that holds a virtual address that a unit writes, as the key of its ownership entry; none where it reaches none. -/
def State.writeFrameOf (s : State) (dies : List Nat) (asid va : Nat) : Option Nat :=
  match s.unitLocate dies asid va .write with
  | .ok (a, _) => some (frameKey (a / 2 ^ 38) (a % 2 ^ 38 / 65536))
  | .error _ => none

/-- What a STGPOST finds (R282): its status, and the stream when it is accepted. -/
def State.stagePost (s : State) (p : Ply) (e : Enclave) (list : Nat) (k : Stream) : Nat × Stream :=
  let dies := e.dies s
  if k.active then (1, k)
  else if list % 64 ≠ 0 then (2, k)
  else match s.unitRead dies e.asid list 8 with
    | none => (2, k)
    | some ws =>
      let h := granuleBytes ws
      let n := field h 16 4
      match if 255 < n then none else s.unitRead dies e.asid (list + 64) (4 * n) with
      | none => (2, k)
      | some xs =>
        let ext := listExtents n (granuleBytes xs)
        let block := 2 ^ field h 20 1
        let nb := field h 21 1
        let ring := field h 0 8
        let crec := field h 8 8
        if !stageListOk h ext || (s.unitRange dies e.asid ring (block * (nb + 1)) .write).isSome
            || (s.unitRange dies e.asid crec 16 .write).isSome then (2, k)
        else if ext.any fun x => !(e.ifaces.any fun f => f.func == field x 0 2) then (3, k)
        else
          let bytes := (ext.map extentBytes).foldl (· + ·) 0
          (0, { Stream.idle with
            active := true, gen := k.gen + 1, part := e.part, launch := if p.isHub then none else some p.launch
            ring, crec, lbs := field h 20 1, nb, bytes
            frames := (List.range ((ring % 65536 + block * (nb + 1) + 65535) / 65536)).filterMap fun i =>
              s.writeFrameOf dies e.asid ((ring / 65536 + i) * 65536)
            recFrame := (s.writeFrameOf dies e.asid crec).getD 0
            extents := ext, total := (bytes + block - 1) / block })

/-- The result of an operation that acts once for its course. -/
def State.putResult (s : State) (o : Op) (d : Dst) (r : Reg) : State :=
  s.modPly o.ply fun p => o.left.foldl (fun p f => p.setDst f d r) p

/-- STGPOST (R282). -/
def execStgpost (h : Head) (d : Dst) (a : Src) (b : Src) (slot : BitVec 3) (s : State) : Host.Outcome State Fault Refusal :=
  runIssue s (.stgpost h d a b slot) (fun _ => []) fun x sb =>
    if x.active.isEmpty && sb.isEmpty then x.finish s x.ply [] []
    else
      match lowestFault (sb ++ x.checkUniform okCtl a ++ x.checkUniform okCtl b) with
      | some e => x.refuse s sb e
      | none =>
        match s.specOf x.ply with
        | some sp => s.discardSpec sp 2
        | none =>
          let (s, p) := x.launchOp s x.ply x.sh.slot false x.active ((dstTarget d 0).toList)
            (.stgpost (x.uniform a).toNat (x.uniform b).toNat d)
          x.finish s p [] []

/-- STGPOST_SETTLE (R282).  A stream number above 15, and a ply of no enclave, give a status that the rule does not
state (log 28). -/
def execStgpostSettle (op : Nat) (s : State) : Host.Outcome State Fault Refusal :=
  match s.op op with
  | none => .next s
  | some o =>
    match o.body, s.ply o.ply with
    | .stgpost list n d, some p =>
      let earlier := s.ops.any fun q => q.ply == o.ply && q.id < o.id && match q.body with | .stgpost .. => true | _ => false
      if earlier || !s.forkReady o then .next s
      else
        match if n < 16 then s.enclave p.enc else none with
        | none =>
          let s := s.putResult o d ⟨Config.freeValue s.freeCtr, .i64⟩
          .next ({ s with freeCtr := s.freeCtr + 1 }.dropOp op)
        | some e =>
          let (status, k) := s.stagePost p e list (e.stream n)
          let s := if status = 0 then (s.putEnclave (e.setStream n k)).unitWrite (e.dies s) e.asid k.crec [0, 0] [p] else s
          .next ((s.putResult o d ⟨BitVec.ofNat 64 status, .i64⟩).dropOp op)
    | _, _ => .next s

/-- R283, R281: an advance; a stream whose count reaches its total is idle. -/
def Stream.advance (k : Stream) (n : Nat) : Stream :=
  if !k.active then k
  else
    let c := Nat.min (k.c + n) k.total
    { k with c, active := decide (c < k.total) }

/-- STGADV (R283): it waits until the release's earlier accesses have performed and every earlier STGPOST is settled. -/
def execStgadv (h : Head) (a : Src) (b : Src) (fin : Bool) (s : State) : Host.Outcome State Fault Refusal :=
  runIssue s (.stgadv h a b fin) (fun _ => []) fun x sb =>
    if x.active.isEmpty && sb.isEmpty then x.finish s x.ply [] []
    else
      match lowestFault (sb ++ x.checkUniform okCtl a ++ x.checkUniform okCtl b) with
      | some e => x.refuse s sb e
      | none =>
        let posting := s.ops.any fun q => q.ply == x.ply.handle && match q.body with | .stgpost .. => true | _ => false
        if posting || !s.releaseReady x.ply.handle x.active then x.wait s
        else
          let n := (x.uniform a).toNat
          let s := match if n < 16 then s.enclave x.ply.enc else none with
            | none => s
            | some e =>
              let k := e.stream n
              if !k.active then s
              else s.putEnclave (e.setStream n (if fin then k.revoke else k.advance (x.uniform b).toNat))
          x.finish s x.ply [] []

/-- STAGE_BLOCK_REQUEST (R280). -/
def execStageBlockRequest (enc : Nat) (stream : Nat) (s : State) : Host.Outcome State Fault Refusal :=
  match s.enclave enc with
  | none => .next s
  | some e =>
    let k := e.stream stream
    if k.draining.isEmpty ∧ k.next < k.total ∧ k.next < k.c + k.nb + 1 then
      .next (s.putEnclave (e.setStream stream { k with requested := k.requested ++ [k.next], next := k.next + 1 }))
    else .next s

/-- The length of the longest run of completed blocks from block 0. -/
def stagedOf (done : List Nat) : Nat → Nat → Nat
  | 0, n => n
  | k + 1, n => if done.contains n then stagedOf done k (n + 1) else n

/-- A completion outstanding to a frame (R281): of a block that lies in it; each goes to the record's frame. -/
def Stream.owes (k : Stream) (frame : Nat) : Bool :=
  frame == k.recFrame && !k.requested.isEmpty || k.requested.any fun b =>
    let lo := k.ring % 65536 + b % (k.nb + 1) * 2 ^ k.lbs
    (List.range ((lo % 65536 + 2 ^ k.lbs + 65535) / 65536)).any fun i => k.frames.getD (lo / 65536 + i) 0 == frame

/-- A lease that is being revoked ends when a frame it leaves is owed no completion (R281). -/
def Stream.drained (k : Stream) : Stream := if k.draining.any fun d => !k.owes d.1 then k.revoke else k

/-- The frame that a stream held at its start for the page of an address of its ring or record. -/
def Stream.frameAt (k : Stream) (va : Nat) : Nat :=
  let lo := k.ring / 65536
  if lo ≤ va / 65536 ∧ va / 65536 < lo + k.frames.length then k.frames.getD (va / 65536 - lo) 0 else k.recFrame

/-- Where a stream writes granule `va`: while its lease on the frame that it held at its start drains, there, when the enclave
still owns or seals it (R281, R323); else where its address translates. -/
def State.stagePlace (s : State) (e : Enclave) (k : Stream) (va : Nat) : Option (Nat × Nat) :=
  let key := k.frameAt va
  let o := s.owner (key / 2 ^ 22) (key % 2 ^ 22)
  if (k.draining.any (·.1 == key)) && (o.state == 1 || o.state == 2) && o.enc == e.enc then
    some (flat (key / 2 ^ 22) (key % 2 ^ 22 * 65536 + va % 65536), o.iapg * 65536 + va % 65536)
  else match s.unitLocate (e.dies s) e.asid va .write with
    | .ok x => some x
    | .error _ => none

/-- Registers that a stream writes from an address. -/
def State.stageWrite (s : State) (e : Enclave) (k : Stream) (va : Nat) : List Reg → State
  | [] => s
  | r :: l =>
    let s := match s.stagePlace e k va with
      | some (a, ia) => s.storeReg a ia r
      | none => s
    s.stageWrite e k (va + 8) l

/-- A block enters the ring, and the completion record follows (R280). -/
def State.stageBlock (s : State) (e : Enclave) (n : Nat) (k : Stream) (block : Nat) (data : Option (List Byte)) : State :=
  let size := 2 ^ k.lbs / 8
  let raw (ws : List Word) : List Reg := ws.map fun w => ⟨w, .raw⟩
  let s := s.stageWrite e k (k.ring + block % (k.nb + 1) * 2 ^ k.lbs) (match data with
    | some b => raw (wordsOf size (b.take (k.bytes - block * 2 ^ k.lbs)))
    | none => List.replicate size ⟨0, .poison⟩)
  let errors := k.errors + if data.isNone then 1 else 0
  let done := block :: k.done
  let before := stagedOf k.done k.total 0
  let staged := stagedOf done k.total 0
  let s := s.stageWrite e k (k.crec + 8) (raw [BitVec.ofNat 64 (errors % 2 ^ 32 * 2 ^ 32)])
  let s := if staged = before then s else s.stageWrite e k k.crec (raw [BitVec.ofNat 64 staged])
  s.putEnclave (e.setStream n
    ({ k with errors, done, requested := k.requested.filter (· != block) } : Stream).drained)

/-- STAGE_BLOCK_COMPLETE (R280, R281). -/
def execStageBlockComplete (enc : Nat) (stream : Nat) (gen : Nat) (block : Nat) (data : Option (List (BitVec 8))) (s : State) :
    Host.Outcome State Fault Refusal :=
  match s.enclave enc with
  | none => .next s
  | some e =>
    let k := e.stream stream
    if gen < k.gen then .next (s.putEnclave { e with discards := e.discards + 1 })
    else if gen = k.gen ∧ k.requested.contains block then .next (s.stageBlock e stream k block data)
    else .next s

/-- STAGE_LEASE_REVOKE (R281): a stream that drains has nothing outstanding, or the launch of its skein has ended. -/
def execStageLeaseRevoke (enc : Nat) (stream : Nat) (s : State) : Host.Outcome State Fault Refusal :=
  match s.enclave enc with
  | none => .next s
  | some e =>
    let k := e.stream stream
    let ended := k.active && k.launch.isSome && !(s.plies.any fun p => p.enc == enc && some p.launch == k.launch)
      && !(s.launches.any fun l => some l.id == k.launch)
    if (k.draining.any fun d => !k.owes d.1) || ended then .next (s.putEnclave (e.setStream stream k.revoke)) else .next s

/-- STAGE_DRAIN_TIMEOUT (R281). -/
def execStageDrainTimeout (enc : Nat) (stream : Nat) (s : State) : Host.Outcome State Fault Refusal :=
  match s.enclave enc with
  | none => .next s
  | some e =>
    let k := e.stream stream
    if k.draining.any fun d => d.2 ≤ s.clock then .next (s.putEnclave (e.setStream stream k.revoke)) else .next s

/-- A stream holds a lease on a frame (R281). -/
def Stream.leases (k : Stream) (aper frame : Nat) : Bool :=
  k.active && (k.recFrame == frameKey aper frame || k.frames.contains (frameKey aper frame))

/-- A stream of an enclave holds a lease on a frame. -/
def State.leased (s : State) (aper frame : Nat) : Bool :=
  s.enclaves.any fun e => e.streams.any fun k => k.2.leases aper frame

/-- A lease on a frame is to be revoked: it drains for up to 1 ms from the first time this is asked (R281, R323). -/
def Stream.leave (k : Stream) (aper frame now : Nat) : Stream :=
  if !k.leases aper frame then k
  else if k.draining.any (·.1 == frameKey aper frame) then k.drained
  else ({ k with draining := k.draining ++ [(frameKey aper frame, now + milliCycles)] } : Stream).drained

/-- R281: a frame is to be freed, remapped or sealed: leases on it end, at once or after a drain. -/
def State.leaveFrame (s : State) (aper frame : Nat) : State :=
  { s with enclaves := s.enclaves.map fun (e : Enclave) => { e with
      streams := (e.streams.map fun k => (k.1, k.2.leave aper frame s.clock)).filter fun k => k.2 != Stream.idle } }

/-- The frames of a stream whose pages no longer lead to them. -/
def State.movedFrames (s : State) (e : Enclave) (k : Stream) : List Nat :=
  if !k.active then []
  else
    let page (va key : Nat) : List Nat := if s.writeFrameOf (e.dies s) e.asid va == some key then [] else [key]
    page k.crec k.recFrame ++ k.frames.zipIdx.flatMap fun (key, i) => page ((k.ring / 65536 + i) * 65536) key

/-- R281: the supervisor has remapped pages: leases on the frames that they have left end, at once or after a drain. -/
def State.checkLeases (s : State) : State :=
  let moved := s.enclaves.flatMap fun e => e.streams.flatMap fun k => s.movedFrames e k.2
  moved.eraseDups.foldl (fun s key => s.leaveFrame (key / 2 ^ 22) (key % 2 ^ 22)) s

/-- R281: the launch of the skein that posted them has ended. -/
def Enclave.endStreams (e : Enclave) (launch : Nat) : Enclave :=
  (List.range 16).foldl (init := e) fun e n =>
    let k := e.stream n
    if k.active && k.launch == some launch then e.setStream n k.revoke else e

end Sys2Proof.Machine
end

