-- ==== Sys2Proof/Machine/Translation.lean ====
section
/-! DEFINITION.  RNGSET, ATINV and PGQ; frames that are freed, claimed and moved; the promotion engine (10 R284 to
R305). -/

namespace Sys2Proof.Machine

/-! ### RNGSET (R285, R302) -/

/-- The words of a range, or none where they break R285. -/
def rangeOf (base limit ofs : Nat) : Option Range :=
  let v := bitOf base 0
  let bpg := bitsOf base 16 41
  let lpg := bitsOf limit 16 41
  if bitsOf base 57 7 ≠ 0 ∨ bitsOf base 1 15 ≠ 0 then none
  else if !v then some ⟨false, bpg, 0, 0⟩
  else if bitsOf limit 57 7 ≠ 0 ∨ bitsOf limit 0 16 ≠ 0 ∨ lpg ≤ bpg ∨ bitsOf ofs 0 16 ≠ 0 then none
  else some ⟨true, bpg, lpg, BitVec.ofNat 48 (bitsOf ofs 16 48)⟩

/-- RNGSET (R302). -/
def execRngset (h : Head) (a : BitVec 6) (b : Src) (slot : BitVec 3) (n : BitVec 4) (s : State) :
    Host.Outcome State Fault Refusal :=
  runIssue s (.rngset h a b slot n) (fun _ => []) fun x sb =>
    if x.active.isEmpty && sb.isEmpty then x.finish s x.ply [] []
    else
      let w (k : Nat) : Nat := (x.uniform (coordSrc a k)).toNat
      let asid := (x.uniform b).toNat
      let bad (sub : Nat) : FaultAt := ⟨0x12, BitVec.ofNat 64 (asid % 2 ^ 57 + sub * 2 ^ 57)⟩
      let chk : Except FaultAt Range := do
        stage (sb ++ (List.range 3).flatMap (fun k => x.checkUniform okCtl (coordSrc a k)) ++ x.checkUniform okCtl b)
        if !s.asidLive asid || (asid == 1 && x.ply.level3 != 2) then .error (bad 6)
        else match rangeOf (w 0) (w 1) (w 2) with
          | none => .error (bad 7)
          | some r => return r
      match chk with
      | .error e => x.refuse s sb e
      | .ok r =>
        let (s, p) := x.launchOp s x.ply x.sh.slot false x.active [] (.rngset asid n.toNat r)
        x.finish s p [] []

/-- The packages of the garment of an ASID, that of the issuer among them; ASIDs 0 and 1 are the package's own (log 82). -/
def State.garmentOf (s : State) (pkg asid : Nat) : List Nat :=
  match if asid < 2 then none else s.enclaveOfAsid asid with
  | some e => (pkg :: (s.partitions.filter (·.id % 8 == e.part)).map (·.id / 8)).eraseDups
  | none => [pkg]

/-- RNGSET_UPDATE (R302): the range tables of the garment have the new range; leases on pages that it moves end (R281). -/
def execRngsetUpdate (op : Nat) (s : State) : Host.Outcome State Fault Refusal :=
  match s.op op with
  | none => .next s
  | some o => match o.body, s.ply o.ply with
    | .rngset asid n r, some p =>
      let s := if s.asidLive asid then (s.garmentOf (p.core / 1024) asid).foldl (fun s pkg => s.setRange pkg asid n r) s else s
      .next (s.checkLeases.dropOp op)
    | _, _ => .next s

/-! ### ATINV (R303) -/

/-- ATINV (R303). -/
def execAtinv (h : Head) (a : Src) (b : Src) (slot : BitVec 3) (mode : BitVec 2) (s : State) : Host.Outcome State Fault Refusal :=
  runIssue s (.atinv h a b slot mode) (fun _ => []) fun x sb =>
    if x.active.isEmpty && sb.isEmpty then x.finish s x.ply [] []
    else
      match lowestFault (sb ++ x.checkUniform okCtl a ++ x.checkUniform okCtl b) with
      | some e => x.refuse s sb e
      | none =>
        let (s, p) := x.launchOp s x.ply x.sh.slot false x.active []
          (.atinv mode.toNat (x.uniform a).toNat (x.uniform b).toNat [])
        x.finish s p [] []

/-- An entry that an ATINV drops. -/
def dropsEntry (mode ia asid pkg core : Nat) (e : TlbEntry) : Bool :=
  match mode with
  | 0 => e.asid == asid && e.page / 2 ^ e.size == ia / 2 ^ e.size
  | 1 => e.asid == asid
  | _ => core / 1024 == pkg

/-- The accesses that used an entry to be dropped and have not performed: of fibres, and of engine operations that were
checked against it. -/
def State.usersOf (s : State) (mode ia asid pkg : Nat) : List Item :=
  s.ops.flatMap fun o => match s.ply o.ply with
    | none => []
    | some p =>
      let dropped := (s.core p.core).tlb.filter (dropsEntry mode ia asid pkg p.core)
      let used (a : Nat) : Bool := dropped.any fun e => e.asid == o.asid && e.page / 2 ^ e.size == a / 2 ^ e.size
      match o.body with
      | .mem m _ => (m.items.filter fun i => o.left.contains i.fibre && used i.ia).map fun i => ⟨o.id, i.fibre⟩
      | _ => if o.pages.any fun q => used (q.2.1 * 65536) then [⟨o.id, o.left.headD 0⟩] else []

/-- R303: an access no longer holds an ATINV: it has performed, or its engine holds it for an absent page and keeps no
translation of it. -/
def State.released (s : State) (i : Item) : Bool :=
  s.itemDone i || match s.op i.op with
    | some o => match o.body with | .mem .. => false | _ => o.pages.isEmpty
    | none => true

/-- A translation of a frame cache that an ATINV drops (R303). -/
def dropsFrame (mode ia asid pkg : Nat) (x : FrameEntry) : Bool :=
  match mode with
  | 0 => x.asid == asid && x.page == ia / 65536
  | 1 => x.asid == asid
  | _ => x.stack / 4 / 8 == pkg

/-- ATINV_DROP (R303): the entries are dropped; the slot clears when the accesses that used them have performed.  Leases on
frames that the supervisor has remapped end (R281). -/
def execAtinvDrop (op : Nat) (s : State) : Host.Outcome State Fault Refusal :=
  match s.op op with
  | none => .next s
  | some o =>
    match o.body, s.ply o.ply with
    | .atinv mode ia asid after, some p =>
      let pkg := p.core / 1024
      if mode = 3 then .next (if after.all s.released then s.dropOp op else s)
      else
        let users := s.usersOf mode ia asid pkg
        let s := { s with
          cores := s.cores.map fun (k : Core) => { k with tlb := k.tlb.filter fun e => !dropsEntry mode ia asid pkg k.id e }
          frameCaches := s.frameCaches.filter fun x => !dropsFrame mode ia asid pkg x }
        let s := s.checkLeases
        .next (if users.all s.released then s.dropOp op else s.putOp { o with body := .atinv 3 ia asid users })
    | _, _ => .next s

/-! ### PGQ (R305) -/

/-- The report on a virtual address.  Of a malformed entry it gives the TYPE, 00 for a pointer, and the level; a stub is
reported with the result of its home, where an entry of the home's walk is malformed; no field tells of the home's other
failures.  The tree is walked for an address of the kick page too, for which R328 consults no entry (DESIGN CHOICE, log 51).
An ASID that is not live has no ranges (R284, R285). -/
def State.pageReport (s : State) (aper asid va : Nat) : Nat :=
  if !s.asidLive asid then 2 ^ 36
  else match s.toIa (aperPkg aper) asid va with
  | .error x => (if x.sub = 2 then 1 else 2) * 2 ^ 36
  | .ok ia =>
    let page := ia / 65536
    let bad := 3 * 2 ^ 36
    let report (level e : Nat) : Nat := bitsOf e 42 22 * 2 ^ 42 + (3 - level) * 2 ^ 40 + level * 2 ^ 38 + page
    match s.walk aper asid ia with
    | .invalid level => level * 2 ^ 38 + page
    | .malformed level e => (if bitsOf e 62 2 = 1 then 0 else bitsOf e 62 2) * 2 ^ 62 + level * 2 ^ 38 + bad + page
    | .leaf level e => report level e
    | .stub level e => match s.walk (bitsOf e 42 12) asid ia with
      | .malformed .. => report level e + bad
      | _ => report level e

/-- R305: user code names no other ASID. -/
def pgqBreach (x : Issue) (b : Src) : List FaultAt := if x.ply.level3 = 0 ∧ b ≠ .zero then [⟨0x01, 0⟩] else []

/-- PGQ (R305). -/
def execPgq (h : Head) (d : Dst) (a : Src) (b : Src) (slot : BitVec 3) (s : State) : Host.Outcome State Fault Refusal :=
  runIssue s (.pgq h d a b slot) (pgqBreach · b) fun x sb =>
    let judge (f : Nat) : Option FaultAt :=
      lowestFault (sb ++ x.check f okCtl a ++ if b = .zero then [] else x.checkUniform okCtl b)
    let good := x.active.filter fun f => (judge f).isNone
    let faults := (x.active.filterMap fun f => (judge f).map (f, ·)) ++ x.inactiveFaults sb
    if good.isEmpty then x.finish s x.ply [] faults
    else
      let asid := if b = .zero then x.ply.asid else (x.uniform b).toNat
      let (s, p) := x.launchOp s x.ply x.sh.slot true good (good.filterMap (dstTarget d))
        (.pgq d asid (asid == 1 && x.ply.level3 != 2) (good.map fun f => (f, (x.reg f a).val.toNat)))
      x.finish s p [] faults

/-- PGQ_REPLY (R305).  What it tells code below monitor level of ASID 1, whose ranges it may not read (R285), is open (log 30). -/
def execPgqReply (op : Nat) (s : State) : Host.Outcome State Fault Refusal :=
  match s.op op with
  | none => .next s
  | some o =>
    match o.body, s.ply o.ply with
    | .pgq d asid hidden vas, some p =>
      let report (f : Nat) : Word :=
        if hidden then Config.freeValue (s.freeCtr + f)
        else BitVec.ofNat 64 (s.pageReport (coreAper p.core) asid (SMap.get 0 vas f))
      let s := s.modPly o.ply fun p => o.left.foldl (fun p f => p.setDst f d ⟨report f, .i64⟩) p
      let s := if hidden then { s with freeCtr := s.freeCtr + 64 } else s
      .next (s.dropOp op)
    | _, _ => .next s

/-! ### Frames (R296, R297) -/

/-- A frame leaves the owned state, its contents zeroed; it keeps its GEN.  Speculations that read it see it written. -/
def State.freeFrame (s : State) (aper frame : Nat) : State :=
  let o := s.owner aper frame
  let line := flat aper (frame * 65536) / 64
  let s := (s.zeroFrame aper frame).setOwner aper frame { Owner.free with gen := o.gen }
  { s with specs := s.specs.map fun (x : Spec) =>
      { x with written := x.reads.filter (fun l => line ≤ l && l < line + 1024) ++ x.written } }

/-- A single frame becomes owned: its GEN grows by one. -/
def State.ownFrame (s : State) (aper frame kind : Nat) (ceil : BitVec 3) (enc iapg : Nat) : State :=
  s.setOwner aper frame ⟨1, kind, ceil, enc, (s.owner aper frame).gen + 1, iapg⟩

/-- R297: the GEN of frames that become owned together. -/
def State.groupGen (s : State) (aper frame n : Nat) : BitVec 16 :=
  BitVec.ofNat 16 ((List.range n).foldl (fun g k => Nat.max g (s.owner aper (frame + k)).gen.toNat) 0 + 1)

/-- Waiters on a frame follow it to another. -/
def State.waitersFollow (s : State) (a f a' f' : Nat) : State :=
  let lo := flat a (f * 65536)
  let upd (w : Waiter) : Waiter :=
    if lo ≤ w.addr && w.addr < lo + 65536 then { w with addr := w.addr - lo + flat a' (f' * 65536), home := a' } else w
  { s with waiters := s.waiters.map upd }

/-- The bytes, codes and tags of a frame go to another, unchanged; waiters on it follow, and speculations that read it
see it written. -/
def State.moveFrame (s : State) (a f a' f' : Nat) : State :=
  let lo := flat a (f * 65536)
  let to' := flat a' (f' * 65536)
  let s0 := s.zeroFrame a' f'
  let within (x : Nat) : Bool := lo ≤ x && x < lo + 65536
  let cells := s.mem.filter fun c => within c.1
  let codes := s.codes.filter fun c => within (c.1 * 8)
  let tags := s.tagFail.filter fun l => within (l * 64)
  let s1 := { s0 with
    mem := cells.foldl (fun m (c : Host.Cell) => SMap.put m (c.1 - lo + to') c.2) s0.mem
    codes := codes.foldl (fun m (c : Nat × Option Byte) => SMap.put m (c.1 - lo / 8 + to' / 8) c.2) s0.codes
    tagFail := s0.tagFail ++ tags.map fun l => l - lo / 64 + to' / 64
    specs := s0.specs.map fun (x : Spec) => { x with written := x.reads.filter (fun l => within (l * 64)) ++ x.written } }
  (s1.waitersFollow a f a' f').zeroFrame a f

/-! ### The promotion engine (R299 to R301) -/

/-- The physical address of the entry for an IA at a level of a die's tree. -/
def State.entryAt (s : State) (aper asid ia : Nat) (level : Nat) : Option Nat :=
  let step (table : Option Nat) (l : Nat) : Option Nat := table.bind fun t =>
    let e := ofBytesLE (memRead s.mem (flat aper (t + 8 * bitsOf ia (levelShift l) (levelBits l))) 8)
    if bitsOf e 62 2 = 1 ∧ !malformedEntry s aper l e then some (bitsOf e 8 30 * 256) else none
  ((List.range level).foldl step (if s.asidLive asid then some (s.root aper asid) else none)).map fun t =>
    t + 8 * bitsOf ia (levelShift level) (levelBits level)

def State.tableWord (s : State) (aper pa : Nat) : Nat := ofBytesLE (memRead s.mem (flat aper pa) 8)

/-- A write to a table: the granule's code is made for the page that its frame is bound to. -/
def State.putTableWord (s : State) (aper pa e : Nat) : State :=
  let o := s.owner aper (pa / 65536)
  s.storeReg (flat aper pa) (o.iapg * 65536 + pa % 65536) ⟨BitVec.ofNat 64 e, .raw⟩

/-- The control block of a die, as bytes. -/
def State.promotionCtl (s : State) (aper : Nat) : Option (List Byte) :=
  match s.readGranules aper 0 (Config.promotionBlock aper) 8 with
  | .ok ws => some (granuleBytes ws)
  | .error _ => none

/-- The control block's log has room. -/
def logRoom (c : List Byte) : Bool := (field c 36 4 + 2 ^ 32 - field c 32 4) % 2 ^ 32 < 256

/-- Granules written by an engine of a die under ASID 0. -/
def State.engineWrite (s : State) (aper va : Nat) : List Word → State
  | [] => s
  | w :: r =>
    let s := match s.locate aper 0 va .write with
      | .ok (a, ia) => s.storeReg a ia ⟨w, .raw⟩
      | .error _ => s
    s.engineWrite aper (va + 8) r

/-- A log record, with the tails of the pool and of the log advanced (R301). -/
def State.promotionLog (s : State) (aper : Nat) (c : List Byte) (asid size status moved ia run table pops : Nat) : State :=
  let tail := field c 36 4
  let s := s.engineWrite aper (field c 24 8 + 32 * (tail % 256))
    [BitVec.ofNat 64 (asid + size * 2 ^ 16 + status * 2 ^ 24 + moved * 2 ^ 32), BitVec.ofNat 64 ia, BitVec.ofNat 64 run,
     BitVec.ofNat 64 table]
  let s := s.engineWrite aper (Config.promotionBlock aper + 16)
    [BitVec.ofNat 64 ((field c 16 4 + pops) % 2 ^ 32 + field c 20 4 * 2 ^ 32)]
  s.engineWrite aper (Config.promotionBlock aper + 32) [BitVec.ofNat 64 (field c 32 4 + (tail + 1) % 2 ^ 32 * 2 ^ 32)]

/-- The leaves of a table, when every entry is a leaf with the attributes of the first. -/
def State.equalLeaves (s : State) (aper level table n : Nat) : Option (List Nat) :=
  let es := (List.range n).map fun i => s.tableWord aper (table + 8 * i)
  let attrs (e : Nat) : Nat := bitsOf e 54 8
  if es.all fun e => bitsOf e 62 2 == 2 && !malformedEntry s aper level e && attrs e == attrs (es.headD 0) then some es else none

/-! A region is moved page by page: one execution of PROMOTION_2MIB begins it, one treats each page, and a last one rewrites
the level-2 entry.  One execution takes the five steps of R300 for a page, so every request to the page performs wholly before
them or wholly after, at the new leaf (log 10). -/

/-- Bytes that the promotion engine of a die moves on two stacks, paid by its internal activity (R299; activity 1, log 10):
none while the budget holds it back. -/
def State.chargePromotion (s : State) (die f f' n : Nat) : State × Bool :=
  let charge (f : Nat) : Charge := ⟨aperPkg die, activity 1, 0, aperDie die * 4 + f / 2 ^ 20, n⟩
  s.spendAll (2 ^ 40 + die) (if f / 2 ^ 20 = f' / 2 ^ 20 then [{ charge f with bytes := 2 * n }] else [charge f, charge f'])

def State.setPromo (s : State) (m : Promo) : State := { s with promos := updateWhere (·.die == m.die) (fun _ => m) s.promos }

def Promo.leaf (m : Promo) (k : Nat) : Nat := m.leaves.getD k 0

/-- The frame that page `k` leaves. -/
def Promo.old (m : Promo) (k : Nat) : Nat := bitsOf (m.leaf k) 16 22

/-- R300, R301: the region is given up; its record tells which pages have moved. -/
def State.abandonRegion (s : State) (m : Promo) : State :=
  let s := { s with promos := s.promos.filter (·.die != m.die) }
  match s.promotionCtl m.die with
  | some c => s.promotionLog m.die c m.asid 0 1 (2 ^ m.moved - 1) m.ia (m.run * 65536) 0 1
  | none => s

/-- R300 steps 1 to 5 for the next page: its frame is claimed and filled, its leaf replaced, the old frame zeroed and freed.
Where the leaf has changed, or a frame is no longer as the snapshot had it, the region is given up, the claimed frame free
with the region's GEN. -/
def State.movePage (s : State) (m : Promo) : State :=
  let e := m.leaf m.moved
  let old := m.old m.moved
  let f := m.run + m.moved
  let at_ := m.table + 8 * m.moved
  let o := s.owner m.die old
  if s.leased m.die old then s.leaveFrame m.die old      -- R281
  else match s.chargePromotion m.die old f 65536 with
    | (s, false) => s
    | (s, true) =>
      if (s.owner m.die f).state ≠ 0 ∨ o.state ≠ 1 then s.abandonRegion m
      else if s.tableWord m.die at_ ≠ e then (s.setOwner m.die f { Owner.free with gen := m.gen }).abandonRegion m
      else
        let s := (s.setOwner m.die f { o with gen := m.gen }).moveFrame m.die old m.die f
        let s := s.putTableWord m.die at_ (e - bitsOf e 0 38 + f * 65536 + m.gen.toNat)
        (s.setOwner m.die old { Owner.free with gen := o.gen }).setPromo { m with moved := m.moved + 1 }

/-- R300: every page has moved; the level-2 entry is replaced unless it has changed. -/
def State.endRegion (s : State) (m : Promo) (c : List Byte) : State :=
  match s.entryAt m.die m.asid m.ia 2 with
  | some l2 =>
    if s.tableWord m.die l2 = m.upper then
      let e := m.leaf 0
      let s := s.putTableWord m.die l2 (e - bitsOf e 0 38 + m.run * 65536 + m.gen.toNat)
      let s := { s with
        promos := s.promos.filter (·.die != m.die)
        frameCaches := s.frameCaches.filter fun x => !(x.stack / 4 == m.die && x.asid == m.asid && x.page / 32 == m.ia / 2 ^ 21) }
      s.promotionLog m.die c m.asid 0 0 (2 ^ 32 - 1) m.ia (m.run * 65536) m.table 1
    else s.abandonRegion m
  | none => s.abandonRegion m

/-- R299, R300: a region is begun: the snapshot, the run of frames and its GEN; a run that is not free gives it up. -/
def State.beginRegion (s : State) (die asid ia : Nat) (c : List Byte) : State :=
  match s.entryAt die asid ia 3, s.entryAt die asid ia 2 with
  | some l3, some l2 =>
    let table := l3 / 256 * 256
    let head := field c 16 4
    match s.equalLeaves die 3 table 32, s.readGranules die 0 (field c 8 8 + 8 * (head % 256)) 1 with
    | some es, .ok [w] =>
      let run := bitsOf w.toNat 21 17 * 32
      let m : Promo := ⟨die, asid, ia, table, es, s.tableWord die l2, run, s.groupGen die run 32, 0⟩
      let owned := es.all fun e => (s.owner die (bitsOf e 16 22)).state == 1
      let free := (List.range 32).all fun k => (s.owner die (run + k)).state == 0
      if ia % 2 ^ 21 ≠ 0 ∨ !logRoom c ∨ head = field c 20 4 ∨ !owned then s
      else if !free then s.abandonRegion m
      else { s with promos := s.promos ++ [m] }
    | _, _ => s
  | _, _ => s

/-- PROMOTION_2MIB (R299, R300, R301): the next step of the region that the engine is moving, or the beginning of one. -/
def execPromotion2mib (die : Nat) (asid : Nat) (ia : Nat) (s : State) : Host.Outcome State Fault Refusal :=
  match s.promotionCtl die, s.promos.find? (·.die == die) with
  | some c, some m =>
    if m.asid ≠ asid ∨ m.ia ≠ ia then .next s
    else if !bitOf (field c 0 8) 0 ∨ !logRoom c then .next s
    else if m.moved < 32 then .next (s.movePage m)
    else .next (s.endRegion m c)
  | some c, none => .next (if bitOf (field c 0 8) 0 then s.beginRegion die asid ia c else s)
  | none, _ => .next s

/-- PROMOTION_1GIB (R299, R301): the entry alone is rewritten; the 2 MiB pages lie in order and hold one GEN. -/
def execPromotion1gib (die : Nat) (asid : Nat) (ia : Nat) (s : State) : Host.Outcome State Fault Refusal :=
  match s.promotionCtl die, s.entryAt die asid ia 2, s.entryAt die asid ia 1 with
  | some c, some l2, some l1 =>
    let table := l2 / 4096 * 4096
    match s.equalLeaves die 2 table 512 with
    | some es =>
      let e := es.headD 0
      let run := bitsOf e 16 22
      let inOrder := es.zipIdx.all fun (x, i) => bitsOf x 16 22 == run + 32 * i && bitsOf x 0 16 == bitsOf e 0 16
      if ia % 2 ^ 30 ≠ 0 ∨ field c 0 8 % 4 ≠ 3 ∨ !logRoom c ∨ field c 16 4 = field c 20 4 ∨ run % 2 ^ 14 ≠ 0 ∨ !inOrder
          ∨ s.promos.any (·.die == die) then .next s
      else match s.chargePromotion die (table / 65536) (l1 / 65536) 4096 with
        | (s, false) => .next s
        | (s, true) => .next ((s.putTableWord die l1 e).promotionLog die c asid 1 0 0 ia (run * 65536) table 0)
    | none => .next s
  | _, _, _ => .next s

end Sys2Proof.Machine
end

