-- ==== Sys2Proof/Machine/Control.lean ====
section
/-! DEFINITION.  Control registers: their rights, fields and instructions (13 R356 to R358, R365; 03 R105; 01 R47), and the
issue of a course's next instruction (02 R72, R78, R82; 01 R28, R49). -/

namespace Sys2Proof.Machine

/-! ### Rights (R356) -/

/-- May the register be read, and may it be written, at a level; `hub` distinguishes the two user columns. -/
def csrRights (hub : Bool) (level n : Nat) : Bool × Bool :=
  if 12 < n then (false, false)
  else if n = 4 ∨ n = 5 then (true, true)
  else if n = 6 then (true, false)
  else if n = 9 ∨ n = 10 then (true, hub && level == 2)
  else (true, hub && level != 0)

/-! ### The slice (R358, R369) -/

/-- Programmed slice of a partition, and the least one that its saves allow, in µs. -/
def State.slices (s : State) (pkg part : Nat) : Nat × Nat :=
  match s.partition pkg part with
  | some p => (p.slice, 2 * p.times.foldl Nat.max 0)
  | none => (10000, 0)

/-- The slice in effect, in µs. -/
def State.sliceInEffect (s : State) (pkg part : Nat) : Nat := let (set, least) := s.slices pkg part; Nat.max set least

/-- The partition of a context; one that belongs to none has an open value (log 4). -/
def State.contextPart (s : State) (p : Ply) : Nat :=
  match s.enclave p.enc with
  | some e => e.part
  | none => (Config.contextPartition p.core).toNat

def State.sliceCtl (s : State) (p : Ply) : Nat :=
  let part := s.contextPart p
  let (set, least) := s.slices (p.core / 1024) part
  Nat.max set least % 2 ^ 20 + part * 2 ^ 20 + b2n (decide (set < least)) * 2 ^ 29

/-! ### Values -/

/-- The registers that have no bank. -/
def State.csrPlain (s : State) (p : Ply) (n : Nat) : Word :=
  match n with
  | 5 => p.plyCtl
  | 6 => BitVec.ofNat 64 ((if p.isHub then 0 else p.chart) + p.stale.toNat * 2 ^ 8)
  | 7 => p.chartBase
  | 8 => p.gaugeBase
  | 9 => BitVec.ofNat 64 p.asid
  | 10 => BitVec.ofNat 64 p.enc
  | 11 => BitVec.ofNat 64 (s.sliceCtl p)
  | 12 => p.tensionBase
  | _ => 0

/-- The value of a control register; `f` is the fibre whose eaux is read (R359). -/
def State.csr (s : State) (p : Ply) (f n : Nat) : Word :=
  match p.hub with
  | some h =>
    let b := h.bank h.level
    match n with
    | 0 => (b.status &&& 0x38) ||| BitVec.ofNat 64 (2 * h.level)
    | 1 => b.cause
    | 2 => b.epc
    | 3 => b.eaux
    | 4 => b.tvec
    | n => s.csrPlain p n
  | none =>
    match n with
    | 0 => BitVec.ofNat 64 (b2n p.h + 32 * b2n p.fs)
    | 1 => p.cause
    | 2 => p.epc
    | 3 => (p.fibre f).eaux
    | 4 => p.tvec
    | n => s.csrPlain p n
/-! ### Writes -/

/-- ply_ctl (R105): ignored bits are zero. -/
def writePlyCtl (v : Word) : Option Word :=
  let rm := (v.extractLsb' 2 3).toNat
  if rm = 0 ∨ 5 < rm then none else some (v &&& 0x7FF)

/-- tvec (R357). -/
def writeTvec (v : Word) : Option Word := if v.extractLsb' 0 3 = 0 then some v else none

/-- slice_ctl (R358): the partition and its slice.  A PART that is no partition of R396 is a reserved value (R6; DEDUCED,
log 31). -/
def writeSlice (v : Word) : Option (Nat × Nat) :=
  let n := bitsOf v.toNat 0 20
  if bitsOf v.toNat 30 34 ≠ 0 ∨ n < 1000 ∨ 1000000 < n ∨ 5 < bitsOf v.toNat 20 8 then none else some (bitsOf v.toNat 20 8, n)

/-- status at a hub level (R357): FS and PL.  PL 11 names no level: a reserved value (R6; DEDUCED, log 31). -/
def writeStatus (v : Word) : Option Word := if v.extractLsb' 3 2 = 3 then none else some (v &&& 0x38)

/-- The programmed slice of a partition is set. -/
def State.setSlice (s : State) (pkg part n : Nat) : State :=
  { s with partitions := updateWhere (fun q => q.id == pkg * 8 + part) (fun q => { q with slice := n }) s.partitions }

/-- A write to a control register; none where its rules reject the value. -/
def State.csrWrite (s : State) (p : Ply) (n : Nat) (v : Word) : Option (State × Ply) :=
  let bank (f : Bank → Bank) : Option (State × Ply) :=
    p.hub.map fun h => (s, { p with hub := some (h.setBank h.level (f (h.bank h.level))) })
  match n with
  | 0 => (writeStatus v).bind fun w => bank fun b => { b with status := w }
  | 1 => bank fun b => { b with cause := v &&& 0xFF }
  | 2 => bank fun b => { b with epc := v }
  | 3 => bank fun b => { b with eaux := v }
  | 4 => match writeTvec v with
    | none => none
    | some t => if p.isHub then bank fun b => { b with tvec := t } else some (s, { p with tvec := t })
  | 5 => (writePlyCtl v).map fun w => (s, { p with plyCtl := w })
  | 7 => some (s, { p with chartBase := v })
  | 8 => some (s, { p with gaugeBase := v })
  | 9 => some (s, { p with asid := v.toNat % 2048 })
  | 10 => some (s, { p with enc := v.toNat % 65536 })
  | 11 => (writeSlice v).map fun (part, n) => (s.setSlice (p.core / 1024) part n, p)
  | 12 => some (s, { p with tensionBase := v })
  | _ => none

/-! ### CSRR, CSRW, CSRX (R365) -/

/-- R356: the register is forbidden to the level. -/
def csrBreach (x : Issue) (csr : BitVec 14) (write : Bool) : List FaultAt :=
  let (r, w) := csrRights x.hub x.ply.level3 csr.toNat
  if r && (!write || w) then [] else [⟨0x01, 0⟩]

/-- CSRR. -/
def execCsrr (h : Head) (d : Dst) (csr : BitVec 14) (s : State) : Host.Outcome State Fault Refusal :=
  runIssue s (.csrr h d csr) (fun x => csrBreach x csr false) fun x sb =>
    match lowestFault sb with
    | some e => x.refuse s sb e
    | none =>
      let who (f : Nat) : Nat := match d with | .v _ => f | _ => x.active.headD 0
      let outs := x.active.map fun f => (f, ({ d := some ⟨s.csr x.ply (who f) csr.toNat, .i64⟩ } : LaneOut))
      x.finish s (outs.foldl x.emitLane x.ply) outs []

/-- CSRW and CSRX: the value written is `f` of the old one and of A. -/
def csrRun (s : State) (i : Instr) (csr : BitVec 14) (a : Src) (f : Word → Word → Word) (gives : Bool) :
    Host.Outcome State Fault Refusal :=
  runIssue s i (fun x => csrBreach x csr true) fun x sb =>
    if x.active.isEmpty && sb.isEmpty then x.finish s x.ply [] []
    else
      let old := s.csr x.ply (x.active.headD 0) csr.toNat
      let new := if x.active.isEmpty then some (s, x.ply) else s.csrWrite x.ply csr.toNat (f old (x.uniform a))
      -- R10: a rejected value is judged at operand read, with the tag and the stall check
      let rejected : List FaultAt := if new.isNone then [⟨0x01, 0⟩] else []
      match lowestFault (sb ++ x.checkUniform okCtl a ++ rejected), new with
      | none, some (s, p) => x.finishOnce s p (if gives then some ⟨old, .i64⟩ else none)
      | some e, _ => x.refuse s sb e
      | none, none => s

/-- CSRW. -/
def execCsrw (h : Head) (a : Src) (csr : BitVec 14) (s : State) : Host.Outcome State Fault Refusal :=
  csrRun s (.csrw h a csr) csr a (fun _ v => v) false

/-- The value that CSRX writes. -/
def csrxValue (op : BitVec 2) (old v : Word) : Word :=
  if op = 0 then v else if op = 1 then old ||| v else old &&& ~~~ v

/-- CSRX. -/
def execCsrx (h : Head) (d : Dst) (a : Src) (csr : BitVec 14) (op : BitVec 2) (s : State) : Host.Outcome State Fault Refusal :=
  csrRun s (.csrx h d a csr op) csr a (csrxValue op) true

/-! ### The issue of a course -/

/-- A member of a run, as it stands. -/
def State.memberAt (s : State) (m : Nat × Nat) : Option (Ply × Course) := do
  let p ← s.ply m.1
  let c ← p.course m.2
  return (p, c)

/-- The lowest fibre number in the partition of a member of a run (R73). -/
def State.memberNumber (s : State) (m : Nat × Nat) : Nat :=
  match s.memberAt m with
  | some (p, c) => 64 * p.slot + c.fibres.headD 63
  | none => 0

/-- The runs that are active in a partition (R72, R73), oldest first: the start, with ties by the lowest fibre number in the
partition, and the members; a run that has separated is one for each member. -/
def State.activeRuns (s : State) (core part : Nat) : List (Nat × List (Nat × Nat)) :=
  let key (start : Nat) (l : List (Nat × Nat)) : Nat := 1024 * start + ((l.map s.memberNumber).foldl Nat.min 1023)
  let l := ((s.core core).runs.filter (·.part == part)).flatMap fun r =>
    if r.packed then [(key r.start r.members, r.members)] else r.members.map fun m => (key r.start [m], [m])
  sortBy (·.1) l

/-- The instruction, or the chain, that a course offers (R73). -/
def State.chainAt (s : State) (p : Ply) (c : Course) : List Instr :=
  match s.instrAt p c.run.pc with
  | some (i, a, len) => s.chainFrom p (2 - c.chain.length) i a len
  | none => []

/-- The first cycle that the stall counts of a run allow, those of all its members where it is packed (R76). -/
def State.runStart (s : State) (p : Ply) (c : Course) : Nat :=
  match s.packedRun p c.id with
  | some r => (r.members.filterMap s.memberAt).foldl (fun t m => Nat.max t m.2.nextIssue) c.nextIssue
  | none => c.nextIssue

/-- The first cycle in which a course could issue what stands at its address, `delay` cycles after its stall count. -/
def State.offerTime (s : State) (p : Ply) (c : Course) (delay : Nat := 0) : Nat :=
  let t := Nat.max (s.runStart p c) (p.ticks s.clock) + delay
  match s.instrAt p c.run.pc with
  | some (i, a, len) => s.earliest p { c with nextIssue := t } i a len
  | none => t

/-- R36, R73: the scoreboard slots of a chain have room for every member of it. -/
def State.chainRoom (s : State) (c : Course) (l : List Instr) : Bool :=
  let slots := l.filterMap fun i => (shapeOf i).slot
  slots.all fun n => s.sbCount c n + slots.count n ≤ 63

/-- A course makes an offer (R73): it stands in an active run, is not blocked, and its slots have room. -/
def State.offering (s : State) (p : Ply) (c : Course) : Bool :=
  s.inRun p c.id && c.phase == .ready && s.eligible p c && s.chainRoom c (s.chainAt p c)

/-- R73: a member of an older run of the partition offers no later than a cycle. -/
def State.yields (s : State) (p : Ply) (c : Course) (t : Nat) : Bool :=
  ((s.activeRuns p.core p.part).takeWhile fun r => !r.2.contains (p.handle, c.id)).any fun r => r.2.any fun m =>
    match s.ply m.1 with
    | none => false
    | some q => match q.course m.2 with
      | some k => s.offering q k && s.offerTime q k ≤ t
      | none => false

/-- The offers of a core that no older run of their partition goes before, and whose chains hold an instruction of a kind. -/
def State.rivals (s : State) (core : Nat) (kind : Shape → Bool) : List (Ply × Nat) :=
  (s.plies.filter (·.core == core)).flatMap fun q => q.courses.filterMap fun k =>
    if s.offering q k && (s.chainAt q k).any (kind ∘ shapeOf) && !s.yields q k (s.offerTime q k) then some (q, s.offerTime q k) else none

/-- R75: another partition offers to the engine port that the chain needs, in an earlier cycle, or in this one and before it in
the rotation, which begins with partition 0 (DESIGN CHOICE, log 86). -/
def State.portYields (s : State) (p : Ply) (l : List Instr) (t : Nat) : Bool :=
  match (l.filterMap fun i => enginePort (shapeOf i)).head? with
  | none => false
  | some n =>
    let rank (part : Nat) : Nat := (part + 7 - SMap.get 7 (s.core p.core).engineLast n) % 8
    (s.rivals p.core fun sh => enginePort sh == some n).any fun r =>
      r.1.part != p.part && (r.2 < t || r.2 == t && rank r.1.part < rank p.part)

/-- The instructions that take an entry of the pair queue (R187). -/
def entersPair (sh : Shape) : Bool := sh.long && 0xE0 ≤ sh.op && sh.op ≤ 0xEE && sh.op != 0xE8 && sh.op != 0xE9

/-- R187: the other core of the pair offers an entry to the queue, in an earlier cycle, or in this one where this core's was the
one taken last. -/
def State.pairYields (s : State) (p : Ply) (l : List Instr) (t : Nat) : Bool :=
  l.any (entersPair ∘ shapeOf) && match s.bound p with
    | none => false
    | some (q, _) =>
      (s.rivals (2 * q.core + 1 - p.core) entersPair).any fun r => r.2 < t || r.2 == t && q.taken == p.core

/-- A course may issue (R72, R73, R75, R78, R82): on a compute core it offers, and no run that R73, R75 or R187 takes first
offers no later; a hub core has no run slots. -/
def State.mayIssue (s : State) (p : Ply) (c : Course) (delay : Nat := 0) : Bool :=
  match p.hub with
  | some h => !h.halted && !h.stopping && h.wfi.isNone && h.leaving.isNone && s.eligible p c
  | none =>
    let t := s.offerTime p c delay
    let l := s.chainAt p c
    s.offering p c && !s.yields p c t && !s.portYields p l t && !s.pairYields p l t

/-- Nothing can be executed at a course's address: the word cannot be fetched, or is no instruction (R28, R49). -/
def State.wordStop (s : State) (p : Ply) (c : Course) (f : FaultAt) : State :=
  let len := match s.fetchFor p c.run.pc with | .ok w => if isLong w then 8 else 4 | .error _ => 4
  let s := { s with cur := some { ply := p.handle, course := c.id, addr := c.run.pc, len } }
  (s.separate p c.id).raise p c.id c.run (c.fibres.map (·, f))

/-- R341, R343: a speculation notes the lines of the words of an instruction, and whether the instruction reads the register of
a word predicted as unread. -/
def State.noteIssue (s : State) (p : Ply) (pc len : Nat) (i : Instr) : State :=
  match s.specOf p with
  | none => s
  | some x =>
    let srcs := match i with
      | .chartWord ch st ix f => match s.expand p ch st ix f with
        | .ok j => (shapeOf j).srcs
        | .error _ => []
      | _ => (shapeOf i).srcs
    let hit := srcs.any fun r => match r with
      | .s n => x.regs.contains n.toNat
      | _ => false
    let upd (y : Spec) : Spec := if y.launch == x.launch then { y with unreadHit := y.unreadHit || hit } else y
    let s := { s with specs := s.specs.map upd }
    let note (s : State) (pc : Nat) : State := match s.locate (coreAper p.core) p.asid pc .fetch with
      | .ok (a, ia) => s.noteRead p a ia
      | .error _ => s
    if len = 8 then note (note s pc) (pc + 4) else note s pc

/-- The fetch of an instruction fills the attribute TLB (R290). -/
def State.fillFetch (s : State) (p : Ply) (pc : Nat) : State :=
  match s.translate p.core p.asid pc .fetch with
  | .ok t => s.tlbFill p.core p.asid t
  | .error _ => s

/-- The state in which a course executes the instruction at its address; `cycle` is that of its issue, where its run has fixed
it, and `mates` are what the others of the run address in scratchpads. -/
def State.ready (s : State) (p : Ply) (c : Course) (i : Instr) (len : Nat) (cycle : Option Nat := none)
    (mates : List (Nat × Nat) := []) : State :=
  let next := Nat.max c.nextIssue (p.ticks s.clock)
  let phase : Phase := match c.phase with
    | .waitSet .. | .waiting _ => .ready
    | ph => ph
  { ((s.noteIssue p c.run.pc len i).fillFetch p c.run.pc).putPly (p.putCourse { c with nextIssue := next, phase }) with
    cur := some ⟨p.handle, c.id, c.run.pc, len, mates, cycle⟩ }

/-! ### The write of a control register as an event

It is the CSRW or CSRX at which a course stands that writes the register; the event is its execution.  One that stands in a
chain, or in a packed run, issues with the others in a turn of its course. -/

/-- The course executes the write at which it stands, when that write names one of the registers given, with the
value given. -/
def State.csrTurn (s : State) (ply course : Nat) (regs : Nat → Bool) (val : Word) : Host.Outcome State Fault Refusal :=
  match s.ply ply with
  | none => .next s
  | some p =>
    match p.course course with
    | none => .next s
    | some c =>
      if !s.mayIssue p c || !c.chain.isEmpty || (s.packedRun p course).isSome then .next s
      else
        let f := (s.activeAt p c).headD 0
        let read (a : Src) : Word := match a with
          | .imm k => k.signExtend 64
          | .s n => (SMap.get Reg.zero (p.land (Nat.max s.clock c.nextIssue)).s n.toNat).val
          | _ => 0
        match s.look p c.run.pc with
        | .found (.csrw h a csr) len =>
          if !h.ch && regs csr.toNat && read a == val then execCsrw h a csr (s.ready p c (.csrw h a csr) len) else .next s
        | .found (.csrx h d a csr op) len =>
          if !h.ch && regs csr.toNat && csrxValue op (s.csr p f csr.toNat) (read a) == val then
            execCsrx h d a csr op (s.ready p c (.csrx h d a csr op) len)
          else .next s
        | _ => .next s

/-- PLY_CTL_WRITE (R105). -/
def execPlyCtlWrite (ply : Nat) (course : Nat) (val : BitVec 64) (s : State) : Host.Outcome State Fault Refusal :=
  s.csrTurn ply course (· == 5) val

/-- TVEC_WRITE (R357). -/
def execTvecWrite (ply : Nat) (course : Nat) (val : BitVec 64) (s : State) : Host.Outcome State Fault Refusal :=
  s.csrTurn ply course (· == 4) val

/-- SLICE_CTL_WRITE (R358): a course's, or an admin request with a value of slice_ctl's form (R398, log 84). -/
def execSliceCtlWrite (ply : SliceWriter) (course : Nat) (val : BitVec 64) (s : State) :
    Host.Outcome State Fault Refusal :=
  match ply with
  | .ply h => s.csrTurn h course (· == 11) val
  | .admin pkg => .next (match writeSlice val with
    | some (part, n) => if (s.partition pkg part).isSome then (s.setSlice pkg part n).grant pkg else s.refuse pkg
    | none => s.refuse pkg)

/-- CONTROL_REGISTER_WRITE (R356). -/
def execControlRegisterWrite (ply : Nat) (course : Nat) (csr : Nat) (val : BitVec 64) (s : State) :
    Host.Outcome State Fault Refusal :=
  s.csrTurn ply course (fun n => n == csr && n != 4 && n != 5 && n != 11) val

end Sys2Proof.Machine
end

