-- ==== Sys2Proof/Machine/Crypto.lean ====
section
/-! DEFINITION.  The hash, the key derivation and the sealing that the manual names: SHA3-512 and KMAC256, AES-256 and
its XTS and GCM modes (11 R308, R309, R311, R322; 13 R371; the algorithms are those of their public standards, log 16). -/

namespace Sys2Proof.Machine

/-! ### SHA-3

A state is 25 words; word x of row y stands at 5y + x. -/

/-- The generator of the round constants: `n` bits of the shift register with the polynomial of the standard. -/
def shiftBits : Nat → Nat → List Bool
  | 0, _ => []
  | n + 1, r => bitOf r 0 :: shiftBits n (if 128 ≤ r then (2 * r) ^^^ 0x171 else 2 * r)

/-- The constant of round `i` has bit 2^j − 1 from bit j + 7i of the generator. -/
def roundConstant (bits : List Bool) (i : Nat) : Word :=
  BitVec.ofNat 64 ((List.range 7).foldl (fun a j => a + b2n (bits.getD (j + 7 * i) false) * 2 ^ (2 ^ j - 1)) 0)

def roundConstants : List Word := let bits := shiftBits 168 1; (List.range 24).map (roundConstant bits)

/-- The path along which words change places: from (x, y) to (y, 2x + 3y), with the amounts by which they turn. -/
def turnPath : Nat → Nat → Nat → Nat → List (Nat × Nat × Nat)
  | 0, _, _, _ => []
  | n + 1, x, y, k =>
    let y' := (2 * x + 3 * y) % 5
    (5 * y + x, 5 * y' + y, k * (k + 1) / 2 % 64) :: turnPath n y y' (k + 1)

def turns : List (Nat × Nat × Nat) := turnPath 24 1 0 1

/-- The parity of each column. -/
def parities : List Word → List Word
  | a :: b :: c :: d :: e :: r =>
    match parities r with
    | [] => [a, b, c, d, e]
    | l => [a, b, c, d, e].zipWith (· ^^^ ·) l
  | _ => []

/-- Each word takes in the parities of the columns beside its own. -/
def spread (a : List Word) : List Word :=
  let p := parities a
  a.zipIdx.map fun (w, i) => w ^^^ p.getD ((i + 4) % 5) 0 ^^^ (p.getD ((i + 1) % 5) 0).rotateLeft 1

/-- The words turn and change places; the first stays. -/
def scatter (a : List Word) : List Word := turns.foldl (fun b (src, dst, k) => b.set dst ((a.getD src 0).rotateLeft k)) a

/-- Each word is mixed with the two that follow it in its row. -/
def mixRows (a : List Word) : List Word :=
  a.zipIdx.map fun (w, i) => w ^^^ (~~~ a.getD (i / 5 * 5 + (i + 1) % 5) 0 &&& a.getD (i / 5 * 5 + (i + 2) % 5) 0)

/-- The permutation of 24 rounds. -/
def permute (a : List Word) : List Word :=
  roundConstants.foldl (fun a k => (mixRows (scatter (spread a))).modify 0 (· ^^^ k)) a

/-- The bytes of a message are taken in, `rate` at a time. -/
def takeIn (rate : Nat) : Nat → List Word → List Byte → List Word
  | 0, a, _ => a
  | n + 1, a, b =>
    let block := b.take rate
    let a := a.zipIdx.map fun (w, i) => w ^^^ BitVec.ofNat 64 (ofBytesLE ((block.drop (8 * i)).take 8))
    takeIn rate n (permute a) (b.drop rate)

/-- `n` blocks of `rate` bytes are given out. -/
def giveOut (rate : Nat) : Nat → List Word → List Byte
  | 0, _ => []
  | n + 1, a => (a.flatMap fun w => bytesLE 8 w.toNat).take rate ++ giveOut rate n (permute a)

/-- The sponge with a rate in bytes, a domain suffix and an output length. -/
def sponge (rate : Nat) (suffix : Byte) (msg : List Byte) (out : Nat) : List Byte :=
  let blocks := msg.length / rate + 1
  let m := ((msg ++ suffix :: zeros (blocks * rate - msg.length - 1)).modify (blocks * rate - 1) (· ||| 0x80))
  (giveOut rate (out / rate + 1) (takeIn rate blocks (List.replicate 25 0) m)).take out

def sha3_512 (msg : List Byte) : List Byte := sponge 72 0x06 msg 64

/-! ### KMAC256 -/

def ascii (s : String) : List Byte := s.toList.map fun c => BitVec.ofNat 8 c.toNat

/-- A number, most significant byte first, in as few bytes as it needs and at least one. -/
def bytesBE (x : Nat) : List Byte := (bytesLE ((bitLen x + 7) / 8 + if x = 0 then 1 else 0) x).reverse

def leftEncode (x : Nat) : List Byte := let b := bytesBE x; BitVec.ofNat 8 b.length :: b
def rightEncode (x : Nat) : List Byte := let b := bytesBE x; b ++ [BitVec.ofNat 8 b.length]
def encodeString (b : List Byte) : List Byte := leftEncode (8 * b.length) ++ b
def bytepad (b : List Byte) (w : Nat) : List Byte :=
  let x := leftEncode w ++ b
  x ++ zeros ((w - x.length % w) % w)

/-- KMAC256 of a message, with an output length in bits and a customisation string. -/
def kmac256 (key msg : List Byte) (bits : Nat) (custom : String) : List Byte :=
  let x := bytepad (encodeString key) 136 ++ msg ++ rightEncode bits
  sponge 136 0x04 (bytepad (encodeString (ascii "KMAC") ++ encodeString (ascii custom)) 136 ++ x) (bits / 8)

/-! ### AES-256 -/

/-- Product in the field of AES. -/
def gfMul (a b : Nat) : Nat :=
  ((List.range 8).foldl (init := (0, a)) fun (r, a) i =>
    (if bitOf b i then r ^^^ a else r, if 128 ≤ a then (2 * a) % 256 ^^^ 0x1B else 2 * a)).1

/-- The inverse by the power 254. -/
def gfInv (a : Nat) : Nat :=
  let sq (x : Nat) : Nat := gfMul x x
  (List.range 7).foldl (fun r _ => sq (gfMul r a)) 1

def sbox (a : Nat) : Nat :=
  let b := gfInv a
  let rot (k : Nat) : Nat := (b * 2 ^ k % 256) ||| (b / 2 ^ (8 - k))
  b ^^^ rot 1 ^^^ rot 2 ^^^ rot 3 ^^^ rot 4 ^^^ 0x63

def sboxTable : Array Nat := ((List.range 256).map sbox).toArray
def subByte (a : Nat) : Nat := sboxTable.getD a 0

/-- The words of the key schedule, newest first, each of four bytes. -/
def keyWords (key : List Nat) : Nat → List (List Nat)
  | 0 => ((List.range 8).map fun i => (key.drop (4 * i)).take 4).reverse
  | n + 1 =>
    let w := keyWords key n
    let i := n + 8
    let t := w.headD []
    let t := if i % 8 = 0 then
        let r := ((t.drop 1) ++ t.take 1).map subByte
        r.modify 0 (· ^^^ 2 ^ (i / 8 - 1))
      else if i % 8 = 4 then t.map subByte else t
    ((w.getD 7 []).zipWith (· ^^^ ·) t) :: w

/-- The fifteen round keys. -/
def roundKeys (key : List Byte) : List (List Nat) :=
  let w := (keyWords (key.map BitVec.toNat) 52).reverse
  (List.range 15).map fun r => ((w.drop (4 * r)).take 4).flatten

/-- Byte i of a state is row i mod 4 of column i / 4. -/
def shiftRows (s : List Nat) : List Nat := (List.range 16).map fun i => s.getD ((i + 4 * (i % 4)) % 16) 0

def mixColumns (s : List Nat) : List Nat :=
  (List.range 16).map fun i =>
    let a (k : Nat) : Nat := s.getD (i / 4 * 4 + (i + k) % 4) 0
    gfMul (a 0) 2 ^^^ gfMul (a 1) 3 ^^^ a 2 ^^^ a 3

def aesBlock (keys : List (List Nat)) (block : List Byte) : List Byte :=
  let xor (a b : List Nat) : List Nat := a.zipWith (· ^^^ ·) b
  let s := xor (block.map BitVec.toNat) (keys.headD [])
  let s := (List.range 13).foldl (fun s r => xor (mixColumns (shiftRows (s.map subByte))) (keys.getD (r + 1) [])) s
  (xor (shiftRows (s.map subByte)) (keys.getD 14 [])).map (BitVec.ofNat 8)

/-! ### XTS -/

/-- Product by x of a tweak, a number of 128 bits whose first byte is least significant. -/
def tweakNext (t : Nat) : Nat := if 2 ^ 127 ≤ t then (2 * t) % 2 ^ 128 ^^^ 0x87 else 2 * t

def xtsBlocks (keys : List (List Nat)) : Nat → Nat → List Byte → List Byte
  | 0, _, _ => []
  | n + 1, t, b =>
    let tb := bytesLE 16 t
    (aesBlock keys ((b.take 16).zipWith (· ^^^ ·) tb)).zipWith (· ^^^ ·) tb ++ xtsBlocks keys n (tweakNext t) (b.drop 16)

/-- The AES-256-XTS ciphertext of a data unit of whole blocks, by a data key, a tweak key and a number. -/
def xtsCrypt (key tweakKey : List Byte) (unit : Nat) (msg : List Byte) : List Byte :=
  xtsBlocks (roundKeys key) (msg.length / 16) (ofBytesLE (aesBlock (roundKeys tweakKey) (bytesLE 16 unit))) msg

/-! ### GCM -/

/-- A block as a number, its first byte most significant. -/
def blockNum (b : List Byte) : Nat := ofBytesLE ((b ++ zeros (16 - b.length)).take 16).reverse
def numBlock (x : Nat) : List Byte := (bytesLE 16 x).reverse

/-- Product in the field of GHASH. -/
def ghashMul (x y : Nat) : Nat :=
  ((List.range 128).foldl (init := (0, y)) fun (z, v) i =>
    (if bitOf x (127 - i) then z ^^^ v else z, if bitOf v 0 then v / 2 ^^^ (0xE1 * 2 ^ 120) else v / 2)).1

def ghash (h : Nat) : Nat → Nat → List Byte → Nat
  | 0, y, _ => y
  | n + 1, y, b => ghash h n (ghashMul (y ^^^ blockNum (b.take 16)) h) (b.drop 16)

def blocksOf (b : List Byte) : Nat := (b.length + 15) / 16

def gctr (keys : List (List Nat)) (iv : List Byte) : Nat → Nat → List Byte → List Byte
  | 0, _, _ => []
  | n + 1, c, b =>
    let k := aesBlock keys (iv ++ (bytesLE 4 c).reverse)
    (b.take 16).zipWith (· ^^^ ·) k ++ gctr keys iv n (c + 1) (b.drop 16)

/-- The ciphertext (or the plaintext) of a message under a key and a 12-byte IV. -/
def gcmCrypt (key iv msg : List Byte) : List Byte := gctr (roundKeys key) iv (blocksOf msg) 2 msg

/-- The 16-byte tag of additional data and a ciphertext. -/
def gcmTag (key iv aad ct : List Byte) : List Byte :=
  let keys := roundKeys key
  let h := blockNum (aesBlock keys (zeros 16))
  let y := ghash h (blocksOf aad) 0 aad
  let y := ghash h (blocksOf ct) y ct
  let y := ghashMul (y ^^^ (8 * aad.length * 2 ^ 64 + 8 * ct.length)) h
  (numBlock y).zipWith (· ^^^ ·) (aesBlock keys (iv ++ [0, 0, 0, 1]))

end Sys2Proof.Machine
end

