-- ==== Sys2Proof/Machine/Frames.lean ====
section
/-! DEFINITION.  Keys of an enclave (11 R308), sealed frames (13 R371) and their plaintext bodies (13 R372 to R374). -/

namespace Sys2Proof.Machine

/-! ### Keys (R308) -/

/-- The secret of an ENC and an ASID, as the root of trust of a package derives it. -/
def secretOf (pkg epoch enc asid count : Nat) : List Byte :=
  kmac256 (Config.rootKey pkg) (bytesLE 8 epoch ++ bytesLE 2 enc ++ bytesLE 2 asid ++ bytesLE 8 count) 256 "LNO enclave"

def Enclave.secret (e : Enclave) : List Byte := secretOf e.keyPkg e.epoch e.enc e.asid e.creation

/-- A key by its label and length in bits. -/
def keyOf (secret label : List Byte) (bits : Nat) : List Byte := kmac256 secret label bits "LNO key"

def memoryKey (secret : List Byte) : List Byte := keyOf secret (ascii "mem") 512
def integrityKey (secret : List Byte) : List Byte := keyOf secret (ascii "tag") 256
def Enclave.pageKey (e : Enclave) : List Byte := keyOf e.secret (ascii "page") 256
def Enclave.ctxKey (e : Enclave) : List Byte := keyOf e.secret (ascii "ctx") 256

/-- The key of a stream inside the package (0) or between packages (1). -/
def linkStreamKey (secret : List Byte) (stream : Nat) : List Byte := keyOf secret (ascii "lnk" ++ bytesLE 1 stream) 256

def Enclave.linkKey (e : Enclave) (stream : Nat) : List Byte := linkStreamKey e.secret stream

/-- The key of the IDE stream of interface `n`. -/
def Enclave.ideKey (e : Enclave) (n : Nat) : List Byte := keyOf e.secret (ascii "ide" ++ bytesLE 2 n) 256

/-- The secret under which a frame of a package is kept: of the enclave that owns it; else of the supervisor (ENC 0, ASID 0)
or the monitor (ENC 0, ASID 1), from the package's epoch and the creation count at its reset (log 39). -/
def State.frameSecret (s : State) (pkg : Nat) (o : Owner) : List Byte :=
  match if o.state = 3 then none else s.enclave o.enc with
  | some e => e.secret
  | none => secretOf pkg (SMap.get 0 s.epoch pkg) 0 (if o.state = 3 then 1 else 0) (s.pkg pkg).bootCount

/-! ### Lines in the stacks (R309) -/

/-- A line of 64 bytes as the stack base die keeps it. -/
def lineCipher (secret : List Byte) (ia : Nat) (line : List Byte) : List Byte :=
  let k := memoryKey secret
  xtsCrypt (k.take 32) (k.drop 32) (ia % 2 ^ 52 / 64) line

/-- The integrity tag of a line, 56 bits, from its ciphertext. -/
def lineTag (secret : List Byte) (ia : Nat) (cipher : List Byte) : List Byte :=
  (kmac256 (integrityKey secret) (bytesLE 6 (ia % 2 ^ 52 / 64) ++ cipher) 256 "LNO tag").take 7

/-- What a line of a frame holds in its stack: ciphertext and tag. -/
def State.storedLine (s : State) (aper frame line : Nat) : List Byte × List Byte :=
  let o := s.owner aper frame
  let k := s.frameSecret (aperPkg aper) o
  let ia := o.iapg * 65536 + 64 * line
  let ct := lineCipher k ia (memRead s.mem (flat aper (frame * 65536) + 64 * line) 64)
  (ct, lineTag k ia ct)

/-! ### Sealed frames (R371) -/

/-- The first 48 bytes of a frame: the additional data of its seal. -/
def frameHeader (enc kind handle version len : Nat) : List Byte :=
  bytesLE 4 0x4C434631 ++ bytesLE 2 enc ++ bytesLE 1 kind ++ zeros 1 ++ bytesLE 8 handle ++ bytesLE 8 version
    ++ bytesLE 4 len ++ zeros 20

/-- A frame of 64 bytes and its sealed body. -/
def Enclave.sealFrame (e : Enclave) (kind handle version : Nat) (body : List Byte) : List Byte :=
  let head := frameHeader e.enc kind handle version body.length
  let iv := bytesLE 8 version ++ bytesLE 2 e.enc ++ bytesLE 1 kind ++ zeros 1
  let ct := gcmCrypt e.ctxKey iv body
  head ++ gcmTag e.ctxKey iv head ct ++ ct

/-- A frame that a restore accepts: its header and its tag. -/
def Enclave.frameOk (e : Enclave) (kind handle version : Nat) (b : List Byte) : Bool :=
  let n := field b 24 4
  let head := b.take 48
  let ct := (b.drop 64).take n
  let iv := bytesLE 8 version ++ bytesLE 2 e.enc ++ bytesLE 1 kind ++ zeros 1
  field b 0 4 == 0x4C434631 && field b 4 2 == e.enc && field b 6 1 == kind && field b 8 8 == handle && field b 16 8 == version
    && gcmTag e.ctxKey iv head ct == (b.drop 48).take 16

/-! ### Bodies -/

/-- Bytes up to a multiple of `n`. -/
def padTo (n : Nat) (b : List Byte) : List Byte := b ++ zeros ((n - b.length % n) % n)

/-- Tags of four bits each, the first in the low nibble. -/
def tagNibbles (l : List Fmt) : List Byte :=
  bytesLE ((l.length + 1) / 2) (l.foldr (fun t a => t.code.toNat + 16 * a) 0)

/-- A directory of offsets and lengths, then the sections, each at a multiple of 64 bytes; nothing follows the last one (R372; the
worked frame of chapter 18). -/
def directory (l : List (List Byte)) : List Byte :=
  let base := (8 * l.length + 63) / 64 * 64
  let (dir, body) := l.foldl (init := (([] : List Byte), ([] : List Byte))) fun (dir, body) b =>
    if b.isEmpty then (dir ++ zeros 8, body)
    else
      let body := padTo 64 body
      (dir ++ bytesLE 4 (base + body.length) ++ bytesLE 4 b.length, body ++ b)
  padTo 64 dir ++ body

/-- The word of a prefix (R25), or 0. -/
def prefixWord (q : Option Pfx) : Nat :=
  match q with
  | none => 0
  | some q => ((encode (.pfx q.rnd q.sat q.ftz q.nox q.go q.gv)).headD 0).toNat

/-- Registers of distance temporaries, newest first, seven of them. -/
def sevenTemps (l : List Reg) : List Reg := (List.range 7).map fun i => l.getD i Reg.zero

def tempBytes (l : List Reg) : List Byte × List Byte :=
  let t := sevenTemps l
  (tagNibbles (t.map (·.tag)), t.flatMap fun r => bytesLE 8 r.val.toNat)

/-- A modulus register (R104). -/
def qmBytes (m : QMod) : List Byte :=
  bytesLE 8 (m.bits % 128 + 128 * b2n m.valid + 256 * b2n m.wide) ++ bytesLE 8 m.q.toNat ++ bytesLE 8 m.mu.toNat

/-- Section 0 of a ply frame (R372). -/
def State.plySection (s : State) (p : Ply) : List Byte :=
  let regs := (List.range 64).map fun n => SMap.get Reg.zero p.s n
  let gauge := match p.gauge with | some g => g.left | none => 0
  padTo 0x400 <|
    ((List.range 13).flatMap fun n => bytesLE 8 (s.csr p 0 n).toNat) ++ bytesLE 8 gauge ++ zeros 16
      ++ ((List.range 4).flatMap fun n => qmBytes (SMap.get QMod.empty p.qm n))
      ++ tagNibbles (regs.map (·.tag)) ++ (regs.flatMap fun r => bytesLE 8 r.val.toNat)
      ++ bytesLE 1 p.width ++ bytesLE 1 p.window ++ bytesLE 1 p.level ++ bytesLE 1 p.role

/-- The state of a fibre in its record: dormant, live, parked, in a handler. -/
def Ply.fibreState (p : Ply) (f : Nat) : Nat :=
  let x := p.fibre f
  if !x.live then 0
  else if x.handling then 3
  else if p.courses.any fun c => c.fibres.contains f && match c.phase with | .parked .. => true | _ => false then 2
  else 1

/-- A fence token; what it covers has performed before a save (log 17). -/
def tokenBytes (t : Token) : List Byte := bytesLE 8 (t.scope + 8 * t.classes.toNat)

/-- A fibre record (R373); a reconvergence save keeps no program counters. -/
def Ply.fibreRecord (p : Ply) (kind f : Nat) : List Byte :=
  let x := p.fibre f
  let index := p.courses.findIdx fun c => c.fibres.contains f
  let pc := match p.courses.find? fun c => c.fibres.contains f with | some c => c.run.pc | none => 0
  let (tags, temps) := tempBytes x.temps
  let regs := (List.range p.window).map fun n => SMap.get Reg.zero x.v n
  padTo 64 <|
    bytesLE 8 (if kind = 0 then 0 else pc) ++ bytesLE 2 x.pred.toNat ++ bytesLE 1 x.flags.toNat ++ bytesLE 1 (p.fibreState f)
      ++ bytesLE 1 index ++ zeros 3 ++ bytesLE 8 x.eaux.toNat ++ tags ++ zeros 4 ++ temps ++ zeros 8
      ++ ((List.range 8).flatMap fun k => tokenBytes (SMap.get ⟨0, 0, []⟩ x.tokens k))
      ++ tagNibbles (regs.map (·.tag)) ++ regs.flatMap fun r => bytesLE 8 r.val.toNat

/-- The state, the cause and the WAIT mask of a course in its record (R373). -/
def Ply.courseState (p : Ply) (c : Course) : Nat × Nat × Nat :=
  let mask := match c.phase with | .waitSet m _ => m.toNat | _ => 0
  match c.phase with
  | .parked cause .. => (4, cause, 0)
  | ph =>
    if c.fibres.any fun f => (p.fibre f).handling then (5, p.cause.toNat % 256, mask)
    else match ph with
      | .rcv => (1, 0, 0)
      | .waitSet .. => (2, 0, mask)
      | .waiting _ | .blocked _ => (3, 0, 0)
      | _ => (0, 0, 0)

/-- A course record, with its scoreboard counts. -/
def courseRecord (run : Run) (age : Nat) (fs : List Nat) (counts : List Nat) (st cause wait : Nat) : List Byte :=
  bytesLE 8 run.pc ++ bytesLE 8 age ++ bytesLE 8 (maskOf fs) ++ (counts.flatMap (bytesLE 1)) ++ bytesLE 1 run.pos ++ bytesLE 1 st ++ bytesLE 1 cause
    ++ bytesLE 1 wait ++ bytesLE 4 (prefixWord run.pfx) ++ zeros 24

def State.courseRecords (s : State) (p : Ply) : List Byte :=
  p.courses.flatMap fun c =>
    let (st, cause, wait) := p.courseState c
    courseRecord c.run c.age c.fibres ((List.range 8).map (s.sbCount c)) st cause wait

/-- A chart slot's image (R41). -/
def chartImage (k : Option ChartSlot) : List Byte := (List.range 256).flatMap fun i => bytesLE 12 (ChartSlot.entry k i).toNat

/-- The latch section. -/
def latchSection (l : Option Latch) : List Byte :=
  match l with
  | none => zeros 16
  | some l => bytesLE 16 (l.vA + l.n * 2 ^ 16 + 2 ^ 24) ++ (l.vals.flatMap fun r => bytesLE 8 r.val.toNat)
      ++ tagNibbles (l.vals.map (·.tag))

def Ply.deferredSection (p : Ply) : List Byte :=
  p.deferred.flatMap fun d => bytesLE 8 d.cause ++ bytesLE 8 (maskOf d.fibres) ++ bytesLE 8 d.eaux.toNat ++ zeros 8

/-- The handler section. -/
def Ply.handlerSection (p : Ply) : List Byte :=
  match p.handler with
  | none => []
  | some h =>
    courseRecord h.run 0 h.fibres (List.replicate 8 0) 4 h.cause 0 ++ (List.range p.width).flatMap fun f =>
      if h.fibres.contains f then
        let (tags, temps) := tempBytes (SMap.get [] h.temps f)
        bytesLE 8 (SMap.get 0 h.eaux f).toNat ++ tags ++ zeros 4 ++ temps ++ zeros 8
      else zeros 80

/-- The latch of a ply (R190). -/
def State.latchOf (s : State) (p : Ply) : Option Latch :=
  match SMap.get none (s.core p.core).latches p.part with
  | some l => if l.ply = p.handle then some l else none
  | none => none

/-- The body of a ply frame (R372). -/
def State.plyBody (s : State) (p : Ply) (kind : Nat) : List Byte :=
  directory [s.plySection p, (List.range p.width).flatMap (p.fibreRecord kind), s.courseRecords p, chartImage (s.chartOf p),
    latchSection (s.latchOf p), p.deferredSection, p.handlerSection, []]

/-! ### Skein frames (R374) -/

def regionEntry (r : Region) : Nat :=
  r.kind * 2 ^ 60 + r.p1 * 2 ^ 52 + r.p2 * 2 ^ 44 + r.size / 4096 * 2 ^ 16 + r.base / 4096

def Carve.table (c : Carve) : List Byte :=
  bytesLE 8 (c.regions.length + c.bars.length * 2 ^ 8) ++ c.regions.flatMap fun r => bytesLE 8 (regionEntry r)

def Region.granules (r : Region) : List Nat := (List.range (r.size / 8)).map fun i => r.base + 8 * i

/-- Bits as bytes, the first in bit 0. -/
def bitBytes (l : List Bool) : List Byte := bytesLE ((l.length + 7) / 8) (l.foldr (fun b a => b2n b + 2 * a) 0)

def Carve.tagSection (c : Carve) : List Byte :=
  (List.range (c.regions.filter (·.kind == 3)).length).flatMap fun n => match c.cache n with
    | none => []
    | some k =>
      ((List.range (k.ways * k.sets)).flatMap fun l => bytesLE 8 (match c.tagOf n l with
        | some t => t % 2 ^ 56 + 2 ^ 63
        | none => 0))
      ++ padTo 8 ((List.range k.sets).map fun st => BitVec.ofNat 8 (c.rotOf n st))

def SlotState.num : SlotState → Nat
  | .free => 0 | .acquired => 1 | .published => 2 | .filled => 3 | .taken => 4 | .released => 5

def Ring.bytes (r : Ring) : List Byte :=
  bytesLE 2 r.ai ++ bytesLE 2 r.fi ++ bytesLE 2 r.ti ++ bytesLE 2 r.ri ++ zeros 8
    ++ padTo 8 (r.states.map fun t => BitVec.ofNat 8 t.num)

def Barrier.bytes (b : Barrier) : List Byte := bytesLE 4 b.e ++ bytesLE 4 b.a ++ bytesLE 1 (b2n b.ph) ++ bytesLE 1 (b2n b.ovr) ++ zeros 6

def Skein.mapSection (k : Skein) : List Byte :=
  (List.range 32).flatMap fun n => match SMap.get none k.maps n with
    | some m => bytesLE 8 1 ++ m
    | none => zeros 264

/-- An engine operation kept pending with its skein. -/
def pendingRecord (o : Op) : List Byte :=
  match o.body with
  | .copy i d b coords _ _ _ =>
    ((encode i).flatMap fun w => bytesLE 4 w.toNat) ++ bytesLE 8 o.addr ++ bytesLE 8 o.ply ++ bytesLE 8 d ++ bytesLE 8 b
      ++ (coords.flatMap fun c => bytesLE 8 (wrap 64 c)) ++ bytesLE 8 (maskOf o.left)
      ++ bytesLE 8 (match i with | .copy _ _ _ _ slot .. => slot.toNat | _ => 0) ++ zeros 24
  | _ => zeros 192

/-- The blocks of a skein pair, in the frame of the skein on its leader core. -/
def PairBind.bytes (b : PairBind) : List Byte :=
  let held (n : Nat) : Nat := match b.named n with | some k => 1 + 2 * b2n k.borrowed | none => 0
  let tag (n : Nat) : Byte := match b.named n with | some k => k.tag.code.setWidth 8 | none => 0
  ((List.range 32).map fun n => BitVec.ofNat 8 (held n)) ++ (List.range 32).map tag
    ++ (List.range 32).flatMap fun n => match b.named n with
      | some k => (List.range 16384).flatMap fun i => bytesLE 4 (SMap.get 0 k.words i)
      | none => []

/-- The body of a skein frame; `pending` are the operations kept with it, `pair` its blocks. -/
def Skein.body (k : Skein) (pending : List Op) (pair : Option PairBind) : List Byte :=
  let c := k.carve
  let all := c.regions.flatMap Region.granules
  directory [c.table, all.flatMap (fun x => bytesLE 8 (c.granule x).data.toNat), padTo 8 (all.map fun x => (c.granule x).code),
    padTo 8 ((c.regions.filter (·.kind == 2)).flatMap fun r => bitBytes (r.granules.map fun x => SMap.get false c.full (x / 8))),
    padTo 8 c.tagSection, c.rings.flatMap Ring.bytes, c.bars.flatMap Barrier.bytes, k.mapSection, bytesLE 8 k.events,
    pending.flatMap pendingRecord, (match pair with | some b => b.bytes | none => []), [], [], [], [], []]

end Sys2Proof.Machine
end

