-- ==== Sys2Proof/Machine/Enclaves.lean ====
section
/-! DEFINITION.  The E-instructions, hub threads and sealed pages (11 R306 to R327). -/

namespace Sys2Proof.Machine

/-! ### What the monitor reads and writes -/

/-- The outcome of an E-instruction (R314): a status above 0, or the state and the rest of the result word. -/
abbrev Settled := Except Nat (State × Nat)

/-- A structure under the ASID given, through the tree of a die: unreadable or misaligned is status 2, a bad granule 9. -/
def State.structure (s : State) (aper asid va align granules : Nat) : Except Nat (List Byte) :=
  if va % align ≠ 0 then .error 2
  else match s.readGranules aper asid va granules with
    | .ok ws => .ok (granuleBytes ws)
    | .error c => .error (if c = 0x15 ∨ c = 0x16 ∨ c = 0x17 then 9 else 2)

/-- Granules that the monitor writes for a ply under an ASID; the copies of the ply's own core and die are dropped, since
the bind that sees the slot clear joins with the writes (R307, R247). -/
def State.writeGranules (s : State) (p : Ply) (asid va : Nat) : List Word → State
  | [] => s
  | w :: r =>
    let s := match s.locate (coreAper p.core) asid va .write with
      | .ok (a, ia) => (s.storeReg a ia ⟨w, .raw⟩).engineWrote { p with asid } ia
      | .error _ => s
    s.writeGranules p asid (va + 8) r

/-- The same for a whole page. -/
def State.pageWrote (s : State) (p : Ply) (asid page : Nat) : State :=
  let there (key : Nat) : Bool := key / 8192 == cacheKey asid (page * 65536) / 8192
  let k := s.core p.core
  let s := if k.l1.any (there ·.1) then s.putCore { k with l1 := k.l1.filter (!there ·.1) } else s
  { s with l2 := s.l2.filter fun x => !(sliceDie x.1 == coreAper p.core && there x.2.1) }

/-- Every page of a range can be written. -/
def State.writable (s : State) (aper asid va n : Nat) : Bool :=
  (List.range ((va % 65536 + n + 65535) / 65536)).all fun i =>
    match s.locate aper asid (if i = 0 then va else (va / 65536 + i) * 65536) .write with
    | .ok _ => true
    | .error _ => false

/-- A frame name (R315): die and frame. -/
def frameName (w : Nat) : Option (Nat × Nat) :=
  if bitsOf w 38 14 = 0 ∧ bitsOf w 0 16 = 0 then some (bitsOf w 52 12, bitsOf w 16 22) else none

/-- The ASIDs that are live change in the packages of a partition's garment (R284, R400). -/
def State.asidsChange (s : State) (part : Nat) : State := (s.packagesOf part).foldl (fun s pkg => s.tableChange pkg 7 []) s

/-- A free frame on a die of the enclave's partition, on any package of its garment (R62, R240). -/
def State.freeIn (s : State) (part : Nat) (x : Nat × Nat) : Bool :=
  (s.owner x.1 x.2).state == 0 && x.2 % 2 ^ 20 < 0xE0000
    && match s.partition (aperPkg x.1) part with | some p => p.dies.contains (aperDie x.1) | none => false

/-- The frame that an enclave owns for a page. -/
def State.pageFrame (s : State) (e : Enclave) (page : Nat) : Option (Nat × Nat) :=
  (s.owners.find? fun x => x.2.state == 1 && x.2.enc == e.enc && x.2.iapg == page).map fun x => (x.1 / 2 ^ 22, x.1 % 2 ^ 22)

/-- Granules of an enclave's memory by intermediate address. -/
def State.iaRead (s : State) (e : Enclave) (ia : Nat) : Nat → Except Nat (List Word)
  | 0 => .ok []
  | n + 1 => do
    let (d, f) ← match s.pageFrame e (ia / 65536) with | some x => .ok x | none => .error 2
    let w ← match s.deliver (flat d (f * 65536 + ia % 65536)) ia with | .valid w => .ok w | _ => .error 9
    let r ← s.iaRead e (ia + 8) n
    return w :: r

/-- An intermediate address of a page in the enclave's region (R312). -/
def Enclave.inRegion (e : Enclave) (ia n : Nat) : Bool := e.rbase ≤ ia && ia + n ≤ e.rbase + e.rsize

/-! ### ECREATE (R310, R316) -/

/-- The first free number from a start upwards. -/
def firstFree (used : Nat → Bool) (lo hi : Nat) : Option Nat := ((List.range (hi - lo)).map (lo + ·)).find? (!used ·)

/-- The lowest free ENC above the last one given, wrapping. -/
def State.nextEnc (s : State) : Option Nat :=
  let used (n : Nat) : Bool := (s.enclave n).isSome
  (firstFree used (s.lastEnc + 1) 65536).or (firstFree used 1 (s.lastEnc + 1))

def State.nextAsid (s : State) : Option Nat := firstFree (fun n => (s.enclaveOfAsid n).isSome) 2 2048

/-- The rules of the create structure but for its frames. -/
def createOk (b : List Byte) : Bool :=
  let rbase := field b 8 8
  let rsize := field b 16 8
  let inside (x n : Nat) : Bool := rbase ≤ x && x + n ≤ rbase + rsize
  let page (x : Nat) : Bool := x % 65536 == 0 && inside x 65536
  let nthr := field b 44 4
  field b 0 8 < 256 && rbase % 65536 == 0 && rsize % 65536 == 0 && rsize != 0 && rbase + rsize ≤ 2 ^ 52
    && page (field b 24 8) && page (field b 32 8)
    && 1 ≤ field b 40 4 && field b 40 4 ≤ 16 && inside (field b 32 8) (field b 40 4 * 65536)
    && nthr ≤ 64 && (if nthr = 0 then field b 48 8 == 0 else inside (field b 48 8) (64 * nthr))
    && 1 ≤ field b 56 4 && field b 56 4 ≤ 256 && field b 60 4 == 0 && field b 64 8 % 8 == 0
    && field b 72 8 % 64 == 0 && field b 80 176 == 0

def State.ecreate (s : State) (aper va : Nat) : Settled := do
  let b ← s.structure aper 0 va 64 32
  let pkg := aperPkg aper
  let part := field b 0 8
  if !createOk b || (s.partition pkg part).isNone then .error 2
  let n := field b 56 4
  let list ← s.structure aper 0 (field b 64 8) 8 n
  let names := (List.range n).map fun i => frameName (field list (8 * i) 8)
  if names.any (·.isNone) then .error 2
  let frames := names.filterMap id
  if !(frames.all (s.freeIn part)) || decide (¬ frames.Nodup) then .error 3
  match s.nextEnc, s.nextAsid with
  | some enc, some asid =>
    let keyPkg := (s.packagesOf part).foldl Nat.min pkg
    let s := frames.foldl (init := s) fun s x => s.setOwner x.1 x.2 { Owner.free with state := 3, gen := (s.owner x.1 x.2).gen }
    let e : Enclave :=
      { enc, asid, running := false, pkg, part, rbase := field b 8 8, rsize := field b 16 8, kick := field b 24 8
        spill := field b 32 8, nspill := field b 40 4, nthr := field b 44 4, ttab := field b 48 8
        vframes := frames.map fun x => frameKey x.1 x.2, trep := BitVec.ofNat 64 (field b 72 8)
        meas := sha3_512 ((b.drop 8).take 48), epoch := SMap.get 0 s.epoch keyPkg, count := 0, seals := 0, versions := [], frames := 0
        savedTab := [], ceiling := 31, job := none, threads := [], ifaces := [], trepSeq := 0
        creation := s.creations + 1, queues := [], streams := [], hubQueues := [], discards := 0
        keyPkg, sealing := none }
    return (State.asidsChange { s with
      enclaves := insertBy (·.enc) e s.enclaves, creations := s.creations + 1, lastEnc := enc
      soOut := s.soOut.filter (·.1 % 2048 != asid), soNext := s.soNext.filter (·.1 % 2048 != asid)
      ranges := (s.dropRanges asid).ranges } part, asid * 2 ^ 8 + enc * 2 ^ 32)
  | _, _ => .error 4

/-! ### EADD (R317, R327) -/

def State.liveEnclave (s : State) (enc : Nat) : Except Nat Enclave :=
  match s.enclave enc with | some e => .ok e | none => .error 1

/-- Bytes written to a frame as a producer writes them. -/
def State.fillFrame (s : State) (x : Nat × Nat) (page : Nat) (ws : List Word) : State :=
  ws.zipIdx.foldl (fun s w => s.storeReg (flat x.1 (x.2 * 65536) + 8 * w.2) (page * 65536 + 8 * w.2) ⟨w.1, .raw⟩) s

def State.eaddPage (s : State) (p : Ply) (va : Nat) : Settled := do
  let aper := coreAper p.core
  let b ← s.structure aper 0 va 64 8
  let e ← s.liveEnclave (field b 0 2)
  let attr := field b 2 1
  let ia := field b 8 8
  let zero := bitOf attr 6
  let measure := bitOf attr 5
  let src := field b 24 8
  if bitOf attr 7 || field b 3 5 != 0 || field b 32 32 != 0 || attr % 4 == 3 || ia % 65536 != 0 || !e.inRegion ia 65536
      || (!zero && src % 65536 != 0) then .error 2
  let x ← match frameName (field b 16 8) with | some x => .ok x | none => .error 2
  if e.running && (!zero || measure) then .error 1
  if !s.freeIn e.part x then .error 3
  let bytes ← if zero then .ok (zeros 65536) else s.structure aper 0 src 65536 8192
  let page := ia / 65536
  let gen := ((s.owner x.1 x.2).gen + 1).toNat
  let s := (s.zeroFrame x.1 x.2).ownFrame x.1 x.2 (attr % 4) (BitVec.ofNat 3 (attr / 4)) e.enc page
  let s := if zero then s else s.fillFrame x page (wordsOf 8192 bytes)
  let e := if measure then { e with meas := sha3_512 (e.meas ++ b.take 16 ++ bytes) } else e
  return ((s.putEnclave e).pageWrote p e.asid page, gen * 2 ^ 16)

/-- The steps of the requester towards a device (R327): a session, the lock of the interface, the key of its IDE stream,
the start. -/
def deviceSteps (pkg link rid stream func : Nat) (key : List Byte) : List Out :=
  let step (n : Nat) (data : List Byte) : Out := .device pkg link rid n data
  [step 1 [], step 2 (bytesLE 2 func), step 3 (bytesLE 1 stream ++ key), step 4 (bytesLE 2 func)]

/-- R327: an interface slot and an IDE stream of a storage link. -/
def State.eaddDevice (s : State) (aper va : Nat) : Settled := do
  let b ← s.structure aper 0 va 64 8
  let e ← s.liveEnclave (field b 0 2)
  let link := field b 8 8
  if field b 2 6 ≠ 0 ∨ 1 < link ∨ 65535 < field b 16 8 ∨ field b 24 40 ≠ 0 then .error 2
  let here := (s.enclaves.filter (·.pkg == e.pkg)).flatMap fun n => n.ifaces.filter (·.link == link)
  match firstFree (fun n => here.any (·.slot == n)) 0 64, firstFree (fun n => here.any (·.stream == n)) 0 32 with
  | some slot, some stream =>
    let func := (firstFree (fun n => e.ifaces.any (·.func == n)) 0 65536).getD 0
    let f : DevIface := ⟨func, link, slot, stream, field b 16 2, true, e.ideKey func⟩
    let steps := deviceSteps e.pkg link f.rid stream func f.key
    -- the device may refuse any step, after which none follows (log 32)
    match (List.range 4).find? (Config.freeValue s.freeCtr).getLsbD with
    | some n => return ({ s with outs := s.outs ++ steps.take (n + 1) }, 3)
    | none => return ({ s.putEnclave { e with ifaces := e.ifaces ++ [f] } with outs := s.outs ++ steps }, func * 2 ^ 16)
  | _, _ => .error 4

/-! ### EINIT (R318) -/

/-- A thread of the thread table. -/
def threadOf (b : List Byte) : Thread := ⟨field b 0 8, field b 8 8, field b 16 8, .fresh, none, none⟩

def State.einit (s : State) (enc : Nat) : Settled := do
  let e ← s.liveEnclave enc
  if e.running then .error 1
  let spills := (List.range e.nspill).all fun i => (s.pageFrame e (e.spill / 65536 + i)).isSome
  if !spills then .error 2
  let lo := e.ttab / 8 * 8
  let ws ← s.iaRead e lo (if e.nthr = 0 then 0 else 8 * e.nthr + 1 - b2n (decide (e.ttab % 8 = 0)))
  let all := (granuleBytes ws).drop (e.ttab % 8)
  let entries := (List.range e.nthr).map fun i => (all.drop (64 * i)).take 64
  let ok (b : List Byte) : Bool :=
    let ctx := field b 8 8
    field b 24 40 == 0 && field b 16 8 % 64 == 0 && ctx % 65536 == 0 && e.inRegion ctx 65536
      && (s.pageFrame e (ctx / 65536)).isSome
  if !entries.all ok then .error 2
  return (s.putEnclave { e with running := true, threads := entries.map threadOf }, 0)

/-! ### ESEAL and EUNSEAL (R322, R323) -/

/-- The metadata of a sealed image but for its tag (R322). -/
def imageMeta (ia version enc attr pmap : Nat) : List Byte :=
  bytesLE 8 ia ++ bytesLE 8 version ++ bytesLE 2 enc ++ bytesLE 1 attr ++ zeros 13 ++ bytesLE 16 pmap

def imageIv (version enc : Nat) : List Byte := bytesLE 8 version ++ bytesLE 2 enc ++ zeros 2

/-- The plaintext of a page by 512-byte blocks, and PMAP. -/
def State.pagePlain (s : State) (x : Nat × Nat) (page : Nat) : List Byte × Nat :=
  let blocks := (List.range 128).map fun i =>
    let ds := (List.range 64).map fun k =>
      let off := 512 * i + 8 * k
      s.deliver (flat x.1 (x.2 * 65536) + off) (page * 65536 + off)
    let words := ds.filterMap fun (d : Delivered) => match d with | .valid w => some w | _ => none
    if words.length = 64 then (granuleBytes words, false) else (zeros 512, true)
  (blocks.flatMap (·.1), maskOf ((List.range 128).filter fun i => (blocks.getD i ([], false)).2))

/-- A page seals; the frame is in transit already where the ESEAL `op` has waited for a lease on it to drain (R281). -/
def State.eseal (s : State) (p : Ply) (op enc ia name va : Nat) : Settled := do
  let aper := coreAper p.core
  let e ← s.liveEnclave enc
  if ia % 65536 ≠ 0 ∨ !e.inRegion ia 65536 ∨ va % 65536 ≠ 0 ∨ !s.writable aper 0 va (65536 + 64) then .error 2
  let x ← match frameName name with | some x => .ok x | none => .error 2
  let o := s.owner x.1 x.2
  let page := ia / 65536
  if !(o.state = 1 ∨ o.state = 2 ∧ e.sealing = some op) ∨ o.enc ≠ enc ∨ o.iapg ≠ page then .error 3
  if SMap.get 0 e.versions page = 0 ∧ 4096 * e.vframes.length ≤ e.versions.length then .error 4
  let (plain, pmap) := s.pagePlain x page
  let version := e.seals + 1
  let head := imageMeta ia version enc (o.kind + 4 * o.ceil.toNat) pmap
  let ct := gcmCrypt e.pageKey (imageIv version enc) plain
  let image := ct ++ head ++ gcmTag e.pageKey (imageIv version enc) head ct
  let s := s.writeGranules p 0 va (wordsOf 8200 image)
  let s := s.freeFrame x.1 x.2
  return (s.putEnclave { e with seals := version, versions := SMap.set 0 e.versions page version, sealing := none }, version % 2 ^ 48 * 2 ^ 16)

/-- The frame of an ESEAL has a lease whose stream is to drain first. -/
def State.sealLease (s : State) (i : Instr) (w : List Nat) : Option (Enclave × Nat × Nat) :=
  match i, s.enclave (w.getD 0 0), frameName (w.getD 2 0) with
  | .eseal .., some e, some x => if s.leased x.1 x.2 then some (e, x) else none
  | _, _, _ => none

/-- The frame of a page goes in transit while a lease on it drains for an ESEAL (R323). -/
def State.beginSeal (s : State) (op : Nat) (e : Enclave) (x : Nat × Nat) : State :=
  let s := s.leaveFrame x.1 x.2
  let s := s.setOwner x.1 x.2 { s.owner x.1 x.2 with state := 2 }
  s.putEnclave { (s.enclave e.enc).getD e with sealing := some op }

/-- An ESEAL that fails after it waited leaves the frame as it was (R314). -/
def State.unseal (s : State) (op : Nat) (i : Instr) (w : List Nat) : State :=
  match i, s.enclave (w.getD 0 0), frameName (w.getD 2 0) with
  | .eseal .., some e, some x =>
    if e.sealing = some op then (s.setOwner x.1 x.2 { s.owner x.1 x.2 with state := 1 }).putEnclave { e with sealing := none } else s
  | _, _, _ => s

/-- A free frame becomes owned with the plaintext of a sealed page; the granules of its poisoned blocks are poison (R322, R323). -/
def State.openPage (s : State) (x : Nat × Nat) (attr enc page : Nat) (plain : List Byte) (pmap : Nat) : State :=
  let s := (s.zeroFrame x.1 x.2).ownFrame x.1 x.2 (attr % 4) (BitVec.ofNat 3 (attr / 4)) enc page
  (wordsOf 8192 plain).zipIdx.foldl (init := s) fun s w =>
    s.storeReg (flat x.1 (x.2 * 65536) + 8 * w.2) (page * 65536 + 8 * w.2)
      (if bitOf pmap (w.2 / 64) then ⟨0, .poison⟩ else ⟨w.1, .raw⟩)

def State.eunseal (s : State) (p : Ply) (enc name va : Nat) : Settled := do
  let aper := coreAper p.core
  let e ← s.liveEnclave enc
  let head ← s.structure aper 0 (va + 65536) 8 8
  let ia := field head 0 8
  let version := field head 8 8
  let attr := field head 18 1
  if field head 16 2 ≠ enc then .error 6
  if ia % 65536 ≠ 0 ∨ !e.inRegion ia 65536 then .error 2
  let page := ia / 65536
  let have' := SMap.get 0 e.versions page
  if have' = 0 ∨ have' < version then .error 8
  if version ≠ have' then .error 7
  let x ← match frameName name with | some x => .ok x | none => .error 2
  if !s.freeIn e.part x then .error 3
  let ct ← s.structure aper 0 va 8 8192
  let iv := imageIv version enc
  if gcmTag e.pageKey iv (head.take 48) ct ≠ (head.drop 48).take 16 then .error 6
  let plain := gcmCrypt e.pageKey iv ct
  let pmap := field head 32 16
  let gen := ((s.owner x.1 x.2).gen + 1).toNat
  let s := s.openPage x attr enc page plain pmap
  return ((s.putEnclave { e with versions := SMap.set 0 e.versions page 0 }).pageWrote p e.asid page, gen * 2 ^ 16)

/-! ### EREPORT (R324) -/

/-- Bytes 0 to 255 of a report. -/
def State.reportHead (s : State) (e : Enclave) (data : List Byte) : List Byte :=
  let pkg := s.pkg e.pkg
  let image := pkg.image pkg.running
  let fwm := sha3_512 (Config.firmwareMeasure 1 image ++ Config.firmwareMeasure 2 image ++ Config.firmwareMeasure 3 image)
  let version := pkg.version pkg.running
  bytesLE 4 1 ++ bytesLE 2 e.enc ++ zeros 10 ++ e.meas ++ fwm ++ data
    ++ (sha3_512 (Config.packageIdentity e.pkg)).take 32 ++ bytesLE 8 version ++ zeros 8

def State.ereport (s : State) (p : Ply) (a b : Nat) : Settled := do
  let e ← s.liveEnclave p.enc
  if !e.running then .error 1
  let aper := coreAper p.core
  let data ← s.structure aper p.asid a 64 8
  if b % 64 ≠ 0 ∨ !s.writable aper p.asid b 5120 then .error 2
  let head := s.reportHead e data
  let sig := (Config.mldsaSign e.pkg head ++ zeros 4627).take 4627
  return (s.writeGranules p p.asid b (wordsOf 640 (head ++ sig ++ zeros 237)), 0)

/-! ### EDESTROY (R325) -/

/-- What keeps an enclave from its end; a speculation is no queued launch. -/
def State.enclaveBusy (s : State) (e : Enclave) : Bool :=
  (e.threads.any fun t => match t.state with | .running _ => true | _ => false)
    || s.plies.any (fun p => p.enc == e.enc && !p.isHub) || !e.savedTab.isEmpty
    || (e.queues.any fun q => 0 < q.2.count) || s.launches.any (fun l => l.enc == e.enc && !l.spec)
    || (e.streams.any fun k => k.2.active)

/-- Network requests of an enclave that ends (R391 status 6). -/
def NetReq.cut (enc : Nat) (r : NetReq) : NetReq := if r.enc = enc ∧ r.status.isNone then { r with status := some 6 } else r

/-- The engine forgets the windows and keys of an enclave (R325). -/
def Pkg.forget (enc : Nat) (p : Pkg) : Pkg :=
  { p with wins := p.wins.filter (·.1 / 64 != enc), tss := p.tss.filter (·.1 / 8 != enc) }

def State.edestroy (s : State) (enc : Nat) : Settled := do
  let e ← s.liveEnclave enc
  if s.enclaveBusy e then .error 5
  let s := (s.specs.filter (·.enc == enc)).foldl (fun s x => s.discardSpec x 7) s
  let mine := s.owners.filter fun x => x.2.state == 1 && x.2.enc == enc
  let s := (mine.map (·.1) ++ e.vframes).foldl (fun s k => s.freeFrame (k / 2 ^ 22) (k % 2 ^ 22)) s
  return (State.asidsChange { s with
    enclaves := s.enclaves.filter (·.enc != enc)
    ranges := (s.dropRanges e.asid).ranges
    roots := s.roots.filter (·.1 % 2048 != e.asid)
    frameCaches := s.frameCaches.filter (·.asid != e.asid)
    nets := s.nets.map (NetReq.cut enc)
    pkgs := s.pkgs.map (Pkg.forget enc)
    cores := s.cores.map fun (k : Core) => { k with
      tlb := k.tlb.filter (·.asid != e.asid), l1 := k.l1.filter (·.1 / 2 ^ 49 != e.asid) }
    l2 := s.l2.filter (·.2.1 / 2 ^ 49 != e.asid) } e.part, 0)

/-! ### Issue and settlement -/

/-- An E-instruction that names a slot, at issue (R313, R314). -/
def monitorRun (s : State) (i : Instr) (d : BitVec 6) (srcs : List Src) : Host.Outcome State Fault Refusal :=
  runIssue s i (fun _ => []) fun x sb =>
    if x.active.isEmpty && sb.isEmpty then x.finish s x.ply [] []
    else
      match lowestFault (sb ++ srcs.flatMap (x.checkUniform okCtl)) with
      | some e => x.refuse s sb e
      | none =>
        match s.specOf x.ply with
        | some sp => s.discardSpec sp 2
        | none =>
          let (s, p) := x.launchOp s x.ply x.sh.slot false x.active [.s d.toNat] (.monitor i (srcs.map x.uniform))
          x.finish (s.wakeHubs (x.ply.core / 1024)) p [] []

/-- ECREATE (R316). -/
def execEcreate (h : Head) (d : BitVec 6) (a : Src) (slot : BitVec 3) (s : State) : Host.Outcome State Fault Refusal :=
  monitorRun s (.ecreate h d a slot) d [a]

/-- EADD, page form (R317). -/
def execEadd (h : Head) (d : BitVec 6) (a : Src) (slot : BitVec 3) (s : State) : Host.Outcome State Fault Refusal :=
  monitorRun s (.eadd h d a slot) d [a]

/-- EADD .dev (R327). -/
def execEaddDev (h : Head) (d : BitVec 6) (a : Src) (slot : BitVec 3) (s : State) : Host.Outcome State Fault Refusal :=
  monitorRun s (.eaddDev h d a slot) d [a]

/-- EINIT (R318). -/
def execEinit (h : Head) (d : BitVec 6) (a : Src) (slot : BitVec 3) (s : State) : Host.Outcome State Fault Refusal :=
  monitorRun s (.einit h d a slot) d [a]

/-- ESEAL (R323). -/
def execEseal (h : Head) (d : BitVec 6) (a : BitVec 6) (slot : BitVec 3) (s : State) : Host.Outcome State Fault Refusal :=
  monitorRun s (.eseal h d a slot) d ((List.range 4).map (coordSrc a))

/-- EUNSEAL (R323). -/
def execEunseal (h : Head) (d : BitVec 6) (a : BitVec 6) (slot : BitVec 3) (s : State) : Host.Outcome State Fault Refusal :=
  monitorRun s (.eunseal h d a slot) d ((List.range 3).map (coordSrc a))

/-- EREPORT (R324). -/
def execEreport (h : Head) (d : BitVec 6) (a : Src) (b : Src) (slot : BitVec 3) (s : State) : Host.Outcome State Fault Refusal :=
  monitorRun s (.ereport h d a b slot) d [a, b]

/-- EDESTROY (R325). -/
def execEdestroy (h : Head) (d : BitVec 6) (a : Src) (slot : BitVec 3) (s : State) : Host.Outcome State Fault Refusal :=
  monitorRun s (.edestroy h d a slot) d [a]

/-- The enclave that an E-instruction is of (R307); ECREATE is of none yet. -/
def State.settleEnc (s : State) (p : Ply) (i : Instr) (w : List Nat) : Option Nat :=
  let arg := w.getD 0 0
  match i with
  | .eadd .. | .eaddDev .. => match s.structure (coreAper p.core) 0 arg 64 8 with | .ok b => some (field b 0 2) | .error _ => none
  | .einit .. | .eseal .. | .eunseal .. | .edestroy .. => some arg
  | .ereport .. => some p.enc
  | _ => none

/-- Another E-instruction of its enclave is under way: an ESEAL that waits (R307). -/
def State.enclaveHeld (s : State) (p : Ply) (op : Nat) (i : Instr) (w : List Nat) : Bool :=
  match (s.settleEnc p i w).bind s.enclave with
  | some e => (e.sealing.bind s.op).isSome && e.sealing != some op
  | none => false

/-- What the monitor makes of an E-instruction. -/
def State.settle (s : State) (p : Ply) (op : Nat) (i : Instr) (w : List Nat) : Settled :=
  let aper := coreAper p.core
  let arg (k : Nat) : Nat := w.getD k 0
  match i with
  | .ecreate .. => s.ecreate aper (arg 0)
  | .eadd .. => s.eaddPage p (arg 0)
  | .eaddDev .. => s.eaddDevice aper (arg 0)
  | .einit .. => s.einit (arg 0)
  | .eseal .. => s.eseal p op (arg 0) (arg 1) (arg 2) (arg 3)
  | .eunseal .. => s.eunseal p (arg 0) (arg 1) (arg 2)
  | .ereport .. => s.ereport p (arg 0) (arg 1)
  | .edestroy .. => s.edestroy (arg 0)
  | _ => .error 2

/-- The bytes of a page that is sealed or opened, charged to the sealing activity (R401). -/
def State.spendSeal (s : State) (op : Nat) (i : Instr) (w : List Nat) : State × Bool :=
  match i, frameName (w.getD (match i with | .eseal .. => 2 | _ => 1) 0) with
  | .eseal .., some x | .eunseal .., some x =>
    s.spend (aperPkg x.1) (activity 3) 0 (stackUnit (flat x.1 (x.2 * 65536))) op 65536
  | _, _ => (s, true)

/-- MONITOR_SETTLE (R307, R314): after the release, and after the earlier E-instructions of the ply. -/
def execMonitorSettle (op : Nat) (s : State) : Host.Outcome State Fault Refusal :=
  match s.op op with
  | none => .next s
  | some o =>
    match o.body, s.ply o.ply with
    | .monitor i words, some p =>
      let w := words.map BitVec.toNat
      let earlier := s.ops.any fun q => q.ply == o.ply && q.id < op && match q.body with | .monitor .. => true | _ => false
      if earlier || s.owing o.ply op o.left false || s.enclaveHeld p op i w then .next s
      else
        let dst : Dst := match o.dests with | .s n :: _ => .s (BitVec.ofNat 6 n) | _ => .none
        match s.sealLease i w, s.settle p op i w with
        | some (e, x), .ok _ => .next (s.beginSeal op e x)
        | _, .ok (t, v) =>
          let (paid, go) := s.spendSeal op i w
          .next (if go then ({ t with budgets := paid.budgets, freeCtr := s.freeCtr + 1 }.putResult o dst ⟨BitVec.ofNat 64 v, .i64⟩).dropOp op
            else paid)
        | _, .error n =>
          .next (({ s.unseal op i w with freeCtr := s.freeCtr + 1 }.putResult o dst ⟨BitVec.ofNat 64 n, .i64⟩).dropOp op)
    | _, _ => .next s

/-! ### Hub threads (R318 to R321) -/

/-- The chart of a thread that starts (R319). -/
def State.threadChart (s : State) (core : Nat) (e : Enclave) (t : Thread) : Except Nat ChartSlot :=
  if t.chart = 0 then .ok ⟨(t.entry, t.chart), e.enc, []⟩
  else do
    let b ← s.structure (coreAper core) e.asid t.chart 64 384
    let es := imageEntries 256 b
    if es.all entryLoads then .ok ⟨(t.entry, t.chart), e.enc, putEntries [] 0 es⟩ else .error 2

/-- What EENTER saves of the supervisor. -/
def State.supOf (s : State) (p : Ply) (c : Course) (d : Nat) : Sup :=
  { d, enc := p.enc, asid := p.asid, plyCtl := p.plyCtl, chartBase := p.chartBase, gaugeBase := p.gaugeBase
    tensionBase := p.tensionBase, stale := p.stale
    chart := (SMap.get none (s.core p.core).charts 0).map (·.entries)
    run := c.run.pass (match s.cur with | some k => k.len | none => 8), deferred := p.deferred }

/-- A hub core without registers, at user level for an enclave.  Its flags stand as they did (R121, log 85); no fault of the
supervisor's is pending for the thread. -/
def Ply.enterUser (p : Ply) (hub : Hub) (e : Enclave) (n : Nat) (sup : Sup) (cid now : Nat) (pc : Nat) : Ply :=
  { p with
    enc := e.enc, asid := e.asid, plyCtl := 4, stale := 0, chartBase := 0, gaugeBase := 0, tensionBase := e.trep
    fibres := [{ Fibre.dormant with live := true, flags := (p.fibre 0).flags }], s := [], qm := [], flight := [], upsets := [], deferred := []
    courses := [{ Course.fresh cid now [0] pc with nextIssue := 4 * now }]
    hub := some { hub.setBank 0 Bank.empty with level := 0, bell := some (Config.hubDoorbellPage e.enc), thread := some (e.enc, n), leaving := none, sup := some sup } }

/-- The thread's page still holds the context that was sealed into it, of the version given. -/
def State.contextOk (s : State) (e : Enclave) (t : Thread) (n version : Nat) : Bool :=
  match s.iaRead e t.ctxIa 8192 with
  | .ok ws => e.frameOk 2 n version (granuleBytes ws)
  | .error _ => false

/-- EENTER's effect (R320): the status when it fails, else the state in which the thread runs. -/
def State.enter (s : State) (p : Ply) (c : Course) (hub : Hub) (d enc n : Nat) : Except Nat State := do
  let e ← s.liveEnclave enc
  if !e.running then .error 1
  let t ← match e.threads[n]? with | some t => .ok t | none => .error 2
  let sup := s.supOf p c d
  let k := s.core p.core
  let run (p : Ply) (slot : Option ChartSlot) : State :=
    let hub' := p.hub.map fun (h : Hub) => { h with sliceEnd := s.clock + s.sliceInEffect e.pkg e.part * microCycles }
    let s := s.putEnclave { e with threads := e.threads.modify n fun (t : Thread) => { t with state := .running p.core } }
    { (s.putPly { p with hub := hub' }).putCore { k with charts := SMap.set none k.charts 0 slot } with nextId := s.nextId + 1 }
  match t.state, t.context with
  | .running _, _ => .error 5
  | .left sysc, some x =>
    let version := match x.residence with | .saved _ _ v => v | _ => 0
    if !s.contextOk e t n version then .error 6
    let f := x.fibre 0
    let v := if sysc then (p.fibre 0).v.filter (·.1 < 8) ++ f.v.filter (8 ≤ ·.1) else f.v
    let q := p.enterUser hub e n sup s.nextId s.clock 0
    let course : Course := match x.courses with
      | y :: _ => { y with id := s.nextId, nextIssue := 4 * s.clock, sb := [] }
      | [] => { Course.fresh s.nextId s.clock [0] t.entry with nextIssue := 4 * s.clock }
    let bank := match x.hub with | some h => h.bank 0 | none => Bank.empty
    return run { q with
      plyCtl := x.plyCtl, stale := x.stale, chartBase := x.chartBase, gaugeBase := x.gaugeBase, tensionBase := x.tensionBase
      fibres := [{ f with v }], s := x.s, qm := x.qm, deferred := x.deferred, courses := [course]
      upsets := if sysc then p.upsets.filter fun u => u.fibre == some 0 && u.reg < 8 else []
      hub := q.hub.map fun (h : Hub) => h.setBank 0 bank } t.chartSlot
  | _, _ =>
    let slot ← s.threadChart p.core e t
    return run { p.enterUser hub e n sup s.nextId s.clock t.entry with chartBase := BitVec.ofNat 64 t.chart } (some slot)

/-- EENTER (R320): once everything of the hub core's has performed. -/
def execEenter (h : Head) (d : BitVec 6) (a : Src) (b : Src) (s : State) : Host.Outcome State Fault Refusal :=
  runIssue s (.eenter h d a b) (fun _ => []) fun x sb =>
    if x.active.isEmpty && sb.isEmpty then x.finish s x.ply [] []
    else
      match lowestFault (sb ++ x.checkUniform okCtl a ++ x.checkUniform okCtl b), x.ply.hub with
      | some e, _ => x.refuse s sb e
      | none, none => x.finish s x.ply [] []
      | none, some hub =>
        if s.plyBusy x.ply.handle then x.wait s
        else match (x.holdPipe s).enter x.ply x.course hub d.toNat (x.uniform a).toNat (x.uniform b).toNat with
          | .ok s => s
          | .error n => x.finishOnce s x.ply (some ⟨BitVec.ofNat 64 n, .i64⟩)

/-- EEXIT (R321). -/
def execEexit (h : Head) (s : State) : Host.Outcome State Fault Refusal :=
  runIssue s (.eexit h) (fun _ => []) fun x _ =>
    if x.active.isEmpty then x.finish s x.ply [] []
    else if s.plyBusy x.ply.handle then x.wait s
    else (x.holdPipe s).leaveThread x.ply .eexit

/-- The context of a thread, sealed into its page (R320; in the layout of a full save, log 33). -/
def State.sealContext (s : State) (p : Ply) : State × Ply :=
  match p.hub.bind (·.thread) with
  | none => (s, p)
  | some (enc, n) =>
    match s.enclave enc with
    | none => (s, p)
    | some e =>
      match e.threads[n]? with
      | none => (s, p)
      | some t =>
        let (s, p) := s.scrub p
        let e := { e with frames := e.frames + 1 }
        let b := e.sealFrame 2 n e.frames (s.plyBody p 2)
        let s := s.putEnclave e
        let s := match s.pageFrame e (t.ctxIa / 65536) with
          | some x => s.fillFrame x (t.ctxIa / 65536) (wordsOf ((b.length + 7) / 8) b)
          | none => s
        (s, { p with residence := .saved .full 0 e.frames })

/-- A hub thread leaves once its operations are complete; a blocked instruction is withdrawn (R320, R367). -/
def State.threadLeaves (s : State) (p : Ply) : State :=
  match p.hub.bind (·.leaving) with
  | none => s
  | some (cause, eaux) =>
    if s.plyBusy p.handle then s
    else
      let s := s.withdraw fun id => s.ops.any fun o => o.id == id && o.ply == p.handle
      let (s, p) := s.sealContext p
      let awake (c : Course) : Course := match c.phase with | .blocked _ => { c with phase := .ready } | _ => c
      let p := { p with courses := p.courses.map awake }
      s.leaveThread p (if cause = 0x38 then .sysc eaux else .trap cause)

/-- A hub core that stops as HALT does has stopped when its accesses have performed (R425, R366). -/
def State.stopHub (s : State) (p : Ply) : State :=
  match p.hub with
  | none => s
  | some h =>
    if h.stopping && !s.plyBusy p.handle then s.putPly { p with hub := some { h with stopping := false, halted := true } } else s

/-- Every hub thread that is to leave and may, and every hub core that stops. -/
def State.leaveThreads (s : State) : State :=
  let s := s.plies.foldl State.threadLeaves s
  s.plies.foldl State.stopHub s

end Sys2Proof.Machine
end

