-- ==== Sys2Proof/Machine/Launch.lean ====
section
/-! DEFINITION.  Launches: descriptors, roles, admission, completion; the launch predictor and its speculations;
gauges and the reset of a partition; LAUNCH (12 R331 to R352; 07 R215 to R217; 06 R185, R195). -/

namespace Sys2Proof.Machine

/-! ### The carve table (R215, R216) -/

/-- A region entry. -/
def regionOf (w : Nat) : Region :=
  ⟨bitsOf w 60 4, bitsOf w 52 8, bitsOf w 44 8, bitsOf w 16 16 * 4096, bitsOf w 0 16 * 4096⟩

/-- The fields of a region entry keep their rules. -/
def regionOk (w : Nat) : Bool :=
  let r := regionOf w
  let shape : Bool := match r.kind with
    | 1 | 2 => r.p1 == 0 && r.p2 == 0
    | 3 => 8 ≤ r.p1 && r.p1 ≤ 13 && r.p2 ≤ 3
        && (List.range 22).any fun j => r.size == 2 ^ r.p1 * 2 ^ r.p2 * 2 ^ j
    | 4 => 8 ≤ r.p1 && r.p1 ≤ 16 && 1 ≤ r.p2 && (r.p2 + 1) * 2 ^ r.p1 ≤ r.size
    | _ => false
  shape && bitsOf w 32 12 == 0 && 1 ≤ bitsOf w 16 16 && bitsOf w 16 16 ≤ 512 && bitsOf w 0 16 ≤ 511
    && bitsOf w 0 16 + bitsOf w 16 16 ≤ 512

def Region.meets (r t : Region) : Bool := r.base < t.base + t.size && t.base < r.base + r.size

def disjointRegions : List Region → Bool
  | [] => true
  | r :: l => !l.any r.meets && disjointRegions l

/-- A carve table, its header word first, keeps its rules. -/
def carveOk (t : List Nat) : Bool :=
  match t with
  | [] => true
  | h :: l => h / 2 ^ 15 == 0 && bitsOf h 5 3 == 0 && bitsOf h 0 5 ≤ 16 && bitsOf h 8 7 ≤ 64
      && l.all regionOk && disjointRegions (l.map regionOf)

def Ring.fresh (r : Region) : Ring :=
  ⟨r.p2 + 1, r.p1, r.base, 0, 0, 0, 0, List.replicate (r.p2 + 1) .free, [], []⟩

/-- The carve at the start of a skein (R217). -/
def carveOf (t : List Nat) : Carve :=
  match t with
  | [] => Carve.empty
  | h :: l =>
    let rs := l.map regionOf
    { Carve.empty with
      regions := rs, rings := (rs.filter (·.kind == 4)).map Ring.fresh
      bars := List.replicate (bitsOf h 8 7) ⟨0, 0, false, false⟩ }

/-- R217: what carves take of a core: units of 4 KiB, ring regions, barriers, cache lines. -/
def carvesFit (l : List Carve) : Bool :=
  let sum (f : Carve → Nat) : Nat := (l.map f).foldl (· + ·) 0
  sum (fun c => (c.regions.map (·.size / 4096)).foldl (· + ·) 0) ≤ 512
    && sum (fun c => c.rings.length) ≤ 16 && sum (fun c => c.bars.length) ≤ 64
    && sum (fun c => ((c.regions.filter (·.kind == 3)).map fun r => r.size / 2 ^ r.p1).foldl (· + ·) 0) ≤ 4096

/-! ### Descriptors (R331) -/

def Launch.width (l : Launch) : Nat := 8 * 2 ^ field l.desc 26 1
def Launch.window (l : Launch) : Nat := 16 * field l.desc 27 1
def Launch.plies (l : Launch) : Nat := field l.desc 28 1
def Launch.sph (l : Launch) : Nat := field l.desc 29 1
def Launch.hpc (l : Launch) : Nat := field l.desc 30 1
def Launch.cpp (l : Launch) : Nat := field l.desc 31 1
def Launch.acc (l : Launch) : Nat := field l.desc 34 1
def Launch.kernel (l : Launch) : Nat × Nat := (field l.desc 0 8, field l.desc 8 8)
def Launch.idem (l : Launch) : Bool := bitOf (field l.desc 39 1) 0

/-- R337. -/
def classWeight (c : Nat) : Nat := [1, 2, 3, 4, 6, 8, 12, 16].getD c 1

def Launch.weight (l : Launch) : Nat := classWeight (field l.desc 35 1)

/-- The fields of a descriptor keep the rules of R331. -/
def descOk (d : List Byte) : Bool :=
  let f := field d
  let wq (i : Nat) : Bool := !bitOf (f i 1) 6
  f 0 8 % 8 == 0 && f 8 8 % 64 == 0 && f 16 8 % 8 == 0 && (f 24 2 != 0 || f 16 8 == 0) && f 24 2 ≤ 512
    && f 26 1 ≤ 3 && 1 ≤ f 27 1 && f 27 1 ≤ (if f 26 1 = 3 then 8 else 16) && 1 ≤ f 28 1 && f 28 1 ≤ 128
    && 1 ≤ f 29 1 && f 29 1 ≤ 12 && (f 34 1 == 0 || f 29 1 % 2 == 0) && 1 ≤ f 30 1 && f 30 1 ≤ 3
    && 1 ≤ f 31 1 && f 31 1 ≤ 24 && 1 ≤ f 32 2 && f 32 2 ≤ 128 && f 34 1 ≤ 32 && f 35 1 < 8
    && f 36 1 + f 37 1 + f 38 1 ≤ f 28 1 && f 39 1 < 4 && f 40 8 % 8 == 0 && f 48 8 % 64 == 0 && f 56 8 % 8 == 0
    && wq 80 && wq 81 && f 82 6 == 0 && f 96 160 == 0

/-- Lane groups of eight that a ply of a width occupies, and granules in each of its lanes (R64, R99). -/
def laneGroups (width group : Nat) : List Nat :=
  if width = 8 then [group] else if width = 16 then [2 * group, 2 * group + 1] else [0, 1, 2, 3]

def granulesOf (width window : Nat) : Nat := if width = 64 then window / 8 else window / 16

def groupsOf (width : Nat) : Nat := if width = 8 then 4 else if width = 16 then 2 else 1

/-- Plies of one shape that the eight partitions of a core can hold (R62, R64, R99). -/
def coreRoom (width window : Nat) : Nat := 8 * Nat.min 16 (groupsOf width * (16 / granulesOf width window))

/-- Stacks that a partition has on a package (R396). -/
def State.stacksOf (s : State) (part pkg : Nat) : Nat := match s.partition pkg part with
  | some x => 4 * x.dies.length
  | none => 0

/-- R332, status 2: the partition can never hold the launch. -/
def State.exceeds (s : State) (l : Launch) : Bool :=
  let pkgs := s.packagesOf l.part
  pkgs.length < field l.desc 32 2 || (pkgs.filter fun p => l.cpp ≤ s.stacksOf l.part p).length < field l.desc 32 2
    || coreRoom l.width l.window < l.plies || !carvesFit [l.carve]

/-- The granules of a structure. -/
def State.launchWords (s : State) (e : Enclave) (va granules : Nat) : Except Nat (List Word) :=
  match s.unitRead (e.dies s) e.asid va granules with
  | some ws => .ok ws
  | none => .error 4

/-- The granules of a structure that a descriptor may leave out; a VA of 0 names none (R331). -/
def State.namedWords (s : State) (e : Enclave) (va granules : Nat) : Except Nat (List Word) :=
  if va = 0 then .ok [] else s.launchWords e va granules

/-- The launch that a descriptor gives, its structures read and checked (R332); or why it is rejected. -/
def State.loadLaunch (s : State) (e : Enclave) (l : Launch) : Except Nat Launch := do
  let d := l.desc
  if !descOk d then .error 1
  let args ← s.launchWords e (field d 16 8) (field d 24 2)
  let head ← s.namedWords e (field d 40 8) 1
  let regions := Nat.min 16 (match head with | h :: _ => h.toNat % 32 | [] => 0)
  let carve ← s.namedWords e (field d 40 8) (1 + regions)
  let chart ← s.namedWords e (field d 8 8) 384
  let gauge ← if field d 48 8 = 0 then .ok [] else s.launchWords e (field d 48 8 + 8) 255     -- R347: entry 0 is not read
  let mtch ← s.namedWords e (field d 56 8) 17
  let table := carve.map BitVec.toNat
  if !carveOk table then .error 1
  let l := { l with
    args, gauge := 0 :: gauge, carve := carveOf table
    hasMatch := if mtch.isEmpty then none else some (granuleBytes mtch)
    total := field d 32 2 * l.cpp * l.hpc * l.sph, todo := List.range (field d 32 2 * l.cpp * l.hpc * l.sph) }
  if s.exceeds l then .error 2
  let es := imageEntries (if chart.isEmpty then 0 else 256) (granuleBytes chart)
  if !es.all entryLoads then .error 5
  return { l with chart := es }

/-- A launch of a queue before its descriptor is looked at. -/
def Launch.blank (id : Nat) (e : Enclave) (q seq : Nat) (desc : List Byte) : Launch :=
  { id, enc := e.enc, asid := e.asid, part := e.part, queue := q, seq, desc, args := [], chart := []
    carve := Carve.empty, gauge := [], hasMatch := none, status := 0, total := 0, todo := [], ended := 0
    hanks := [], waitSince := none, spec := false }

/-- LAUNCH_START (R332): the launch reaches the head of its queue; its descriptor and structures are read. -/
def execLaunchStart (enc : Nat) (queue : Nat) (s : State) : Host.Outcome State Fault Refusal :=
  match s.enclave enc with
  | none => .next s
  | some e =>
    let k := e.queue queue
    if k.qbase = 0 ∨ k.count = 0 ∨ (s.headLaunch e queue).isSome then .next s
    else
      let l := Launch.blank s.nextId e queue k.head ((s.headDesc e queue).getD [])
      let l := match if l.desc.isEmpty then .error 4 else s.loadLaunch e l with
        | .ok l => l
        | .error n => { l with status := n }
      .next { s with launches := s.launches ++ [l], nextId := s.nextId + 1 }

/-! ### Placing (R100, R195, R217, R337) -/

/-- Granules of a partition's register file that a ply occupies. -/
structure Taken where
  part : Nat
  slot : Nat
  base : Nat
  size : Nat
  lanes : List Nat
  deriving DecidableEq, Repr

def takenBy (p : Placement) (width window : Nat) : Taken :=
  ⟨p.part, p.slot, p.base, granulesOf width window, laneGroups width p.group⟩

def Ply.taken (p : Ply) : Taken := ⟨p.part, p.slot, p.base, granulesOf p.width p.window, p.lanes⟩

def Taken.legal (t : Taken) (group width : Nat) : Bool :=
  t.part < 8 && t.slot < 16 && t.base + t.size ≤ 16 && group < groupsOf width

def Taken.clash (t u : Taken) : Bool :=
  t.part == u.part && (t.slot == u.slot || (t.lanes.any u.lanes.contains && t.base < u.base + u.size && u.base < t.base + t.size))

def State.coreTaken (s : State) (core : Nat) : List Taken :=
  (s.plies.filter fun p => p.core == core && p.residence == .resident && !p.isHub).map Ply.taken

/-- The placements are legal, and clash neither with what is taken nor among themselves (R100). -/
def placesOk (width window core : Nat) : List Taken → List Placement → Bool
  | _, [] => true
  | used, p :: r =>
    let t := takenBy p width window
    p.core == core && t.legal p.group width && !used.any t.clash && placesOk width window core (t :: used) r

/-- The first place for a ply on a core. -/
def firstPlace (core width window : Nat) (used : List Taken) : Option Placement :=
  (List.range 8).findSome? fun part =>
    match (List.range 16).find? fun k => !(used.any fun t => t.part == part && t.slot == k) with
    | none => none
    | some slot => (List.range (groupsOf width)).findSome? fun group => (List.range 16).findSome? fun base =>
        let p : Placement := ⟨core, part, slot, base, group⟩
        let t := takenBy p width window
        if t.legal group width && !used.any t.clash then some p else none

/-- Places for `n` plies, each the first that is free. -/
def findPlaces (core width window : Nat) : Nat → List Taken → Option (List Placement)
  | 0, _ => some []
  | n + 1, used => match firstPlace core width window used with
    | none => none
    | some p => (findPlaces core width window n (takenBy p width window :: used)).map (p :: ·)

/-- The weights of the plies resident on a core (R337). -/
def State.coreWeight (s : State) (core : Nat) : Nat :=
  ((s.plies.filter fun p => p.core == core && p.residence == .resident && !p.isHub).map fun p =>
    match s.launches.find? (·.id == p.launch) with
    | some l => l.weight
    | none => 0).foldl (· + ·) 0

def State.coreSkeins (s : State) (core : Nat) : List Skein :=
  s.skeins.filter fun k => k.core == core && k.residence == Residence.resident

/-- A chart slot that holds the kernel already, or a free one (R40). -/
def State.slotFor (s : State) (core enc : Nat) (kernel : Nat × Nat) : Option Nat :=
  let k := s.core core
  let holds (n : Nat) : Bool := match SMap.get none k.charts n with
    | some c => c.enc == enc && c.kernel == kernel
    | none => false
  ((List.range 4).find? holds).or ((List.range 4).find? fun n => (SMap.get none k.charts n).isNone)

/-- The die serves a partition, and admission may use it (R397, R405). -/
def State.coreOpen (s : State) (part core : Nat) : Bool :=
  let pkg := core / 1024
  core % 1024 < 864 && !(s.pkg pkg).failed.contains (core % 1024)
    && !s.dieRetired pkg (core % 1024 / 144) && match s.partition pkg part with
    | some x => x.dies.contains (core % 1024 / 144) && !x.closing.contains (core % 1024 / 144)
    | none => false

/-- What a core must have for a skein of a launch, but for the places of its plies (R337). -/
def State.coreRoomFor (s : State) (l : Launch) (core : Nat) : Bool :=
  s.coreOpen l.part core && s.coreWeight core + l.plies * l.weight ≤ (s.core core).limit
    && (s.coreSkeins core).length < 8 && carvesFit (l.carve :: (s.coreSkeins core).map (·.carve))
    && (s.slotFor core l.enc l.kernel).isSome

/-- R195: the reservation fits on the core pair. -/
def State.reserveFits (s : State) (l : Launch) (core : Nat) : Bool :=
  l.acc == 0 || l.acc ≤ (match s.pair (core / 2 * 2) with | some q => q.pool | none => 32)

/-- R338: a hank index may be bound to the hank of a core: one stack for a cone, one package, with stacks for all its cones.
The bindings are made as they are needed: every choice at the start of the launch is one of these (DEDUCED, log 76). -/
def State.mayBind (s : State) (l : Launch) (h core : Nat) : Bool :=
  let hank := core / 1024 * 72 + core % 1024 / 12
  match SMap.get none l.hanks h with
  | some b => b == hank
  | none => l.cpp ≤ s.stacksOf l.part (core / 1024) && l.hanks.all fun (h', b) => match b with
    | none => true
    | some b =>
      b != hank && (h' / l.hpc == h / l.hpc) == (b / 3 == hank / 3)
        && (h' / (l.hpc * l.cpp) == h / (l.hpc * l.cpp)) == (b / 72 == hank / 72)

/-- The skeins that are admitted together: the next one, or the next skein pair (R185). -/
def Launch.nextSkeins (l : Launch) : List Nat :=
  match l.todo with
  | [] => []
  | i :: _ => if l.acc = 0 then [i] else l.todo.filter (· / 2 == i / 2)

/-- The core of a skein that is admitted with a core. -/
def Launch.coreOf (l : Launch) (core i : Nat) : Nat := if l.acc = 0 then core else core / 2 * 2 + i % 2

/-- The launch once its next skeins have been admitted with a core. -/
def Launch.admitted (l : Launch) (core : Nat) : Launch :=
  let bound (m : SMap (Option Nat)) (i : Nat) : SMap (Option Nat) :=
    let c := l.coreOf core i
    SMap.set none m (i / l.sph) (some (c / 1024 * 72 + c % 1024 / 12))
  { l with todo := l.todo.filter (!l.nextSkeins.contains ·), hanks := l.nextSkeins.foldl bound l.hanks, waitSince := none }

/-- The launch may have its next skeins on a core, as far as the core's resources go. -/
def State.mayHold (s : State) (l : Launch) (core : Nat) : Bool :=
  !l.nextSkeins.isEmpty && s.reserveFits l core
    && l.nextSkeins.all fun i => s.coreRoomFor l (l.coreOf core i) && s.mayBind l (i / l.sph) (l.coreOf core i)

/-- Places for the next skeins of a launch on a core. -/
def State.placesFor (s : State) (l : Launch) (core : Nat) : Option (List Placement) :=
  if !s.mayHold l core then none
  else
    let ps := l.nextSkeins.map fun i =>
      findPlaces (l.coreOf core i) l.width l.window l.plies (s.coreTaken (l.coreOf core i))
    if ps.all Option.isSome then some (ps.flatMap (·.getD [])) else none

/-! ### Admission (R333 to R338) -/

/-- R334: the role of a ply, by its index. -/
def Launch.role (l : Launch) (i : Nat) : Nat :=
  let c := field l.desc 36 1
  let m := field l.desc 37 1
  if i < c then 0 else if i < c + m then 1 else if i < c + m + field l.desc 38 1 then 2 else 3

/-- The state of a ply at its start (R333). -/
def State.startPly (s : State) (e : Enclave) (l : Launch) (level chart skein idx i : Nat) (pl : Placement)
    (handle : Nat) : Ply :=
  { placedPly handle (handle + 1) s.clock with
    enc := e.enc, asid := e.asid, launch := l.id, skein, core := pl.core, part := pl.part, slot := pl.slot
    base := pl.base, group := pl.group, width := l.width, window := l.window, level, role := l.role i, index := i
    plies := l.plies, skeinIndex := idx, hank := idx / l.sph, cone := idx / l.sph / l.hpc, chart
    chartBase := BitVec.ofNat 64 (field l.desc 8 8), gaugeBase := BitVec.ofNat 64 (field l.desc 48 8)
    tensionBase := e.trep
    fibres := List.replicate l.width { Fibre.dormant with live := true }
    courses := [{ Course.fresh (handle + 1) s.clock (List.range l.width) (field l.desc 0 8) with nextIssue := s.clock }]
    s := ((l.args.take 32).zipIdx.map fun (w, n) => (n, (⟨w, .i64⟩ : Reg))).filter (·.2 != Reg.zero) }

/-- One skein with its plies enters a core. -/
def State.admitSkein (s : State) (e : Enclave) (l : Launch) (level idx core partner : Nat) (pls : List Placement) : State :=
  let h := s.nextId
  let chart := (s.slotFor core e.enc l.kernel).getD 0
  let k := s.core core
  let slot : ChartSlot := (SMap.get none k.charts chart).getD ⟨l.kernel, e.enc, putEntries [] 0 l.chart⟩
  let s := s.putCore { k with charts := SMap.set none k.charts chart (some slot) }
  let skein : Skein :=
    { handle := h, launch := l.id, enc := e.enc, asid := e.asid, part := e.part, core, index := idx, plies := l.plies
      ended := 0, reserve := l.acc, partner, carve := l.carve, maps := [], events := 0, restartable := l.idem
      residence := .resident, kept := none }
  let new := pls.zipIdx.map fun (pl, i) => s.startPly e l level chart h idx i pl (h + 1 + 2 * i)
  { s with skeins := s.skeins ++ [skein], plies := s.plies ++ new, nextId := h + 1 + 2 * pls.length }

/-- The skeins of a group enter their cores; a skein pair is bound to its core pair (R185, R195). -/
def State.admitGroup (s : State) (e : Enclave) (l : Launch) (level core : Nat) (pls : List Placement) : State :=
  let group := l.nextSkeins
  let first := s.nextId
  let step := 1 + 2 * l.plies
  let handle (parity : Nat) : Nat := match group.findIdx? fun i => i % 2 == parity with
    | some n => first + step * n
    | none => 0
  let partner (i : Nat) : Nat := if l.acc = 0 then 0 else handle (1 - i % 2)
  let s' := group.zipIdx.foldl (init := s) fun s (i, n) =>
    s.admitSkein e l level i (l.coreOf core i) (partner i) ((pls.drop (n * l.plies)).take l.plies)
  if l.acc = 0 then s'
  else
    let lead := core / 2 * 2
    let bind : PairBind := ⟨handle 0, handle 1, l.acc, [], []⟩
    match s'.pair lead with
    | some q => s'.putPair { q with binds := q.binds ++ [bind] }
    | none => { s' with pairs := s'.pairs ++ [Pair.fresh lead [bind]] }

/-- A launch of a queue that is ready and has skeins to admit. -/
def State.wanting (s : State) (l : Launch) : Bool :=
  !l.spec && l.status == 0 && !l.todo.isEmpty && match s.enclave l.enc with
    | some e => s.headReady e l.queue && (e.queue l.queue).head == l.seq
    | none => false

def State.levelOf (s : State) (l : Launch) : Nat := match s.enclave l.enc with
  | some e => (e.queue l.queue).level
  | none => 0

/-- When the queue of a launch was served last. -/
def State.servedAt (s : State) (l : Launch) : Nat := match s.enclave l.enc with
  | some e => (e.queue l.queue).served
  | none => 0

/-- A ready launch of a higher level would take the core, or one of the same level whose queue was served longer ago
(R338: queues of one level take turns; the turn is a skein or a skein pair: DESIGN CHOICE, log 76). -/
def State.outranked (s : State) (l : Launch) (core : Nat) : Bool :=
  s.launches.any fun o => o.id != l.id && o.part == l.part && s.wanting o
    && (l.spec || s.levelOf l < s.levelOf o || (s.levelOf l == s.levelOf o && s.servedAt o < s.servedAt l))
    && (s.placesFor o core).isSome

/-- The launch whose skeins a queue admits: the real one once it is ready, before that a speculation of the queue (R342). -/
def State.admitting (s : State) (e : Enclave) (q : Nat) : Option Launch :=
  let spec := s.launches.find? fun l => l.enc == e.enc && l.queue == q && l.spec
  if s.headReady e q then (s.headLaunch e q).or spec else spec.or (s.headLaunch e q)

/-- A real launch needs these cores: speculations on them are discarded (R344). -/
def State.clearSpecs (s : State) (cores : List Nat) : State :=
  (s.specs.filter fun x => s.plies.any fun p => p.launch == x.launch && cores.contains p.core).foldl
    (fun s x => s.discardSpec x 4) s

/-- R342: no other ply stands on the cores, and no ready launch waits for them. -/
def State.idleFor (s : State) (l : Launch) (cores : List Nat) : Bool :=
  !(s.plies.any fun p => cores.contains p.core && p.residence == .resident && p.launch != l.id)
    && !(s.launches.any fun o => o.part == l.part && s.wanting o)

/-- A speculation of the queue is to be claimed or discarded first (R345). -/
def State.claiming (s : State) (l : Launch) : Bool := !l.spec && s.specs.any fun x => x.enc == l.enc && x.queue == l.queue

/-- SKEIN_ADMIT (R337, R338): the next skein of a launch, or the next skein pair; the places are those of its plies,
skein by skein. -/
def execSkeinAdmit (enc : Nat) (queue : Nat) (core : Nat) (pls : List Placement) (s : State) :
    Host.Outcome State Fault Refusal :=
  match s.enclave enc with
  | none => .next s
  | some e =>
    match s.admitting e queue with
    | none => .next s
    | some l =>
      let group := l.nextSkeins
      let cores := group.map (l.coreOf core)
      let s' := if l.spec then s else s.clearSpecs cores
      let saved : Bool := s.plies.any fun p => p.enc == enc && p.launch == l.id && p.residence != .resident
      let may : Bool := if l.spec then s.idleFor l cores else s.wanting l && !s.claiming l
      let fits : Bool := group.zipIdx.all fun (i, n) =>
        let c := l.coreOf core i
        let ps := (pls.drop (n * l.plies)).take l.plies
        ps.length == l.plies && placesOk l.width l.window c (s'.coreTaken c) ps
      if !may || saved || !cores.contains core || pls.length != group.length * l.plies || !s'.mayHold l core
          || !fits || s'.outranked l core then .next s
      else
        let k := e.queue queue
        let s1 := s'.admitGroup e l (if l.spec then 0 else k.level) core pls
        let todo := l.todo.filter (!group.contains ·)
        let upd (o : Launch) : Launch := if o.id == l.id then o.admitted core else o
        let s2 := { s1 with launches := s1.launches.map upd }
        .next (match if l.spec then none else s2.enclave enc with
          | some e =>
            let k := { e.queue queue with served := s2.nextId }
            s2.putEnclave (e.setQueue queue (if todo.isEmpty then { k with level := k.base, readySince := none } else k))
          | none => s2)

/-- The compute cores of the dies of a partition. -/
def State.openCores (s : State) (part : Nat) : List Nat :=
  (s.partitions.filter (·.id % 8 == part)).flatMap fun x => x.dies.flatMap fun d =>
    (List.range 144).map fun c => x.id / 8 * 1024 + d * 144 + c

/-- A launch finds room on some core; what only a speculation holds is room (R338, R344). -/
def State.hasRoom (s : State) (l : Launch) : Bool :=
  let t := if l.spec then s else s.specs.foldl (fun s x => s.discardSpec x 4) s
  (s.openCores l.part).any fun c => (t.placesFor l c).isSome

/-- A ready launch waits from when it finds no room (R338); one that has become ready begins to wait for its level (R336). -/
def State.tidyLaunches (s : State) : State :=
  (s.launches.filter s.wanting).foldl (init := s) fun s l =>
    let since := if s.hasRoom l then none else some (l.waitSince.getD s.clock)
    let upd (o : Launch) : Launch := if o.id == l.id then { o with waitSince := since } else o
    let s := if l.waitSince == since then s else { s with launches := s.launches.map upd }
    match s.enclave l.enc with
    | some e =>
      let k := e.queue l.queue
      if k.readySince.isSome then s else s.putEnclave (e.setQueue l.queue { k with readySince := some s.clock })
    | none => s

/-- QUEUE_LEVEL_RISE (R336): 16 ms have passed since the launch became ready, or since the level rose last. -/
def execQueueLevelRise (enc : Nat) (queue : Nat) (s : State) : Host.Outcome State Fault Refusal :=
  match s.enclave enc with
  | none => .next s
  | some e =>
    let k := e.queue queue
    match k.readySince, s.headLaunch e queue with
    | some t, some l =>
      if s.wanting l && decide (t + 16 * milliCycles ≤ s.clock) then
        .next (s.putEnclave (e.setQueue queue
          { k with level := Nat.max k.level (Nat.min k.cap (k.level + 1)), readySince := some (t + 16 * milliCycles) }))
      else .next s
    | _, _ => .next s

/-- ADMISSION_RECLAIM (R338): plies of a lower level that hold cores the launch needs are to be saved, when it has found no room
for 1 ms; a speculation's are discarded and not saved. -/
def execAdmissionReclaim (enc : Nat) (queue : Nat) (s : State) : Host.Outcome State Fault Refusal :=
  match s.enclave enc with
  | none => .next s
  | some e =>
    match s.headLaunch e queue with
    | none => .next s
    | some l =>
      let due : Bool := match l.waitSince with | some t => t + milliCycles ≤ s.clock | none => false
      if !due || !s.wanting l || s.hasRoom l then .next s
      else
        let needs (core : Nat) : Bool := s.coreOpen l.part core
          && l.nextSkeins.all fun i => s.mayBind l (i / l.sph) (l.coreOf core i)
        .next { s with plies := s.plies.map fun (p : Ply) =>
          if !p.isHub && p.residence == Residence.resident && p.level < (e.queue queue).level && p.saveAsked.isNone && needs p.core
              && !(s.specs.any (·.launch == p.launch)) then
            { p with saveAsked := some (s.clock, 1) } else p }

/-- ADMIT_LIMIT_UPDATE (R337). -/
def execAdmitLimitUpdate (core : Nat) (limit : Nat) (s : State) : Host.Outcome State Fault Refusal :=
  if limit ≤ 2048 then .next (s.putCore { s.core core with limit }) else .next s

/-! ### Completion (R339) -/

/-- The fence record of a launch and COMP, as one release; the queue goes on (R330, R339). -/
def State.settleLaunch (s : State) (e : Enclave) (l : Launch) (status : Nat) : State :=
  let k := e.queue l.queue
  let s := match s.comp e l.queue with
    | none => s
    | some c =>
      let c : Word := BitVec.ofNat 64 c + 1
      let s := s.unitWrite (e.dies s) e.asid (k.qbase + 0x40 + 32 * (l.seq % 16))
        [BitVec.ofNat 64 l.seq, BitVec.ofNat 64 (field l.desc 88 8), BitVec.ofNat 64 status, c]
      s.unitWrite (e.dies s) e.asid k.qbase [c]
  let last := if status % 256 = 0 then (l :: k.last).take 2 else k.last
  let e := (e.endStreams l.id).setQueue l.queue { k with head := k.head + 1, last, level := k.base, readySince := none }
  { s.putEnclave e with launches := s.launches.filter (·.id != l.id) }

/-- LAUNCH_COMPLETE (R339; R332 for a rejected launch, R349 for one that is aborted). -/
def execLaunchComplete (enc : Nat) (queue : Nat) (s : State) : Host.Outcome State Fault Refusal :=
  match s.enclave enc with
  | none => .next s
  | some e =>
    match s.headLaunch e queue with
    | none => .next s
    | some l =>
      if l.status = 0 ∧ !(l.todo.isEmpty && l.ended == l.total) then .next s
      else
        -- R345: a speculation of the queue that was not claimed is discarded
        let s := (s.specs.filter fun x => x.enc == enc && x.queue == queue).foldl (fun s x => s.discardSpec x 5) s
        match s.enclave enc with
        | none => .next s
        | some e => .next (s.settleLaunch e l l.status)

/-! ### The predictor (R340 to R346) -/

/-- The class of an argument word (R341). -/
def matchClass (m : List Byte) (i : Nat) : Nat := bitsOf (field m 8 128) (2 * i) 2

/-- A match descriptor that allows prediction. -/
def matchOk (m : List Byte) (argw : Nat) : Bool := field m 0 4 == argw && field m 4 4 == 0

/-- The predicted value of an argument word; `none` for a word that is not to be read. -/
def predictedArg (m : List Byte) (newer older : List Word) (i : Nat) : Option Word :=
  match matchClass m i with
  | 2 => some (newer.getD i 0 + (newer.getD i 0 - older.getD i 0))
  | 3 => none
  | _ => some (newer.getD i 0)

/-- R340: a prediction can be formed from the last two completed launches. -/
def Queue.predicts (k : Queue) : Option (Launch × Launch × List Byte) :=
  match k.last with
  | [n, o] =>
    match n.hasMatch with
    | some m =>
      if n.kernel = o.kernel ∧ !bitOf (field n.desc 39 1) 1 ∧ !bitOf (field o.desc 39 1) 1 ∧ field o.desc 56 8 ≠ 0
          ∧ n.args.length = o.args.length ∧ matchOk m (field n.desc 24 2) then some (n, o, m) else none
    | none => none
  | _ => none

/-- The lines of a structure that a speculation reads at its start. -/
def State.structureLines (s : State) (e : Enclave) (va granules : Nat) : List Nat :=
  if va = 0 then []
  else (List.range granules).filterMap fun i => match s.unitLocate (e.dies s) e.asid (va + 8 * i) .read with
    | .ok (a, _) => some (a / 64)
    | .error _ => none

/-- R342: the cores that the skeins of a launch would use hold no ply: they are placed one after another on such cores; those
that find none use the cores of their hanks that the others used (DEDUCED, log 77). -/
def State.idlePlan (s : State) (e : Enclave) : Nat → Launch → Bool
  | 0, l => l.todo.isEmpty
  | n + 1, l =>
    let place (c : Nat) : Option (Nat × List Placement) :=
      if s.idleFor l (l.nextSkeins.map (l.coreOf c)) then (s.placesFor l c).map (c, ·) else none
    if l.todo.isEmpty then true
    else match (s.openCores l.part).findSome? place with
      | some (c, pls) => State.idlePlan (s.admitGroup e l 0 c pls) e n (l.admitted c)
      | none => l.todo.all fun i => (SMap.get none l.hanks (i / l.sph)).isSome

def State.idleStart (s : State) (e : Enclave) (l : Launch) : Bool := s.idlePlan e (l.todo.length + 1) l

/-- SPECULATION_START (R342): a queue without a launch at its head runs the predicted one; its skeins are admitted by
SKEIN_ADMIT. -/
def execSpeculationStart (enc : Nat) (queue : Nat) (s : State) : Host.Outcome State Fault Refusal :=
  match s.enclave enc with
  | none => .next s
  | some e =>
    let k := e.queue queue
    let busy : Bool := k.qbase == 0 || k.count != 0 || s.specs.any (fun x => x.enc == enc && x.queue == queue)
      || s.launches.any fun o => o.part == e.part && s.wanting o
    match if busy then none else k.predicts with
    | none => .next s
    | some (n, o, m) =>
      match s.loadLaunch e (Launch.blank s.nextId e queue k.head n.desc) with
      | .error _ => .next s
      | .ok l =>
        let words := (List.range n.args.length).filter fun i => matchClass m i == 3
        let l := { l with
          args := (List.range n.args.length).map fun i => (predictedArg m n.args o.args i).getD 0, hasMatch := some m, spec := true }
        if !s.idleStart e l then .next s
        else
        let d := n.desc
        let reads := s.structureLines e (field d 8 8) 384 ++ s.structureLines e (field d 40 8) (1 + l.carve.regions.length)
          ++ (if field d 48 8 = 0 then [] else s.structureLines e (field d 48 8 + 8) 255)
        let at_ (i : Nat) : Option Nat := match s.toIa e.pkg e.asid (field d 16 8 + 8 * i) with
          | .ok ia => some (ia / 8)
          | .error _ => none
        let x : Spec :=
          { launch := l.id, enc, queue, swatch := [], reads := reads.eraseDups, written := []
            ranges := (List.range 16).map (s.range e.pkg e.asid), regs := words.filter (· < 32), words := words.filterMap at_
            unreadHit := false, peerHit := false }
        let s := s.putEnclave (e.setQueue queue { k with spStart := k.spStart + 1 })
        .next { s with launches := s.launches ++ [l], specs := s.specs ++ [x], nextId := s.nextId + 1 }

/-- The number and the offset of the range through which an address translates. -/
def rangeFor (rs : List Range) (va : Nat) : Option (Nat × BitVec 48) :=
  (rs.zipIdx.find? fun (r, _) => r.valid && r.bpg ≤ va / 65536 && va / 65536 < r.lpg).map fun (r, n) => (n, r.ofs)

/-- R341: an argument word of the real launch matches the one predicted. -/
def State.argMatches (s : State) (e : Enclave) (x : Spec) (m : List Byte) (real spec : Launch) (i : Nat) : Bool :=
  let v := real.args.getD i 0
  match matchClass m i with
  | 3 => true
  | 1 => v == spec.args.getD i 0
      && rangeFor x.ranges v.toNat == rangeFor ((List.range 16).map (s.range e.pkg e.asid)) v.toNat
  | _ => v == spec.args.getD i 0

/-- R345 step 1: every field but ARGS is equal, the words match by the descriptor that predicted them, and the speculation has
completed; a malformed match descriptor of the real launch means that it was not predicted (R341). -/
def State.claimMatches (s : State) (e : Enclave) (x : Spec) (real spec : Launch) : Bool :=
  real.status == 0 && spec.todo.isEmpty && spec.ended == spec.total
    && real.desc.take 16 == spec.desc.take 16 && real.desc.drop 24 == spec.desc.drop 24
    && match real.hasMatch, spec.hasMatch with
      | some r, some m => matchOk r (field real.desc 24 2)
          && (List.range real.args.length).all fun i => s.argMatches e x m real spec i
      | _, _ => false

/-- The home address of an intermediate address, for a write. -/
def State.homeOf (s : State) (e : Enclave) (ia : Nat) : Except XFault Nat :=
  firstOk ⟨0x11, 1, ia⟩ ((e.dies s).map fun d => do
    let a ← s.lookup d e.asid ia
    s.resolve a.aper e.asid ia .write a.peer)

/-- R345 step 4: the swatch lines go to their homes; none where one has no home any more. -/
def State.commitSwatch (s : State) (e : Enclave) : List (Nat × Granule) → Option State
  | [] => some s
  | (w, g) :: r =>
    match s.homeOf e (8 * w) with
    | .error _ => none
    | .ok a => (s.store a (8 * w) g).commitSwatch e r

/-- SPECULATION_CLAIM (R345): once the real launch at the head is ready. -/
def execSpeculationClaim (enc : Nat) (queue : Nat) (s : State) : Host.Outcome State Fault Refusal :=
  match s.enclave enc with
  | none => .next s
  | some e =>
    let spec? := s.specs.find? fun x => x.enc == enc && x.queue == queue
    match s.headLaunch e queue, spec? with
    | some real, some x =>
      match s.launches.find? (·.id == x.launch) with
      | none => .next s
      | some spec =>
        if !s.headReady e queue then .next s
        else if !s.claimMatches e x real spec then .next (s.discardSpec x 5)
        else if x.reads.any x.written.contains then .next (s.discardSpec x 6)
        else match s.commitSwatch e x.swatch with
          | none => .next (s.discardSpec x 5)
          | some s' =>
            let s' := { s' with
              specs := s'.specs.filter (·.launch != x.launch), launches := s'.launches.filter (·.id != x.launch) }
            let k := e.queue queue
            let e := e.setQueue queue { k with spCommit := k.spCommit + 1 }
            .next ((s'.putEnclave e).settleLaunch e real 0x100)
    | _, _ => .next s

/-! ### Courses that stop together (R348, R375) -/

/-- A blocked instruction is withdrawn: fibres that were served go on past it, the others stand at it (R228, R260). -/
def State.unblockOne (s : State) (o : Op) : State :=
  let s := s.withdraw (· == o.id)
  match s.ply o.ply with
  | none => s
  | some p =>
    match p.course o.course with
    | none => s
    | some c =>
      let got : Option (Nat × Option (Nat → Reg)) := match o.body with
        | .ldsfe dst _ got len => some (len, some fun f => SMap.get (p.oldDst f dst) got f)
        | .stsfe len => some (len, none)
        | .mem m len => if m.cls == .ncqw then none else some (len, none)
        | _ => none
      let served := c.fibres.filter (!o.left.contains ·)
      match got with
      | some (len, vals) =>
        if served.isEmpty then s.putPly (p.putCourse { c with phase := .ready })
        else
          let p := p.modFibres served fun f y =>
            { y with temps := ((match vals with | some g => g f | none => Reg.zero) :: y.temps).take 7 }
          let run : Run := { pc := c.run.pc + len, pos := c.run.pos + 1
                             temps := (⟨vals.isSome, s.clock + 4, s.clock + 4⟩ :: c.run.temps).take 7, pfx := none }
          let kid := { c.restrict served with id := s.nextId, run, phase := .ready }
          let p := p.keepCourse { c.restrict (c.fibres.filter o.left.contains) with phase := .ready }
          let s := { s.putPly { p with courses := p.courses ++ [kid] } with nextId := s.nextId + 1 }
          match o.body with
          | .ldsfe dst _ got _ => s.landServed o dst got
          | _ => s
      | none => s.putPly (p.putCourse { c with phase := .ready })

/-- The instructions at which courses of a ply stand blocked are withdrawn (R72, R367). -/
def State.unblock (s : State) (h : Nat) : State :=
  (s.ops.filter fun o => o.ply == h && o.blocking).foldl State.unblockOne s

/-- Courses of a ply park as one course, with the run state of one of them, which the rules do not single out
(log 35). -/
def State.parkTogether (s : State) (h : Nat) (take : Course → Bool) (cause : Nat) (eaux : Word) : State :=
  let s := s.unblock h
  match s.ply h with
  | none => s
  | some p =>
    let l := p.courses.filter take
    match oldestCourse l with
    | none => s
    | some old =>
      let pick := (l[(Config.freeValue s.freeCtr).toNat % l.length]?).getD old
      let fs := l.flatMap (·.fibres)
      let nested := p.h && fs.any fun f => (p.fibre f).handling
      let m := { mergeCourses old l with
        id := s.nextId, run := pick.run, chain := [], chainLast := 0, phase := .parked cause s.nextId nested false }
      let p := p.modFibres fs fun _ f => { f with eaux }
      let p := { p with courses := p.courses.filter (!take ·) ++ [m], exiting := none }
      { s.putPly p with nextId := s.nextId + 1, freeCtr := s.freeCtr + 1 }

/-! ### Gauges and the reset of a partition (R348 to R350) -/

/-- GAUGE_OVERRUN (R348). -/
def execGaugeOverrun (ply : Nat) (s : State) : Host.Outcome State Fault Refusal :=
  match s.ply ply with
  | none => .next s
  | some p =>
    match p.gauge with
    | none => .next s
    | some g =>
      let late : Bool := match g.since with
        | some t => g.left < s.clock - t
        | none => false
      if !late then .next s
      else
        let s := s.putPly { p with gauge := none, overrun := some (p.overrun.getD s.clock) }
        .next (s.parkTogether ply (fun c => !c.isParked) 0x30 (BitVec.ofNat 64 g.phase))

/-- R349: a launch in flight at the reset of its partition. -/
def State.resetLaunch (s : State) (l : Launch) : State :=
  let mine := s.skeins.filter (·.launch == l.id)
  let admitted : Bool := l.todo.length < l.total
  let again : Bool := l.idem && mine.all (·.restartable)
  let s := s.dropLaunch l.id
  let upd (o : Launch) : Launch :=
    if !admitted then o
    else if again then { o with waitSince := none, todo := sortBy id (mine.map (·.index) ++ o.todo) }
    else { o with status := 3, todo := [] }
  { s with launches := updateWhere (·.id == l.id) upd s.launches }

/-- The handles of the plies and skeins of a partition. -/
def State.handlesOf (s : State) (part : Nat) : List Nat :=
  let mine (enc : Nat) : Bool := (s.enclave enc).any fun e => e.part == part
  (s.plies.filter fun p => !p.isHub && mine p.enc).map (·.handle) ++ (s.skeins.filter fun k => mine k.enc).map (·.handle)

/-- THE RESET OF A PARTITION (R349), by its number. -/
def State.partitionReset (s : State) (part : Nat) : State :=
  let hs := s.handlesOf part
  let encs := (s.enclaves.filter (·.part == part)).map (·.enc)
  let s := s.dropFrames hs
  let s := (s.specs.filter fun x => encs.contains x.enc).foldl (fun s x => s.discardSpec x 7) s
  let s := (s.launches.filter fun l => encs.contains l.enc && !l.spec).foldl State.resetLaunch s
  { s with
    recs := s.recs.filter fun r => !hs.contains r.ply
    nets := s.nets.map fun r => encs.foldl (fun r n => NetReq.cut n r) r }

/-- GAUGE_HANG_TIMEOUT (R348, R349). -/
def execGaugeHangTimeout (ply : Nat) (s : State) : Host.Outcome State Fault Refusal :=
  match s.ply ply with
  | none => .next s
  | some p =>
    match p.overrun, s.enclave p.enc with
    | some t, some e => if p.overrunOpen && decide (t + 2 ^ 20 ≤ s.clock) then .next (s.partitionReset e.part) else .next s
    | _, _ => .next s

/-! ### LAUNCH (R351, R352) -/

/-- What LAUNCH finds: the sequence of the entry it makes, or a status. -/
def State.append (s : State) (e : Enclave) (q va : Nat) : Except Nat (State × Nat) :=
  let k := e.queue q
  if 63 < q ∨ k.qbase = 0 then .error 1
  else if 2 ^ k.log ≤ k.count then .error 2
  else if va % 64 ≠ 0 then .error 3
  else match s.unitRead (e.dies s) e.asid va 32 with
    | none => .error 3
    | some ws =>
      let s := s.unitWrite (e.dies s) e.asid (k.entry k.tail) ws
      .ok (s.kickStore e q ((k.tail + 1) % 2 ^ 32), k.tail)

/-- LAUNCH (R351, R352): what the instruction does at issue; its outcome is settled when its release has performed. -/
def execLaunch (h : Head) (d : Dst) (a : Src) (b : Src) (slot : BitVec 3) (s : State) : Host.Outcome State Fault Refusal :=
  runIssue s (.launch h d a b slot) (fun _ => []) fun x sb =>
    if x.active.isEmpty && sb.isEmpty then x.finish s x.ply [] []
    else
      match lowestFault (sb ++ x.checkUniform okCtl a ++ x.checkUniform okCtl b) with
      | some e => x.refuse s sb e
      | none =>
        match s.specOf x.ply with
        | some sp => s.discardSpec sp 2
        | none =>
          let (s, p) := x.launchOp s x.ply x.sh.slot false x.active ((dstTarget d 0).toList)
            (.launch (x.uniform a).toNat (x.uniform b).toNat d)
          x.finish s p [] []

/-- The outcome of a LAUNCH (R352); its KICK store is a release store of its skein (R350). -/
def State.serveLaunch (s : State) (o : Op) (p : Ply) (q va : Nat) (d : Dst) : State :=
  let (s, v) := match s.enclave p.enc with
    | none => (s, 1)
    | some e => match s.append e q va with
      | .ok (s, n) => (s.unrestartable p, n % 2 ^ 56 * 2 ^ 8)
      | .error n => (s, n)
  (s.putResult o d ⟨BitVec.ofNat 64 v, .i64⟩).dropOp o.id

end Sys2Proof.Machine
end

