-- ==== Sys2Proof/Machine/Traps.lean ====
section
/-! DEFINITION.  Return from a handler; HALT and WFI; trap records and their answers; time slices; saving and restoring
plies and skeins; the loss of a peer (13 R359 to R375; 07 R225; 18 R421). -/

namespace Sys2Proof.Machine

/-! ### ERET, HALT, WFI (R364, R366) -/

/-- The length of the instruction at an address; where its first word cannot be fetched, 4 or 8 by a free value. -/
def State.lengthAt (s : State) (p : Ply) (addr : Nat) : Nat :=
  match s.fetchFor p addr with
  | .ok w => if isLong w then 8 else 4
  | .error _ => if (Config.freeValue s.freeCtr).getLsbD 0 then 8 else 4

def eretMode (mode : Nat) (target : Nat) : EretMode :=
  match mode with
  | 0 => .retry
  | 1 => .next
  | 2 => .to target
  | _ => .discard

/-- R364, R10: what the operand of ERET .to is judged by: its tag and the alignment of the target. -/
def Issue.eretOperand (x : Issue) (a : Src) (mode target : Nat) : List FaultAt :=
  if mode = 2 then x.checkUniform okCtl a ++ (if target % 8 = 0 then [] else [⟨0x08, 0⟩]) else []

/-- ERET on a hub core (R364). -/
def Issue.eretHub (x : Issue) (s : State) (sb : List FaultAt) (a : Src) (mode : Nat) : State :=
  match x.ply.hub with
  | none => x.finish s x.ply [] []
  | some hub =>
    let b := hub.bank hub.level
    let target := (x.uniform a).toNat
    match lowestFault (sb ++ x.eretOperand a mode target ++ if b.taken then [] else [⟨0x01, 0⟩]) with
    | some e => x.refuse s sb e
    | none =>
      let p := x.ply.eretHub (eretMode mode target) (s.lengthAt x.ply b.epc.toNat)
      let p := { p with courses := p.courses.map fun (c : Course) => { c with nextIssue := x.after } }
      { (x.holdPipe s).putPly p with freeCtr := s.freeCtr + 1 }

/-- R364: discard is not a form of a hub core. -/
def eretBreach (x : Issue) (mode : BitVec 2) : List FaultAt := if x.hub && mode == 3 then [⟨0x01, 0⟩] else []

/-- ERET (R364). -/
def execEret (h : Head) (a : Src) (mode : BitVec 2) (s : State) : Host.Outcome State Fault Refusal :=
  let m := mode.toNat
  runIssue s (.eret h a mode) (eretBreach · mode) fun x sb =>
    if x.active.isEmpty then x.finish s x.ply [] (x.inactiveFaults sb)
    else if x.hub then x.eretHub s sb a m
    else
      let target := (x.uniform a).toNat
      let fault (f : Nat) : Option FaultAt :=
        lowestFault (sb ++ x.eretOperand a m target ++ if (x.ply.fibre f).handling then [] else [⟨0x01, 0⟩])
      let faults := x.active.filterMap fun f => (fault f).map fun e => (f, e)
      let good := x.active.filter fun f => (fault f).isNone
      let s := x.finish s x.ply [] (faults ++ x.inactiveFaults sb)
      match s.ply x.ply.handle, x.ply.handler with
      | some p, some save =>
        match p.course x.course.id with
        | none => s
        | some c =>
          if good.isEmpty then s
          else
            let p := p.eret c good (eretMode m target) (s.lengthAt p save.run.pc) s.nextId x.last x.after
            { s.putPly p with nextId := s.nextId + 1, freeCtr := s.freeCtr + 1 }
      | _, _ => s

/-- HALT (R366): once everything of the hub core's has performed. -/
def execHalt (h : Head) (s : State) : Host.Outcome State Fault Refusal :=
  runIssue s (.halt h) (fun _ => []) fun x sb =>
    match lowestFault sb with
    | some e => x.refuse s sb e
    | none =>
      if x.active.isEmpty then x.finish s x.ply [] []
      else if s.plyBusy x.ply.handle then x.wait s
      else x.finish s { x.ply with hub := x.ply.hub.map fun (k : Hub) => { k with halted := true } } [] []

/-- WFI (R366); its timeout counts hub cycles, four in a cycle (R5).  A timeout of another tag or poisoned is no fault (R366), and
then has a value that no rule states: a free value (DESIGN CHOICE, log 74). -/
def execWfi (h : Head) (a : Src) (s : State) : Host.Outcome State Fault Refusal :=
  runIssue s (.wfi h a) (fun _ => []) fun x sb =>
    match lowestFault sb with
    | some e => x.refuse s sb e
    | none =>
      if x.active.isEmpty then x.finish s x.ply [] []
      else
        let good := (x.checkUniform (· == .i64) a).isEmpty
        let n := if good then x.uniform a else Config.freeValue s.freeCtr
        let until_ := if a == .zero then none else some (x.time + (n.toNat + 3) / 4)
        let s := if good then s else { s with freeCtr := s.freeCtr + 1 }
        x.finish s { x.ply with hub := x.ply.hub.map fun (k : Hub) => { k with wfi := some until_ } } [] []

/-- WFI_TIMEOUT (R366). -/
def execWfiTimeout (ply : Nat) (s : State) : Host.Outcome State Fault Refusal :=
  match s.ply ply with
  | none => .next s
  | some p =>
    match p.hub with
    | none => .next s
    | some k => match k.wfi with
      | some (some t) => if t ≤ s.clock then .next (s.putPly { p with hub := some { k with wfi := none } }) else .next s
      | _ => .next s

/-- A hub core as Moafer first starts it: at monitor level, with no register set (log 6). -/
def hubPly (h c pkg core now : Nat) : Ply :=
  { placedPly h c now with
    asid := 1, core := pkg * 1024 + 864 + core, width := 1
    fibres := [{ Fibre.dormant with live := true }], courses := [Course.fresh c now [0] 0]
    hub := some ⟨2, [], false, false, none, none, none, none, 0, none⟩ }

/-- HUB_CORE_START (R366, R395). -/
def execHubCoreStart (pkg : Nat) (core : Nat) (s : State) : Host.Outcome State Fault Refusal :=
  if 48 ≤ core then .next s
  else match s.plies.find? fun p => p.isHub && p.core == pkg * 1024 + 864 + core with
    | some p => .next (s.putPly { p with hub := p.hub.map fun (k : Hub) => { k with halted := false } })
    | none => .next { s with plies := s.plies ++ [hubPly s.nextId (s.nextId + 1) pkg core s.clock], nextId := s.nextId + 2 }

/-- HUB_THREAD_SLICE_EXPIRY (R320, R366): the thread leaves its enclave, and WFIs end. -/
def execHubThreadSliceExpiry (ply : Nat) (s : State) : Host.Outcome State Fault Refusal :=
  match s.ply ply with
  | none => .next s
  | some p =>
    match p.hub with
    | none => .next s
    | some k =>
      if k.thread.isNone || k.leaving.isSome || decide (s.clock < k.sliceEnd) then .next s
      else .next ((s.putPly { p with hub := some { k with leaving := some (0x3A, 0) } }).wakeHubs (p.core / 1024))

/-! ### The handler of a ply (R359) -/

/-- HANDLER_TAKE (R359). -/
def execHandlerTake (ply : Nat) (s : State) : Host.Outcome State Fault Refusal :=
  match s.ply ply with
  | none => .next s
  | some p =>
    if p.residence != .resident then .next s
    else match p.nextTaken with
      | none => .next s
      | some c => match c.phase with
        | .parked cause .. => .next (s.putPly (p.takeCourse { c with nextIssue := Nat.max c.nextIssue s.clock } cause))
        | _ => .next s

/-! ### Trap records (R360, R362) -/

/-- The cause of a parked course that the supervisor is to be told of, and its flags (R360, R362). -/
def Course.reportable (p : Ply) (c : Course) : Option (Nat × Nat) :=
  match c.phase with
  | .parked cause _ nested reported =>
    let user := userDirected false cause ((p.fibre (c.fibres.headD 0)).eaux)
    if reported || (user && p.tvec != 0 && !nested) then none
    else some (cause, b2n (user || nested) + 4 * b2n nested)
  | _ => none

/-- The access that an instruction makes, as INFO gives it. -/
def State.accessOf (s : State) (p : Ply) (pc va : Nat) : Nat :=
  let value (a : Src) : Nat := match a with
    | .s n => (SMap.get Reg.zero p.s n.toNat).val.toNat
    | .imm k => (k.signExtend 64 : BitVec 64).toNat
    | _ => 0
  let code (i : Instr) : Nat := match i with
    | .stBase .. | .st .. | .accst .. => 1
    | .atom .. | .redms .. => 2
    | .copyl _ d _ b _ _ _ dir =>
      b2n (dstInMemory dir.toNat && value d / 65536 * 65536 ≤ va && va < value d + value b)
    | _ => 0
  match s.look p pc with
  | .found (.chartWord ch st ix f) _ => match s.expand p ch st ix f with
    | .ok i => code i
    | .error _ => 0
  | .found i _ => code i
  | _ => 0

/-- INFO of a parked course (R362). -/
def State.courseInfo (s : State) (p : Ply) (c : Course) (cause : Nat) : Nat :=
  let f := p.fibre (c.fibres.headD 0)
  let va := (f.eaux.extractLsb' 0 57).toNat
  let sub := (f.eaux.extractLsb' 57 4).toNat
  let ia := match s.toIa (p.core / 1024) p.asid va with | .ok ia => ia | .error _ => 0
  let deferred : Bool := match s.look p c.run.pc with
    | .found i _ => (shapeOf i).isBind || (match i with | .exit _ => true | _ => false)
    | _ => false
  if cause = 0x10 then infoOf ia sub 3
  else if cause = 0x11 ∨ cause = 0x13 ∨ cause = 0x14 then
    (if deferred then f.info else infoOf ia sub (s.accessOf p c.run.pc va))
  else 0

/-- The partition of a ply of an enclave. -/
def State.partitionOf (s : State) (p : Ply) : Option Partition :=
  (s.enclave p.enc).bind fun e => s.partition (p.core / 1024) e.part

def Partition.pkg (x : Partition) : Nat := x.id / 8
def Partition.units (x : Partition) (s : State) : List Nat := s.unitDies x.pkg (x.id % 8)

/-- Waiters of a key of an ASID are woken, wherever its word has its home. -/
def State.wakeAt (s : State) (dies : List Nat) (asid enc va n : Nat) : State × Nat :=
  match s.unitLocate dies asid va .read with
  | .ok (a, _) => s.wakeKey (a / 2 ^ 38) enc (va / 8) n
  | .error _ => (s, 0)

/-- A record goes to the TAIL of the ring: the state, and where the record stands; none while the ring has no room. -/
def State.ringWrite (s : State) (x : Partition) (record : List Word) : Option (State × Nat × Nat) :=
  let dies := x.units s
  match if x.ring = 0 then none else s.unitRead dies 0 x.ring 1 with
  | some [w] =>
    let head := (w.extractLsb' 0 32).toNat
    let tail := (w.extractLsb' 32 32).toNat
    if 2 ^ x.ringLog ≤ (tail + 2 ^ 32 - head) % 2 ^ 32 then none
    else
      let va := x.ring + 64 + 64 * (tail % 2 ^ x.ringLog)
      let s := s.unitWrite dies 0 va record
      let s := s.unitWrite dies 0 x.ring [BitVec.ofNat 64 (head + (tail + 1) % 2 ^ 32 * 2 ^ 32)]
      let s := ((s.wakeAt dies 0 0 x.ring 0).1).wakeHubs x.pkg
      let home := match s.unitLocate dies 0 va .read with | .ok (a, _) => a / 2 ^ 38 | .error _ => 0
      some (s, va, home)
  | _ => none

def trapRecord (enc cause flags mask info handle : Nat) : List Word :=
  [enc % 2 ^ 16 + cause * 2 ^ 16 + flags * 2 ^ 24, mask, info, handle, 0, 0, 0, 0].map (BitVec.ofNat 64)

/-- TRAP_RECORD_WRITE (R362); course 0 stands for the record of a frame that was rejected (R368). -/
def execTrapRecordWrite (ply : Nat) (course : Nat) (s : State) : Host.Outcome State Fault Refusal :=
  match s.ply ply with
  | none => .next s
  | some p =>
    match if p.isHub then none else s.partitionOf p with
    | none => .next s
    | some x =>
      match s.recs.find? fun r => r.ply == ply && r.rejected && r.va.isNone && course == 0, p.course course with
      | some r, _ =>
        match s.ringWrite x (trapRecord p.enc 0x3A 2 0 0 p.handle) with
        | none => .next s
        | some (s, va, home) =>
          let set (q : TrapRec) : TrapRec := if q.id == r.id then { q with va := some va, home } else q
          .next { s with recs := s.recs.map set }
      | none, some c =>
        match c.reportable p with
        | none => .next s
        | some (cause, flags) =>
          match s.ringWrite x (trapRecord p.enc cause flags (maskOf c.fibres) (s.courseInfo p c cause) p.handle) with
          | none => .next s
          | some (s, va, home) =>
            let c' := match c.phase with
              | .parked k n w _ => { c with phase := .parked k n w true }
              | _ => c
            let r : TrapRec := ⟨s.nextId, x.id, some va, ply, course, false, home, false⟩
            .next { s.modPly ply fun q => q.putCourse c' with recs := s.recs ++ [r], nextId := s.nextId + 1 }
      | none, none => .next s

/-- A parked course is answered (R363). -/
def Ply.answered (p : Ply) (c : Course) (resp len now : Nat) : Ply :=
  match c.phase with
  | .parked cause .. =>
    if resp = 1 then p.endFibres c.fibres now
    else
      let c' := { c with phase := .ready, retry := false, nextIssue := Nat.max c.nextIssue now }
      if cause = 0x38 ∨ cause = 0x39 then (p.passTemps c.fibres).putCourse (c'.pass len) else p.putCourse c'
  | _ => p

/-- A buffer of a frame goes back to its pool, and the entry of the frame goes (R371). -/
def State.frameDone (s : State) (e : Enclave) (handle : Nat) (pkg : Nat) (skein : Bool) : State :=
  let gone := (e.savedTab.filter (·.handle == handle)).map (·.buffer)
  let s := s.putEnclave { e with savedTab := e.savedTab.filter (·.handle != handle) }
  let give (x : Partition) : Partition :=
    if x.id = pkg * 8 + e.part then (if skein then x.giveBack [] gone else x.giveBack gone []) else x
  { s with partitions := s.partitions.map give }

/-- A saved ply is discarded: it counts as ended for its launch (R363). -/
def State.discardSaved (s : State) (p : Ply) : State :=
  match s.enclave p.enc with
  | none => s
  | some e => ((s.frameDone e p.handle (p.core / 1024) false).putPly { p with courses := [], deferred := [] }).endPly p.handle

/-- TRAP_RESPONSE (R363): the record's key has been woken; a RESP that cannot be read counts as 0. -/
def execTrapResponse (rec : Nat) (s : State) : Host.Outcome State Fault Refusal :=
  match s.recs.find? (·.id == rec) with
  | none => .next s
  | some r =>
    match r.va with
    | none => .next s
    | some va =>
      if !r.woken then .next s
      else
        let resp := match s.unitRead (s.unitDies (r.part / 8) (r.part % 8)) 0 (va + 48) 1 with
          | some [w] => w.toNat
          | _ => 0
        let s := { s with recs := s.recs.filter (·.id != rec) }
        match s.ply r.ply with
        | none => .next s
        | some p =>
          if r.rejected then .next (if resp = 1 then s.discardSaved p else s)
          else
            let p := { p with hold := false }
            match p.course r.course with
            | none => .next (s.putPly p)
            | some c =>
              .next { s.putPly (p.answered c resp (s.lengthAt p c.run.pc) s.clock) with freeCtr := s.freeCtr + 1 }

/-! ### Time slices (R358, R367) -/

/-- Another ply waits for a place on the ply's core: one that is saved, or one of a ready launch. -/
def State.slotWanted (s : State) (p : Ply) : Bool :=
  match s.enclave p.enc with
  | none => false
  | some e =>
    (s.plies.any fun q => !q.isHub && q.residence != .resident && !q.hold && (s.enclave q.enc).any (·.part == e.part))
      || s.launches.any fun l => l.part == e.part && s.wanting l

/-- SLICE_EXPIRY (R367). -/
def execSliceExpiry (ply : Nat) (s : State) : Host.Outcome State Fault Refusal :=
  match s.ply ply with
  | none => .next s
  | some p =>
    let slice := s.sliceInEffect (p.core / 1024) (s.contextPart p) * microCycles
    if p.isHub || p.residence != .resident || p.saveAsked.isSome || decide (s.clock < p.sliceStart + slice)
        || !s.slotWanted p then .next s
    else .next (s.putPly { p with saveAsked := some (s.clock, 0) })

/-! ### Saving (R367, R371) -/

/-- A copy that waits for a slot of its ring stays pending with its skein: one that waits to acquire (R225), and also one that
waits to take, which R225 and R277 do not name (DESIGN CHOICE, log 56). -/
def Op.pendingCopy (o : Op) : Bool :=
  match o.body with
  | .copy _ _ _ _ _ _ (.slotWait _) => true
  | _ => false

/-- The ply may be saved as it stands (R367): nothing is on its way, and no course is inside a chain. -/
def State.quiet (s : State) (p : Ply) : Bool :=
  p.residence == .resident && !p.isHub && p.flight.all (·.time ≤ s.clock) && p.courses.all (·.chain.isEmpty)
    && !(s.ops.any fun o => o.ply == p.handle && !o.blocking && !o.pendingCopy)

/-- A frame is written to a buffer of supervisor memory, and its version entered (R371). -/
def State.writeFrame (s : State) (e : Enclave) (pkg buffer kind handle : Nat) (body : List Byte) : State :=
  let version := e.frames + 1
  let b := e.sealFrame kind handle version body
  let tab := e.savedTab.filter (·.handle != handle) ++ [⟨handle, buffer, version⟩]
  let s := s.putEnclave { e with frames := version, savedTab := tab }
  s.unitWrite (s.unitDies pkg e.part) 0 buffer (wordsOf ((b.length + 7) / 8) b)

def SaveKind.num : SaveKind → Nat
  | .reconvergence => 0
  | .waiting => 1
  | .full => 2

/-- The ply is saved: its blocked instructions are withdrawn, its frame is sealed, and it leaves its core. -/
def State.savePly (s : State) (h : Nat) (kind : SaveKind) : State :=
  let asked := (s.ops.filter fun o => o.ply == h && o.blocking).map (·.course)
  let s := s.unblock h
  match s.ply h with
  | none => s
  | some p =>
    match s.enclave p.enc, s.partitionOf p with
    | some e, some x =>
      match x.plyPool with
      | [] => s
      | buffer :: pool =>
        let (s, p) := s.scrub (p.land s.clock)
        let p := { p with gauge := p.gauge.map fun g =>
          { g with left := g.left - (match g.since with | some t => s.clock - t | none => 0), since := none } }
        let p := match kind, oldestCourse p.courses with
          | .reconvergence, some c => { p with courses := [mergeCourses c p.courses] }
          | _, _ => p
        let shown (c : Course) : Course := if c.phase == .ready && asked.contains c.id then { c with phase := .waiting none } else c
        let body := s.plyBody { p with courses := p.courses.map shown } kind.num      -- R373: state 3, withdrawn
        let chart := match s.chartOf p with | some c => c.entries | none => []
        let latch := (s.latchOf p).map fun l => (l.vA, l.n, l.vals)
        let take (y : Partition) : Partition := if y.id = x.id then { y with plyPool := pool } else y
        let s := { (s.putPly p).writeFrame e x.pkg buffer kind.num h body with partitions := s.partitions.map take }
        let reason : Nat := match p.saveAsked with | some (_, r) => r | none => 2
        let p' : Ply := { p with
          residence := .saved kind buffer (e.frames + 1), saved := some (chart, latch), saveAsked := none
          hold := kind == .waiting && p.awaitsAnswer, boost := if reason = 1 then some 0 else none }
        (s.vacate p).putPly p'
    | _, _ => s

/-- PLY_SAVE (R367, R298). -/
def execPlySave (ply : Nat) (s : State) : Host.Outcome State Fault Refusal :=
  match s.ply ply with
  | none => .next s
  | some p =>
    if !s.quiet p then .next s
    else if p.saveAsked.isSome && p.atReconvergence then .next (s.savePly ply .reconvergence)
    else if (p.saveAsked.isSome && p.atWaiting) || p.awaitsAnswer then .next (s.savePly ply .waiting)
    else .next s

/-- FORCED_FULL_SAVE (R367): 2,000 cycles after the request, where the ply stands at no point of the other saves. -/
def execForcedFullSave (ply : Nat) (s : State) : Host.Outcome State Fault Refusal :=
  match s.ply ply with
  | none => .next s
  | some p =>
    match p.saveAsked with
    | some (t, _) => if t + 2000 ≤ s.clock && s.quiet p && !p.atReconvergence && !p.atWaiting then .next (s.savePly ply .full) else .next s
    | none => .next s

/-! ### Skeins (R225, R374, R421) -/

def State.plyOps (s : State) (skein : Nat) : List Op :=
  s.ops.filter fun o => match s.ply o.ply with | some p => p.skein == skein | none => false

/-- The pair of a skein, and its bind. -/
def State.bindOf (s : State) (k : Skein) : Option (Pair × PairBind) :=
  s.pairs.findSome? fun q => (q.binds.find? fun b => b.leader == k.handle || b.follower == k.handle).map (q, ·)

/-- The skein's frame is sealed; `pair` are the blocks that go into it. -/
def State.sealSkein (s : State) (k : Skein) (buffer : Nat) (pair : Option PairBind) : State :=
  match s.enclave k.enc with
  | none => s
  | some e =>
    let pending := (s.plyOps k.handle).filter (·.pendingCopy)
    let s := s.writeFrame e (k.core / 1024) buffer 3 k.handle (k.body pending pair)
    let k' : Skein := { k with
      carve := k.carve.withdraw fun id => pending.any (·.id == id)
      residence := .saved .full buffer (e.frames + 1), kept := pair }
    { s with skeins := updateWhere (·.handle == k.handle) (fun _ => k') s.skeins }

/-- A matrix operation of the partner reads B tiles from the carve of a skein (R199). -/
def State.partnerReads (s : State) (k : Skein) : Bool :=
  k.partner != 0 && (s.plyOps k.partner).any fun o => match o.body with | .mma .. => true | _ => false

/-- SKEIN_SAVE (R225): every ply of the skein that has not ended is saved, and no engine works on its carve.  When its
partner is saved already, the pair's blocks go into the frame of the leader's skein (R214, R374). -/
def execSkeinSave (skein : Nat) (s : State) : Host.Outcome State Fault Refusal :=
  match s.skein skein with
  | none => .next s
  | some k =>
    let mine := s.plies.filter (·.skein == skein)
    let busy : Bool := ((s.plyOps skein).any fun o => !o.pendingCopy) || s.partnerReads k
    match (s.enclave k.enc).bind fun e => s.partition (k.core / 1024) e.part with
    | none => .next s
    | some x =>
      match x.skeinPool with
      | [] => .next s
      | buffer :: pool =>
        if k.residence != .resident || mine.isEmpty || mine.any (·.residence == .resident) || busy then .next s
        else
          let take (y : Partition) : Partition := if y.id = x.id then { y with skeinPool := pool } else y
          let s := { s with partitions := s.partitions.map take }
          match s.bindOf k, s.skein k.partner with
          | some (q, b), some other =>
            if other.residence = .resident then .next (s.sealSkein k buffer none)
            else
              let s := s.putPair { q with binds := q.binds.filter (· != b) }
              if b.leader = k.handle then .next (s.sealSkein k buffer (some b))
              else
                let s := s.sealSkein k buffer none
                match other.residence with
                | .saved _ buf _ => .next (s.sealSkein other buf (some b))
                | _ => .next s
          | some (q, b), none =>
            .next ((s.putPair { q with binds := q.binds.filter (· != b) }).sealSkein k buffer (some b))
          | none, _ => .next (s.sealSkein k buffer none)

/-- The frame of a saved ply or skein, as its buffer holds it. -/
def State.frameBytes (s : State) (e : Enclave) (pkg buffer : Nat) : Option (List Byte) :=
  let dies := s.unitDies pkg e.part
  match s.unitRead dies 0 buffer 8 with
  | none => none
  | some ws =>
    let n := field (granuleBytes ws) 24 4
    if 8 * 2 ^ 20 < n then none
    else (s.unitRead dies 0 buffer (8 + (n + 7) / 8)).map granuleBytes

/-- R371: the frame passes its checks. -/
def State.frameGood (s : State) (e : Enclave) (pkg kind handle : Nat) : Bool :=
  match e.savedTab.find? (·.handle == handle) with
  | none => false
  | some c => match s.frameBytes e pkg c.buffer with
    | some b => e.frameOk kind handle c.version b
    | none => false

/-- A restore is refused: a record is to be written for the ply (R368). -/
def State.refuseFrame (s : State) (x : Partition) (ply : Nat) : State :=
  { s with recs := s.recs ++ [⟨s.nextId, x.id, none, ply, 0, true, 0, false⟩], nextId := s.nextId + 1 }

def State.rejected (s : State) (ply : Nat) : Bool := s.recs.any fun r => r.ply == ply && r.rejected

/-- The operations kept pending with a skein join the back of their rings' queues (R225). -/
def State.rejoin (s : State) (k : Skein) : Skein :=
  (s.plyOps k.handle).foldl (init := k) fun k o => match o.body with
    | .copy i d _ _ _ _ (.slotWait _) => match k.carve.ring d with
      | some r =>
        let r := if copyStores i then { r with takers := r.takers ++ [o.id] } else { r with acquirers := r.acquirers ++ [o.id] }
        { k with carve := k.carve.setRing d r }
      | none => k
    | _ => k

/-- Blocks of a pair on another core pair: physical blocks that are free there. -/
def Pair.rehouse (q : Pair) (b : PairBind) : Pair :=
  let free := (List.range 32).filter fun n => (q.block n).isNone
  let blocks := b.blocks.zipIdx.map fun (k, i) => { k with phys := free.getD i i }
  { q with binds := q.binds ++ [{ b with blocks }] }

/-- The skeins that are restored together (R421). -/
def State.restoreGroup (s : State) (k : Skein) : List Skein :=
  match s.skein k.partner with
  | some o => if o.residence = Residence.resident then [k] else [k, o]
  | none => [k]

/-- A core may take a saved skein (R217, R62); one whose pair's blocks stayed on its core pair goes back to its core (R421). -/
def State.mayTake (s : State) (k : Skein) (core : Nat) : Bool :=
  s.coreOpen k.part core && (s.coreSkeins core).length < 8 && carvesFit (k.carve :: (s.coreSkeins core).map (·.carve))
    && ((s.bindOf k).isNone || core == k.core)

/-- SKEIN_RESTORE (R421, R225, R371). -/
def execSkeinRestore (skein : Nat) (core : Nat) (s : State) : Host.Outcome State Fault Refusal :=
  match s.skein skein with
  | none => .next s
  | some k =>
    match s.enclave k.enc, (s.enclave k.enc).bind fun e => s.partition (k.core / 1024) e.part with
    | some e, some x =>
      let group := s.restoreGroup k
      let coreFor (o : Skein) : Nat := if k.reserve = 0 then core else core / 2 * 2 + o.index % 2
      let bind? := group.findSome? (·.kept)
      let plies := s.plies.filter fun p => group.any (·.handle == p.skein)
      let room : Bool := match bind? with
        | some b => b.reserve + (b.blocks.filter (·.borrowed)).length
            ≤ (match s.pair (core / 2 * 2) with | some q => q.pool | none => 32)
        | none => true
      if k.residence = Residence.resident || plies.any (fun p => s.rejected p.handle)
          || !(group.all fun o => s.mayTake o (coreFor o)) || !room || core != coreFor k then .next s
      else match group.find? fun o => !s.frameGood e (o.core / 1024) 3 o.handle with
        | some o => match s.plies.find? (·.skein == o.handle) with
          | some p => .next (s.refuseFrame x p.handle)
          | none => .next s
        | none =>
          let s := group.foldl (init := s) fun s o => match s.enclave k.enc with
            | some e => s.frameDone e o.handle (o.core / 1024) true
            | none => s
          let back (o : Skein) : Skein :=
            if group.any (·.handle == o.handle) then
              { s.rejoin o with core := coreFor o, residence := Residence.resident, kept := none }
            else o
          let s := { s with skeins := s.skeins.map back }
          match bind? with
          | none => .next s
          | some b =>
            let lead := core / 2 * 2
            match s.pair lead with
            | some q => .next (s.putPair (q.rehouse b))
            | none => .next { s with pairs := s.pairs ++ [(Pair.fresh lead []).rehouse b] }
    | _, _ => .next s

/-! ### Restoring a ply (R368 to R371) -/

/-- The slot for a restored chart: one that holds the same kernel and entries, or a free one (R48). -/
def State.restoreSlot (s : State) (p : Ply) (core : Nat) (kernel : Nat × Nat) (entries : SMap (BitVec 96)) : Option Nat :=
  let k := s.core core
  let same (n : Nat) : Bool := match SMap.get none k.charts n with
    | some c => c.enc == p.enc && c.kernel == kernel && c.entries == entries
    | none => false
  ((List.range 4).find? same).or ((List.range 4).find? fun n => (SMap.get none k.charts n).isNone)

/-- The level of a restored ply (R368, R370). -/
def State.restoreLevel (s : State) (p : Ply) : Nat :=
  let q := match s.launches.find? (·.id == p.launch) with
    | some l => s.levelOf l
    | none => p.level
  Nat.max q (p.boost.getD 0)

/-- PLY_RESTORE (R368).  The time that a save and a restore take is the machine's own: a free value (log 36). -/
def execPlyRestore (ply : Nat) (pl : Placement) (s : State) : Host.Outcome State Fault Refusal :=
  match s.ply ply with
  | none => .next s
  | some p =>
    match p.residence, p.saved, s.enclave p.enc, s.partitionOf p with
    | .saved kind _ _, some (entries, latch), some e, some x =>
      let here : Bool := match s.skein p.skein with
        | some k => k.residence == Residence.resident && k.core == pl.core
        | none => true
      let kernel := match s.launches.find? (·.id == p.launch) with | some l => l.kernel | none => (0, p.chartBase.toNat)
      let k := s.core pl.core
      let bound : Bool := match s.skein p.skein with | some k => k.reserve != 0 | none => false
      let latchFree : Bool := (latch.isNone && !bound) || (SMap.get none k.latches pl.part).isNone      -- R191, R421
      match s.restoreSlot p pl.core kernel entries with
      | none => .next s
      | some slot =>
        if p.isHub || p.hold || s.rejected ply || !here || !s.coreOpen e.part pl.core || !latchFree
            || !placesOk p.width p.window pl.core (s.coreTaken pl.core) [pl] then .next s
        else if !s.frameGood e x.pkg kind.num ply then .next (s.refuseFrame x ply)
        else
          let s := s.frameDone e ply x.pkg false
          let time := (Config.freeValue s.freeCtr).toNat % 2 ^ 20
          let timed (y : Partition) : Partition := if y.id = x.id then { y with times := (time :: y.times).take 64 } else y
          let k := { k with
            charts := SMap.set none k.charts slot (some ((SMap.get none k.charts slot).getD ⟨kernel, p.enc, entries⟩))
            latches := match latch with
              | some (vA, n, vals) => SMap.set none k.latches pl.part (some ⟨ply, vA, n, vals⟩)
              | none => k.latches }
          let p := { p with
            core := pl.core, part := pl.part, slot := pl.slot, base := pl.base, group := pl.group, chart := slot
            level := s.restoreLevel p, fs := kind == SaveKind.full, residence := .resident, saved := none, boost := none
            sliceStart := s.clock, eligibleSince := s.clock
            courses := p.courses.map fun (c : Course) => { c with nextIssue := Nat.max c.nextIssue s.clock } }
          let s := { (s.putCore k).putPly (p.releaseRcv s.clock) with
            partitions := s.partitions.map timed, freeCtr := s.freeCtr + 1 }
          .next (s.acquire pl.core 6)
    | _, _, _, _ => .next s

/-! ### Peer loss (R375) -/

/-- A die belongs to what is lost: a package (kind 0), a die (1); a link (2) is between two dies or packages. -/
def lostDie (kind aper die : Nat) : Bool := if kind = 0 then die / 8 == aper / 8 else kind == 1 && die == aper

/-- An access from a die to a home involves the lost unit. -/
def lostBetween (kind aper other a b : Nat) : Bool :=
  if kind = 2 then
    if aper / 8 = other / 8 then (a == aper && b == other) || (a == other && b == aper)
    else (a / 8 == aper / 8 && b / 8 == other / 8) || (a / 8 == other / 8 && b / 8 == aper / 8)
  else lostDie kind aper a || lostDie kind aper b

/-- The dies of a partition's garment, and the hub dies that serve it (R62, R396). -/
def State.garmentDies (s : State) (part : Nat) : List Nat := (s.packagesOf part).flatMap fun pkg => s.unitDies pkg part

/-- The partition uses the lost unit. -/
def State.usesLost (s : State) (kind aper other part : Nat) : Bool :=
  let dies := s.garmentDies part
  if kind = 2 then dies.any fun a => dies.any fun b => lostBetween 2 aper other a b
  else dies.any (lostDie kind aper)

/-- The virtual addresses that an engine operation reads and writes in device memory, one in each granule. -/
def State.engineAddrs (s : State) (o : Op) (p : Ply) : List Nat :=
  let span (va n : Nat) : List Nat := (List.range ((n + 7) / 8)).map fun k => va + 8 * k
  match o.body with
  | .hubcopy _ _ dst src n counter _ => counter :: (span dst n ++ span src n)
  | .stgpost list _ _ => span list 64
  | .chartld va blk _ => span va (chartldBytes blk)
  | .accld _ va _ => span va 65536
  | .accst _ va => span va 65536
  | .cmap va _ => span va 256
  | .copyl dst src n dir _ _ => (if dstInMemory dir then span dst n else []) ++ if srcInMemory dir then span src n else []
  | .copy i d _ coords mode sat _ =>
    match (s.skein p.skein).bind fun k => (SMap.get none k.maps ((o.body.mapSlot).getD 0)).bind parseMap with
    | none => []
    | some m =>
      let j := copyJob i m coords mode sat d
      if j.store then (j.run (s.memNibble p) ((s.carve p.skein).nibble)).1.map fun x => 8 * x.1 else j.reads
  | _ => []

/-- The bodies of engine operations: copy engines and hub units, CHARTLD, the cable pair. -/
def OpBody.engine : OpBody → Bool
  | .hubcopy .. | .stgpost .. | .chartld .. | .cmap .. | .copy .. | .copyl .. => true
  | .mma .. | .acczero .. | .accfree .. | .accld .. | .accst .. | .mread .. => true
  | _ => false

/-- An engine operation involves the lost unit: its engine stands on it, or one of its granules, read or written, has its home
there. -/
def State.engineLost (s : State) (kind aper other : Nat) (o : Op) : Bool :=
  let p := (s.issuer o).getD (placedPly 0 0 0)
  let (at_, asid) : Nat × Nat := match o.body with
    | .hubcopy enc asid .. => (match s.enclave enc with | some e => 8 * e.pkg + 6 | none => 6, asid)
    | .stgpost .. => (coreAper p.core / 8 * 8 + 6, o.asid)
    | _ => (coreAper p.core, o.asid)
  let lost (va : Nat) (acc : Access) : Bool := match s.locate at_ asid va acc o.pages with
    | .ok (a, _) => lostBetween kind aper other at_ (a / 2 ^ 38)
    | .error _ => false
  o.body.engine && (lostBetween kind aper other at_ at_ || (s.engineAddrs o p).any fun va => lost va .read || lost va .write)

/-- Accesses of an operation to the lost unit that have not performed end without effect (R375); WAITV and NCQW are withdrawn with
the course that they block, as in a full save. -/
def State.loseAccesses (s : State) (kind aper other : Nat) (o : Op) : State :=
  match o.body, s.ply o.ply with
  | .mem m _, some p =>
    let gone := m.items.filter fun i => o.left.contains i.fibre && i.state != .done
      && lostBetween kind aper other (coreAper p.core) i.home
    gone.foldl (init := s) fun s i => match s.op o.id with
      | none => s
      | some o =>
        let s := { s with
          msgs := s.msgs.filter fun q => !(q.op == o.id && q.fibre == i.fibre)
          waiters := s.waiters.filter fun w => !(w.op == o.id && w.fibre == i.fibre) }
        if m.cls == .waitv || m.cls == .ncqw then s else s.reply o m i .lost
  | _, _ => s

/-- Probes on their way to or from the lost unit end; the walk starts afresh. -/
def State.loseProbes (s : State) (kind aper other : Nat) : State :=
  let gone := s.msgs.filter fun m => m.op == 0 && lostBetween kind aper other m.src m.dst
  { s with
    msgs := s.msgs.filter fun m => !(gone.any (·.id == m.id))
    probes := s.probes.filter fun q =>
      !(gone.any fun m => m.core == q.core && m.asid == q.asid && m.ia / 65536 == q.page) }

/-- A ply that stops for a peer loss (R375): it parks when it stands as for a full save; a hub core takes the trap at the
end of its chain.  A ply that is saved does so when it is back. -/
def State.settleLoss (s : State) (q : Ply) : State :=
  match q.lost with
  | none => s
  | some eaux =>
    if q.isHub then
      if q.courses.any (!·.chain.isEmpty) then s
      else
        let s := s.unblock q.handle
        match s.ply q.handle with
        | some p => match p.courses with
          | c :: _ => s.hubTrap { p with lost := none } c.run ⟨0x31, eaux⟩
          | [] => s
        | none => s
    else if !s.quiet q then s
    else (s.modPly q.handle fun p => { p with lost := none }).parkTogether q.handle
      (fun c => !(c.fibres.any fun f => (q.fibre f).handling)) 0x31 eaux

/-- Every ply that stops for a peer loss and stands. -/
def State.settleLosses (s : State) : State := s.plies.foldl State.settleLoss s

/-- A package, die or link is lost: the partitions that use it are quiesced (R375), and with them the work requests of
their enclaves (R391, status 6). -/
def State.peerLoss (s : State) (kind aper other : Nat) : State :=
  let parts := (List.range 6).filter (s.usesLost kind aper other)
  let hit (enc : Nat) : Bool := (s.enclave enc).any fun e => parts.contains e.part
  let ids := (s.plies.filter fun p => hit p.enc).map (·.handle)
  let ops := s.ops.filter fun o => ids.contains o.ply || match o.body with | .hubcopy enc .. => hit enc | _ => false
  let s := (ops.foldl (fun s o => s.loseAccesses kind aper other o) s).loseProbes kind aper other
  let dead := ops.filter (s.engineLost kind aper other)
  let s := dead.foldl (init := s) fun s o => match s.pairs.find? fun q => q.queue.contains o.id with
    | some q => s.cancelPairOp q.core o
    | none => s.withdraw (· == o.id)
  let encs := (s.enclaves.filter fun e => parts.contains e.part).map (·.enc)
  let s := { s with nets := s.nets.map fun r => encs.foldl (fun r n => NetReq.cut n r) r }
  let eaux := BitVec.ofNat 64 (aper % 4096 + kind * 4096)
  { s with plies := s.plies.map fun p => if ids.contains p.handle then { p with lost := some eaux } else p }

/-- PEER_LOSS (R375). -/
def execPeerLoss (kind : Nat) (aper : Nat) (other : Nat) (s : State) : Host.Outcome State Fault Refusal :=
  .next (if 3 ≤ kind then s else s.peerLoss kind aper other)

end Sys2Proof.Machine
end

