-- ==== Sys2Proof/Machine/Fabric.lean ====
section
/-! DEFINITION.  Fabric messages at the homes and at the requesters, and the flits that carry them (14 R376 to R385;
08 R259 to R261; 10 R291, R294).  A flit names the units of its messages, which stand in the state as plain data;
`State.flitBytes` gives the bytes on the link, encrypted, which undo themselves at the receiver (log 39). -/

namespace Sys2Proof.Machine

/-- Bits [63:42] of a report of attributes (R305). -/
def attrBits (m : Msg) : Nat :=
  match m.answer with
  | .attr kind perm rperm _ =>
    2 * 2 ^ 20 + kind * 2 ^ 18 + perm.toNat * 2 ^ 15 + rperm.toNat * 2 ^ 12 + m.src % 2 ^ 12
  | _ => 0

/-- The header of a message (R376): of a response too, SRC names the requesting die. -/
def Msg.header (m : Msg) : List Byte :=
  bytesLE 1 m.opc ++ bytesLE 1 (8 * b2n m.so) ++ bytesLE 2 m.asid ++ bytesLE 7 m.ia ++ bytesLE 1 m.gmask ++ bytesLE 4 m.tid
    ++ bytesLE 4 (if m.so then m.seq else 0) ++ bytesLE 2 m.req ++ bytesLE 1 m.arg ++ bytesLE 1 m.sub
    ++ (if m.opc = 0x85 then bytesLE 8 (attrBits m) else if m.line.isEmpty then zeros 8 else m.line.map (·.code))

/-- Its data line. -/
def Msg.dataLine (m : Msg) : List Byte := granuleBytes (m.line.map (·.data))

/-- R377: the opcode is one of the table, and the fields keep R376 for it. -/
def Msg.lawful (m : Msg) : Bool :=
  let line := [2, 3, 4, 0x81, 0x83].contains m.opc
  ([1, 5, 6, 7, 0x82, 0x84, 0x85, 0x86, 0x8F].contains m.opc || line) && m.line.length == (if line then 8 else 0)
    && m.asid < 2048 && m.ia < 2 ^ 52 && m.gmask < 256 && (m.opc == 2 || m.gmask == 0) && m.tid < 2 ^ 32 && m.seq < 2 ^ 32
    && (m.so || m.seq == 0) && m.req < 4096 && m.arg < 256 && m.sub < 256 && (m.opc == 0x8F || m.sub == 0)

/-! ### The bytes of a flit (R378, R379, R381) -/

/-- The secret of the traffic of an ASID (R379): of its enclave, or of the supervisor or the monitor of the package that sends. -/
def State.trafficSecret (s : State) (pkg asid : Nat) : List Byte :=
  match if asid < 2 then none else s.enclaveOfAsid asid with
  | some e => e.secret
  | none => secretOf pkg (SMap.get 0 s.epoch pkg) 0 asid (s.pkg pkg).bootCount

def State.msg (s : State) (id : Nat) : Option Msg := s.msgs.find? (·.id == id)

/-- The bytes of a unit: a header, a half of a data line, or where `whole` the line. -/
def State.unitBytes (s : State) (whole : Bool) (x : Nat × Nat) : List Byte :=
  match s.msg x.1 with
  | none => zeros 32
  | some m => if x.2 = 0 then m.header else if whole then m.dataLine else (m.dataLine.drop (32 * (x.2 - 1))).take 32

/-- A UCIe flit; its units are encrypted each with its own counter block, whose last four bytes count the 16-byte blocks of the
unit. -/
def State.ucieBytes (s : State) (f : Flit) : List Byte :=
  let keys := roundKeys (linkStreamKey (s.trafficSecret (aperPkg f.src) f.asid) 0)
  let plain := padTo 224 (f.units.flatMap (s.unitBytes false))
  let unit (u : Nat) : List Byte :=
    gctr keys (bytesLE 8 f.ctr ++ bytesLE 2 f.asid ++ bytesLE 1 u ++ zeros 1) 2 0 ((plain.drop (32 * u)).take 32)
  let map := f.units.zipIdx.foldl (fun n x => n + (x.1.2 + 1) * 4 ^ x.2) 0
  let link := Config.linkField f.seq (SMap.get 0 s.links (ackKey f.dst f.src)) (SMap.get 0 s.links (nakKey f.dst f.src) != 0)
  let body := bytesLE 2 map ++ bytesLE 2 f.asid ++ bytesLE 8 f.ctr ++ (List.range 7).flatMap unit ++ (link ++ zeros 6).take 6
  body ++ (Config.flitCheck body ++ zeros 14).take 14

/-- Headers in pairs, each pair followed by the data lines of its messages. -/
def headerSegments (lines : List Nat) : List Nat → List (List (Nat × Nat))
  | [] => []
  | [a] => [(a, 0)] :: (lines.filter (· == a)).map fun n => [(n, 1)]
  | a :: b :: r => [(a, 0), (b, 0)] :: (lines.filter fun n => n == a || n == b).map (fun n => [(n, 1)]) ++ headerSegments lines r

/-- The segments of a scale-up flit: the data lines whose headers stood in the flit before it come first (R381). -/
def Flit.segments (f : Flit) : List (List (Nat × Nat)) :=
  let heads := headersOf f.units
  let lines := linesOf f.units
  (lines.filter (!heads.contains ·)).map (fun n => [(n, 1)]) ++ headerSegments lines heads

/-- A scale-up flit. -/
def State.scaleupBytes (s : State) (f : Flit) : List Byte :=
  let key := linkStreamKey (s.trafficSecret (aperPkg f.src) f.asid) 1
  let map := f.segments.zipIdx.foldl (fun n x => n + (if x.1.any (·.2 == 0) then 1 else 2) * 4 ^ x.2) 0
  let head := bytesLE 3 map ++ zeros 1 ++ bytesLE 2 f.asid ++ bytesLE 2 f.src ++ bytesLE 2 f.dst ++ zeros 6 ++ bytesLE 8 f.ctr
  let iv := bytesLE 8 f.ctr ++ bytesLE 2 f.src ++ zeros 2
  let ct := gcmCrypt key iv (padTo 576 (f.segments.flatMap fun l => padTo 64 (l.flatMap (s.unitBytes true))))
  let front := head ++ gcmTag key iv head ct
  front ++ (Config.flitCheck (front ++ ct) ++ zeros 24).take 24 ++ ct

/-- What a flit of the machine is on its link. -/
def State.flitBytes (s : State) (f : Flit) : List Byte := if f.scaleup then s.scaleupBytes f else s.ucieBytes f

/-! ### Flits (R378 to R385) -/

/-- A flit leaves its link. -/
def State.takeFlit (s : State) (f : Flit) : State := { s with flits := s.flits.filter (·.id != f.id) }

/-- The messages of which a flit carries a unit. -/
def Flit.carries (f : Flit) : List Nat := (f.units.map (·.1)).eraseDups

/-- A message whose units have all crossed a hop goes on; one that breaks R376 is dropped, and is the loss of the link (R377). -/
def State.deliverMsg (s : State) (f : Flit) (id : Nat) : State :=
  if s.flits.any fun g => g.scaleup == f.scaleup && g.src == f.src && g.dst == f.dst && g.carries.contains id then s
  else match s.msg id with
    | none => s
    | some m =>
      if m.lawful then s.advance m f.dst
      else ((s.dropMsg id).logEvent 6 [f.src, f.dst]).peerLoss 2 f.src f.dst

/-- The messages of an accepted flit, in the order of its units (R380). -/
def State.acceptFlit (s : State) (f : Flit) : State := f.carries.foldl (fun s id => s.deliverMsg f id) (s.takeFlit f)

/-- A flit is dropped with what it carries, and the event is logged. -/
def State.rejectFlit (s : State) (f : Flit) (kind : Nat) : State :=
  (f.carries.foldl State.dropMsg (s.takeFlit f)).logEvent kind [f.src, f.dst, f.asid]

/-- R378: flits of one direction of a UCIe link arrive in the order sent. -/
def State.flitFirst (s : State) (f : Flit) : Bool :=
  !(s.flits.any fun g => g.id < f.id && !g.scaleup && g.src == f.src && g.dst == f.dst)

/-- A UCIe flit that fails its CRC is not accepted: it stands in the retry buffer and is sent again, with a new counter (R378). -/
def State.replay (s : State) (f : Flit) : State :=
  let key := linkKey false f.src f.dst f.asid
  let ctr := SMap.get 0 s.links key
  { s with
    flits := updateWhere (fun (g : Flit) => g.id == f.id) (fun g => { g with ctr, sent := true }) s.flits
    links := SMap.set 0 (SMap.set 0 s.links key (ctr + 1)) (nakKey f.src f.dst) 1 }

/-- UCIE_FLIT_RECEIVE (R378, R380, R385). -/
def execUcieFlitReceive (flit : Nat) (ok : Bool) (s : State) : Host.Outcome State Fault Refusal :=
  match s.flits.find? (·.id == flit) with
  | none => .next s
  | some f =>
    if f.scaleup || !s.flitFirst f then .next s
    else if !ok then .next (s.replay f)
    else
      let s := { s with links := SMap.set 0 (SMap.set 0 s.links (ackKey f.src f.dst) f.seq) (nakKey f.src f.dst) 0 }
      if f.src != f.dst && !(s.pkg (aperPkg f.dst)).linkOpen (aperDie f.dst) (aperDie f.src) f.asid then .next (s.rejectFlit f 5)
      else .next (s.acceptFlit f)

/-- SCALEUP_FLIT_RECEIVE (R381, R382, R385): behind the firewall the gateway judges DSTP, then FCTR, then GTAG.  A duplicate is
dropped and counted; a flit that fails its tag is the loss of the link (R375).  An SO request that comes before its turn is held
at the gateway (R383). -/
def execScaleupFlitReceive (flit : Nat) (ok : Bool) (s : State) : Host.Outcome State Fault Refusal :=
  match s.flits.find? (·.id == flit) with
  | none => .next s
  | some f =>
    let key := linkKey true f.src f.dst f.asid
    if !f.scaleup then .next s
    else if 6 ≤ aperDie f.dst || !(s.pkg (aperPkg f.dst)).garmentOpen (aperDie f.dst) (aperPkg f.src) f.asid then
      .next (s.rejectFlit f 5)
    else if s.seen.any fun x => x.1 == key && x.2 == f.ctr then .next ((s.takeFlit f).logEvent 7 [f.src, f.asid, f.ctr])
    else if !ok then .next ((s.rejectFlit f 6).peerLoss 2 f.src f.dst)
    else
      .next (State.acceptFlit { s with seen := (key, f.ctr) :: s.seen.filter fun x => !(x.1 == key && x.2 + 4096 ≤ f.ctr) } f)

/-! ### Requests at their home (R377, R380) -/

/-- A message that has reached its die. -/
def State.arrivedMsg (s : State) (id opc : Nat) : Option Msg :=
  (s.msg id).bind fun m => if m.arrived && m.opc == opc then some m else none

/-- R380: the home performs SO requests in the order in which it received them; a wait-table enter has performed when its fibre
stands in the table. -/
def State.soTurn (s : State) (m : Msg) : Bool :=
  !m.so || !(s.msgs.any fun x => x.came < m.came && x.so && x.opc < 0x80 && x.arrived && x.dst == m.dst
    && !(x.opc == 6 && s.waiters.any fun w => w.op == x.op && w.fibre == x.fibre))

/-- A request of a fibre's access performs at the home when its turn has come; `act` gives the state and the answer. -/
def State.serve (s : State) (id opc : Nat) (act : State → Op → Ply → MemOp → MItem → State × Answer) : State :=
  match s.arrivedMsg id opc with
  | none => s
  | some m =>
    if (s.op m.op).isNone then s.dropMsg id
    else if !s.soTurn m then s
    else match s.access m.op m.fibre with
      | none => s
      | some (o, p, mo, i) =>
        let (s, ans) := act s o p mo (i.asked m)
        s.respond m ans

/-- FABRIC_READ (R377): a load performs here; its copy enters the requester's caches, and an acquire takes effect. -/
def execFabricRead (msg : Nat) (s : State) : Host.Outcome State Fault Refusal :=
  .next (s.serve msg 1 fun s o p m i =>
    let (s, ans) := s.atHome p p.asid m i
    if m.cls != .load then (s, ans)
    else
      let s := match ans with | .granule g false => s.cacheFill p i g | _ => s
      let s := if m.sync then s.acquire p.core m.scope else s
      (s.setAccess o.id i.fibre .done, ans))

/-- FABRIC_WRITE (R377). -/
def execFabricWrite (msg : Nat) (s : State) : Host.Outcome State Fault Refusal :=
  .next (s.serve msg 2 fun s o p m i =>
    let (s, ans) := s.atHome p p.asid m i
    let s := match ans with | .none => s.cacheWrite p i.ia (some i.granule) | _ => s
    (s.setAccess o.id i.fibre .done, ans))

/-- An operation of the memory-side unit of another die. -/
def State.serveUnit (s : State) (o : Op) (p : Ply) (m : MemOp) (i : MItem) : State × Answer :=
  let (s, ans) := s.atHome p p.asid m i
  ((s.cacheWrite p i.ia none).setAccess o.id i.fibre .done, ans)

/-- FABRIC_ATOMIC (R377, R255). -/
def execFabricAtomic (msg : Nat) (s : State) : Host.Outcome State Fault Refusal :=
  .next (s.serve msg 3 State.serveUnit)

/-- FABRIC_ARITHMETIC (R377, R257). -/
def execFabricArithmetic (msg : Nat) (s : State) : Host.Outcome State Fault Refusal :=
  .next (s.serve msg 4 State.serveUnit)

/-- FABRIC_WAKE (R377, R261). -/
def execFabricWake (msg : Nat) (s : State) : Host.Outcome State Fault Refusal :=
  .next (s.serve msg 7 fun s o p m i =>
    let (s, ans) := s.atHome p p.asid m i
    (s.setAccess o.id i.fibre .done, ans))

/-- FABRIC_PROBE (R291, R377): the APER die walks its own tree and checks ownership. -/
def execFabricProbe (msg : Nat) (s : State) : Host.Outcome State Fault Refusal :=
  match s.arrivedMsg msg 5 with
  | none => .next s
  | some m =>
    .next (s.respond m (match s.homeWalk m.dst m.asid m.ia with
      | .error x => .fault x.cause x.sub
      | .ok (level, e) =>
        let a := attrOf level e true
        .attr a.kind a.perm a.rperm a.size))

/-- FABRIC_WAIT_ENTER (R259, R260, R377): the value is read once more, and the fibre enters the table of the home's
die if it still waits; the request stands there until the fibre is woken. -/
def execFabricWaitEnter (msg : Nat) (s : State) : Host.Outcome State Fault Refusal :=
  match s.arrivedMsg msg 6 with
  | none => .next s
  | some m =>
    if s.waiters.any (fun w => w.op == m.op && w.fibre == m.fibre) || !s.soTurn m then .next s
    else match s.access m.op m.fibre with
      | none => .next (if (s.op m.op).isNone then s.dropMsg msg else s)
      | some (o, p, mo, i) =>
        match s.resolve i.home p.asid i.ia .read true with
        | .error x => .next (s.respond m (.fault x.cause x.sub))
        | .ok a =>
          match judged (s.granuleFor p a i.ia) i.ia with
          | .valid x =>
            if !i.sleeps mo x then .next (s.respond m .none)
            else match s.enterTable o p i (a / 8 * 8) with
              | some s => .next s
              | none =>
                .next (((s.logEvent 4 [i.home, i.va]).setAccess o.id i.fibre (if mo.cls == .ncqw then .waiting else .last)).respond m .none)
          | _ => .next (s.respond m .none)

/-! ### Responses at their requester (R377) -/

/-- A response reaches the access that awaits it. -/
def State.receive (s : State) (id opc : Nat) (act : State → Op → Ply → MemOp → MItem → Answer → State) : State :=
  match s.arrivedMsg id opc with
  | none => s
  | some m =>
    let s := s.dropMsg id
    match s.op m.op with
    | none => s
    | some o =>
      match s.ply o.ply, o.body with
      | some p, .mem mo _ =>
        match mo.items.find? fun i => i.fibre == m.fibre with
        | some i => act s o p mo i m.answer
        | none => s
      | _, _ => s

/-- The answer to an access: a WAITV or NCQW sleeps at the home or returns, anything else is complete. -/
def State.settleAccess (s : State) (o : Op) (p : Ply) (m : MemOp) (i : MItem) (ans : Answer) : State :=
  if m.cls == .waitv || m.cls == .ncqw then s.waitRead o m i ans fun s => some (s.request o p i 6) else s.reply o m i ans

/-- FABRIC_READ_RESPONSE (R377). -/
def execFabricReadResponse (msg : Nat) (s : State) : Host.Outcome State Fault Refusal :=
  .next (s.receive msg 0x81 State.settleAccess)

/-- FABRIC_WRITE_ACK (R377). -/
def execFabricWriteAck (msg : Nat) (s : State) : Host.Outcome State Fault Refusal :=
  .next (s.receive msg 0x82 fun s o _ m i ans => s.reply o m i ans)

/-- FABRIC_ATOMIC_RESPONSE (R377). -/
def execFabricAtomicResponse (msg : Nat) (s : State) : Host.Outcome State Fault Refusal :=
  .next (s.receive msg 0x83 fun s o _ m i ans => s.reply o m i ans)

/-- FABRIC_ARITHMETIC_ACK (R377, R246). -/
def execFabricArithmeticAck (msg : Nat) (s : State) : Host.Outcome State Fault Refusal :=
  .next (s.receive msg 0x84 fun s o _ m i ans => s.reply o m i ans)

/-- The probe that a message belongs to. -/
def Probe.of (m : Msg) (q : Probe) : Bool := q.core == m.core && q.asid == m.asid && q.page == m.ia / 65536

/-- FABRIC_PROBE_RESPONSE (R291, R377): the entry is filled with the attributes of the stub. -/
def execFabricProbeResponse (msg : Nat) (s : State) : Host.Outcome State Fault Refusal :=
  match s.arrivedMsg msg 0x85 with
  | none => .next s
  | some m =>
    let s := { s.dropMsg msg with probes := s.probes.filter fun q => !(Probe.of m q) }
    match s.walk (coreAper m.core) m.asid m.ia with
    | .stub level e => .next (s.tlbFill m.core m.asid ⟨m.ia, attrOf level e true⟩)
    | _ => .next s

/-- FABRIC_WAIT_RESPONSE (R260, R261, R377): a woken fibre reads again; a WAKEV has its count. -/
def execFabricWaitResponse (msg : Nat) (s : State) : Host.Outcome State Fault Refusal :=
  .next (s.receive msg 0x86 fun s o p m i ans =>
    if m.cls == .waitv || m.cls == .ncqw then s.request o p i 1 else s.reply o m i ans)

/-- FABRIC_FAULT_RESPONSE (R377): the deferred fault of the access, the fault of a wait, or the outcome of a probe. -/
def execFabricFaultResponse (msg : Nat) (s : State) : Host.Outcome State Fault Refusal :=
  match s.arrivedMsg msg 0x8F with
  | none => .next s
  | some m =>
    if m.op = 0 then
      let failed := match m.answer with | .fault c sub => some (c, sub) | _ => none
      let upd (q : Probe) : Probe := if Probe.of m q then { q with failed } else q
      .next { s.dropMsg msg with probes := s.probes.map upd }
    else .next (s.receive msg 0x8F State.settleAccess)

end Sys2Proof.Machine
end

