-- ==== Sys2Proof/Machine/Network.lean ====
section
/-! DEFINITION.  The Ultra Ethernet engine: NPOST, NCQW, work requests and packets (14 R386 to R394). -/

namespace Sys2Proof.Machine

/-! ### Ingress (R263) -/

/-- One granule of an ingress write: the bytes given replace those from `k` upwards; a granule covered in part is read
and merged, and is poison when its check fails. -/
def State.ingressGranule (s : State) (ps : List Ply) (a ia k : Nat) (bytes : List Byte) : State :=
  State.unitWrote (ps := ps) (ia := ia) <|
  if k = 0 ∧ bytes.length = 8 then s.storeReg a ia ⟨BitVec.ofNat 64 (ofBytesLE bytes), .raw⟩
  else match s.deliver a ia with
    | .valid w =>
      let old := bytesLE 8 w.toNat
      s.storeReg a ia ⟨BitVec.ofNat 64 (ofBytesLE (old.take k ++ bytes ++ old.drop (k + bytes.length))), .raw⟩
    | _ => s.storeReg a ia ⟨0, .poison⟩

/-- Ingress of bytes at a virtual address, granule by granule, for the plies given (R247); `n` bounds the granules. -/
def State.ingress (s : State) (ps : List Ply) (dies : List Nat) (asid va : Nat) (bytes : List Byte) : Nat → State
  | 0 => s
  | n + 1 =>
    if bytes.isEmpty then s
    else
      let k := va % 8
      let s := match s.unitLocate dies asid (va / 8 * 8) .write with
        | .ok (a, ia) => s.ingressGranule ps a ia k (bytes.take (8 - k))
        | .error _ => s
      s.ingress ps dies asid (va + 8 - k) (bytes.drop (8 - k)) n

def State.ingressAll (s : State) (dies : List Nat) (asid va : Nat) (bytes : List Byte) (ps : List Ply := []) : State :=
  s.ingress ps dies asid va bytes (bytes.length / 8 + 2)

/-- Bytes that leave: none where a granule of theirs is unreadable, poison or fails its check. -/
def State.egress (s : State) (dies : List Nat) (asid va n : Nat) : Option (List Byte) :=
  (s.unitRead dies asid (va / 8 * 8) ((va % 8 + n + 7) / 8)).map fun ws => ((granuleBytes ws).drop (va % 8)).take n

/-! ### NPOST (R392, R393) -/

/-- The work requests copied to the engine. -/
def State.postAll (s : State) (p : Ply) (post : Nat) (fs : List Nat) (a : Nat) : List (List Byte) → State
  | [] => s
  | b :: r =>
    let q : NetReq := ⟨s.nextId, p.enc, p.asid, p.core / 1024, a, b, post, p.handle, fs, false, [], [], [], [], none, 0, [], []⟩
    State.postAll { s with nets := s.nets ++ [q], nextId := s.nextId + 1 } p post fs (a + 64) r

/-- Pieces of 64 bytes. -/
def chunks64 : Nat → List Byte → List (List Byte)
  | 0, _ => []
  | n + 1, b => b.take 64 :: chunks64 n (b.drop 64)

/-- R393: the state and the value of `st`. -/
def State.post (s : State) (p : Ply) (op : Nat) (fs : List Nat) (a n : Nat) : State × Nat :=
  if n < 1 ∨ 64 < n then (s, 1)
  else
    match (if a % 64 = 0 then s.readGranules (coreAper p.core) p.asid a (8 * n) else .error 0x18) with
    | .error _ => (s, 2)
    | .ok ws =>
      if 1024 - n < (s.nets.filter (·.enc == p.enc)).length then (s, 3)
      else (s.postAll p op fs a (chunks64 n (granuleBytes ws)), 0)

/-- NPOST (R392, R393). -/
def execNpost (h : Head) (d : Dst) (a : Src) (b : Src) (slot : BitVec 3) (s : State) : Host.Outcome State Fault Refusal :=
  runIssue s (.npost h d a b slot) (fun _ => []) fun x sb =>
    if x.active.isEmpty && sb.isEmpty then x.finish s x.ply [] []
    else
      match lowestFault (sb ++ x.checkUniform okCtl a ++ x.checkUniform okCtl b) with
      | some e => x.refuse s sb e
      | none =>
        match s.specOf x.ply with
        | some sp => s.discardSpec sp 2
        | none =>
          let (s, p) := x.launchOp s x.ply x.sh.slot false x.active ((dstTarget d 0).toList)
            (.npost (x.uniform a).toNat (x.uniform b).toNat d x.course.fibres)
          x.finish s p [] []

/-- The outcome of an NPOST (R393). -/
def State.serveNpost (s : State) (o : Op) (p : Ply) (va n : Nat) (d : Dst) (fs : List Nat) : State :=
  let (s, st) := s.post p o.id fs va n
  (s.putResult o d ⟨BitVec.ofNat 64 st, .i64⟩).dropOp o.id

/-- LAUNCH and NPOST. -/
def OpBody.isPost : OpBody → Bool
  | .launch .. | .npost .. => true
  | _ => false

/-- A LAUNCH or NPOST is settled when its release has performed, and what its fibres wrote can be read (R247), in the first turn
after the cycle of its issue (its time is the machine's own: DESIGN CHOICE, log 78). -/
def State.servePost (s : State) (o : Op) : State :=
  match s.ply o.ply with
  | none => s
  | some p =>
    let earlier := s.ops.any fun q => q.ply == o.ply && q.id < o.id && q.body.isPost
    if s.clock ≤ o.time || earlier || !s.forkReady o then s
    else match o.body with
      | .launch q va d => s.serveLaunch o p q va d
      | .npost va n d fs => s.serveNpost o p va n d fs
      | _ => s

/-- Every LAUNCH and NPOST that may be settled, in issue order. -/
def State.servePosts (s : State) : State := s.ops.foldl State.servePost s

/-! ### NCQW (R394) -/

def ncqwForm (d : Dst) (a b : Src) (scope t : Nat) : MemForm where
  op := ⟨.ncqw, d, .i64, 0, true, scope, []⟩
  addr := fun x _ => x.uniform a
  operands := fun x _ => x.checkUniform okCtl a ++ x.checkUniform okCtl b
  val := fun x _ => ⟨x.uniform b, .i64⟩
  deadline := fun x _ => if t = 0 then none else some (x.time + 2 ^ t)
  blocks := true
  opc := 1

/-- NCQW (R394): it acts once for the course, which blocks. -/
def execNcqw (h : Head) (d : Dst) (a : Src) (b : Src) (scope : BitVec 3) (t : BitVec 5) (s : State) :
    Host.Outcome State Fault Refusal :=
  runIssue s (.ncqw h d a b scope t) (fun _ => []) fun x sb =>
    let g := ncqwForm d a b scope.toNat t.toNat
    let f := x.active.headD 0
    if x.active.isEmpty && sb.isEmpty then x.finish s x.ply [] []
    else
      match lowestFault (sb ++ g.operands x f) with
      | some e => x.refuse s sb e
      | none =>
        match s.xlate x.ply.core x.ply.asid (g.addr x f).toNat .read with
        | .ok none => x.wait (s.probeFor x.ply (g.addr x f).toNat)
        | _ =>
          let s := s.probesSeen x.ply
          match g.access s x f with
          | .error e => x.refuse s sb e
          | .ok tr =>
            let s := s.tlbFill x.ply.core x.ply.asid tr
            let i := g.item x f tr
            let (s', p) := x.launchOp s x.ply none false x.active [] (.mem { g.op with items := [i] } x.len)
            let s' := match s'.op s.nextId with
              | some o => if i.home = coreAper p.core then s' else s'.request o p i g.opc
              | none => s'
            x.block s' p x.active []

/-- NCQW_TIMEOUT (R394): the deadline has passed; the counter is read once more. -/
def execNcqwTimeout (ply : Nat) (course : Nat) (s : State) : Host.Outcome State Fault Refusal :=
  let hit (o : Op) : Option (Op × MItem) :=
    if o.ply != ply || o.course != course then none
    else match o.body with
      | .mem m _ => match m.cls, m.items with
        | .ncqw, i :: _ => match i.state with
          | .asleep (some d) => if d ≤ s.clock then some (o, i) else none
          | _ => none
        | _, _ => none
      | _ => none
  match s.ops.findSome? hit, s.ply ply with
  | some (o, i), some p =>
    let s := { s with
      waiters := s.waiters.filter fun w => w.op != o.id
      msgs := s.msgs.filter fun m => m.op != o.id }
    let s := s.setAccess o.id i.fibre .last
    .next (if i.home = coreAper p.core then s else s.request o p i 1)
  | _, _ => .next s

/-! ### Work requests (R387) -/

def NetReq.op (r : NetReq) : Nat := field r.bytes 0 1
def NetReq.port (r : NetReq) : Nat := field r.bytes 1 1
def NetReq.flags (r : NetReq) : Nat := field r.bytes 2 2
def NetReq.len (r : NetReq) : Nat := field r.bytes 4 4
def NetReq.lva (r : NetReq) : Nat := field r.bytes 8 8
def NetReq.win (r : NetReq) : Nat := field r.bytes 36 2
def NetReq.cnt (r : NetReq) : Nat := field r.bytes 48 8

/-- Every field keeps its rule. -/
def NetReq.wellFormed (r : NetReq) : Bool :=
  let peer := field r.bytes 16 16
  let job := field r.bytes 32 4
  let rofs := field r.bytes 40 8
  let common := field r.bytes 38 2 == 0 && r.cnt % 8 == 0
  match r.op with
  | 0 | 1 =>
    common && r.port < 8 && r.flags < 2 && r.len % 8 == 0 && 8 ≤ r.len && r.len ≤ 2 ^ 24 && r.lva % 8 == 0
      && job < 2 ^ 24 && r.win < 64 && rofs % 8 == 0
  | 2 =>
    common && r.port == 0 && r.flags % 2 == 0 && r.flags < 8 && r.len % 65536 == 0 && r.lva % 65536 == 0 && peer == 0
      && job == 0 && r.win < 64 && rofs == 0
  | 3 => common && r.port < 8 && r.flags == 0 && r.len == 32 && peer == 0 && job == 0 && r.win == 0 && rofs == 0
  | _ => false

/-- The request starts only when every earlier one of the enclave on its port has ended (R387). -/
def NetReq.ord (r : NetReq) : Bool := r.op < 2 && r.flags % 2 == 1

def State.netReq (s : State) (id : Nat) : Option NetReq := s.nets.find? (·.id == id)

def State.putNet (s : State) (r : NetReq) : State :=
  { s with nets := updateWhere (fun (x : NetReq) => x.id == r.id) (fun _ => r) s.nets }

/-- ORD holds a request back. -/
def State.heldByOrd (s : State) (r : NetReq) : Bool :=
  r.ord && s.nets.any fun x => x.id < r.id && x.enc == r.enc && x.pkg == r.pkg && x.port == r.port

/-- R391: the requests of one enclave start in the order posted, except as ORD orders them. -/
def State.netMayStart (s : State) (r : NetReq) : Bool :=
  !r.started && r.status.isNone && !s.heldByOrd r
    && s.nets.all fun x => !(x.id < r.id && x.enc == r.enc && x.pkg == r.pkg) || x.started || s.heldByOrd x

/-- Dies whose trees the engine walks for an enclave or for the supervisor. -/
def State.netDies (s : State) (pkg enc : Nat) : List Nat :=
  match s.enclave enc with
  | some e => s.unitDies pkg e.part
  | none => [pkg * 8 + 6]

/-- Payload bytes of a packet of a port (R386). -/
def Pkg.mtuOf (p : Pkg) (port : Nat) : Nat := SMap.get 4096 p.mtu port

def State.netMtu (s : State) (r : NetReq) : Nat := (s.pkg r.pkg).mtuOf r.port

/-- Packets of a message, by the MTU with which it started, and the bytes of one of them. -/
def NetReq.packets (r : NetReq) : Nat := (r.len + r.mtu - 1) / r.mtu
def NetReq.piece (r : NetReq) (k : Nat) : Nat := Nat.min r.mtu (r.len - k * r.mtu)

/-- A request starts, with the MTU that its port then has. -/
def State.netBegin (s : State) (r : NetReq) : NetReq := { r with started := true, mtu := s.netMtu r }

/-- The ply that posted a request, for what the engine writes on its behalf (R247). -/
def State.netPlies (s : State) (r : NetReq) : List Ply := (s.ply r.ply).toList.map fun p => { p with asid := r.asid }

/-- The sender of a request's packets, and packet `k` with the bytes it carries; one of a READ asks for bytes (R388). -/
def NetReq.src (r : NetReq) : Nat := r.pkg * 8 + r.port

def NetReq.packet (r : NetReq) (k : Nat) (data : List Byte) : NetPacket where
  port := r.port
  src := r.src
  msg := r.id
  index := k
  total := r.packets
  job := field r.bytes 32 4
  win := r.win
  rofs := field r.bytes 40 8
  offset := k * r.mtu
  data := data
  len := if r.op = 1 then r.piece k else 0
  auth := true
  trimmed := false
  reply := none

def NetReq.peer (r : NetReq) : Nat := field r.bytes 16 16

/-- One of several statuses that hold at once; which one is written is open (log 38). -/
def State.oneStatus (s : State) (l : List Nat) : Option (State × Nat) :=
  match l with
  | [] => none
  | [n] => some (s, n)
  | n :: r => some ({ s with freeCtr := s.freeCtr + 1 }, (n :: r).getD ((Config.freeValue s.freeCtr).toNat % (r.length + 1)) n)

/-- A request that starts and cannot go on. -/
def State.netFail (s : State) (r : NetReq) (status : Nat) : State := s.putNet { r with started := true, status := some status }

/-- What keeps a WRITE or READ from starting (R391). -/
def State.netRefusals (s : State) (r : NetReq) (acc : Access) : List Nat :=
  (if (s.unitRange (s.netDies r.pkg r.enc) r.asid r.lva r.len acc).isSome then [2] else [])
    ++ if (SMap.get none (s.pkg r.pkg).tss (r.enc * 8 + r.port)).isNone then [7] else []

/-- The bytes of packet `k` of a WRITE, when its granules pass their checks. -/
def State.packetBytes (s : State) (r : NetReq) (k : Nat) : Option (List Byte) :=
  s.egress (s.netDies r.pkg r.enc) r.asid (r.lva + k * r.mtu) (r.piece k)

/-- The key under which a budget knows packet `k` of a request, or the answer to a peer's. -/
def netKey (id k : Nat) : Nat := 2 ^ 50 + id * 2 ^ 14 + k

/-- A packet is sent (R390), of a WRITE with its bytes: its timeout starts; beyond the network budget it is held (R386).  One whose
granules fail a check is not sent, and the request fails (R391). -/
def State.sendPacket (s : State) (r : NetReq) (k : Nat) : State × NetReq :=
  let r := { r with held := r.held.filter (· != k) }
  match if r.op = 0 then s.packetBytes r k else some [] with
  | none => (s.logEvent 9 [r.pkg, r.id], { r with status := some 4 })
  | some b => match s.spend r.pkg r.enc 4 r.port (netKey r.id k) (Config.packetHead + b.length) with
    | (s, true) => (s.emit (.packet r.peer (r.packet k b)), { r with sentAt := SMap.put r.sentAt k s.clock })
    | (s, false) => (s, { r with held := r.held ++ [k] })

def State.sendPackets (s : State) (r : NetReq) (l : List Nat) : State :=
  let x := l.foldl (fun (x : State × NetReq) k => x.1.sendPacket x.2 k) (s, r)
  x.1.putNet x.2

/-- UE_WRITE (R388, R391): the request starts, and its packets are sent but for those whose granules fail a check. -/
def execUeWrite (req : Nat) (s : State) : Host.Outcome State Fault Refusal :=
  match s.netReq req with
  | none => .next s
  | some r =>
    if r.op != 0 || !s.netMayStart r then .next s
    else if !r.wellFormed then .next (s.netFail r 1)
    else match s.oneStatus (s.netRefusals r .read) with
      | some (s, st) => .next (s.netFail r st)
      | none => .next (s.sendPackets (s.netBegin r) (List.range (s.netBegin r).packets))

/-- UE_READ (R388): the peer is asked for the bytes. -/
def execUeRead (req : Nat) (s : State) : Host.Outcome State Fault Refusal :=
  match s.netReq req with
  | none => .next s
  | some r =>
    if r.op != 1 || !s.netMayStart r then .next s
    else if !r.wellFormed then .next (s.netFail r 1)
    else match s.oneStatus (s.netRefusals r .write) with
      | some (s, st) => .next (s.netFail r st)
      | none => .next (s.sendPackets (s.netBegin r) (List.range (s.netBegin r).packets))

/-- R391: the page of a counter or of a request is no longer the enclave's. -/
def State.netGone (s : State) (r : NetReq) : Bool :=
  (r.enc != 0 && (s.enclave r.enc).isNone)
    || match s.unitLocate (s.netDies r.pkg r.enc) r.asid r.cnt .atomic with | .ok _ => false | .error _ => true

/-- The end of a work request (R391): STATUS, then the counter; nothing when the enclave's pages are gone. -/
def State.netEnd (s : State) (r : NetReq) (status : Nat) : State :=
  let s := { s with nets := s.nets.filter (·.id != r.id) }
  let dies := s.netDies r.pkg r.enc
  if r.enc != 0 && (s.enclave r.enc).isNone then s
  else if status = 6 ∧ s.netGone r then s
  else
    let ps := s.netPlies r
    let s := s.unitWrite dies r.asid (r.addr + 56) [BitVec.ofNat 64 status] ps
    if r.op = 2 ∨ 3 < r.op ∨ r.cnt % 8 ≠ 0 then s
    else s.unitAdd dies r.asid r.cnt (if status = 0 then 1 else 2 ^ 32) ps

/-- UE_WINSET (R388, R391): a window is bound or unbound, and the request is complete. -/
def execUeWinset (req : Nat) (s : State) : Host.Outcome State Fault Refusal :=
  match s.netReq req with
  | none => .next s
  | some r =>
    if r.op != 2 || !s.netMayStart r then .next s
    else if !r.wellFormed then .next (s.netFail r 1)
    else
      let p := s.pkg r.pkg
      let w : Option NetWindow := if r.len = 0 then none else some ⟨r.lva, r.len, bitOf r.flags 1, bitOf r.flags 2, r.cnt⟩
      .next ((s.netEnd r 0).putPkg { p with wins := SMap.set none p.wins (r.enc * 64 + r.win) w })

/-- UE_KEYSET (R388): the key is taken and its bytes are zeroed. -/
def execUeKeyset (req : Nat) (s : State) : Host.Outcome State Fault Refusal :=
  match s.netReq req with
  | none => .next s
  | some r =>
    if r.op != 3 || !s.netMayStart r then .next s
    else if !r.wellFormed then .next (s.netFail r 1)
    else
      let dies := s.netDies r.pkg r.enc
      if (s.unitRange dies r.asid r.lva 32 .read).isSome || (s.unitRange dies r.asid r.lva 32 .write).isSome then
        .next (s.netFail r 2)
      else match s.egress dies r.asid r.lva 32 with
        | none => .next (s.netFail r 4)
        | some key =>
          let p := s.pkg r.pkg
          let s := s.putPkg { p with tss := SMap.set none p.tss (r.enc * 8 + r.port) (some key) }
          .next ((s.ingressAll dies r.asid r.lva (zeros 32) (s.netPlies r)).netFail r 0)

/-- NET_REQUEST_END (R391). -/
def execNetRequestEnd (req : Nat) (s : State) : Host.Outcome State Fault Refusal :=
  match s.netReq req with
  | none => .next s
  | some r => match r.status with
    | some st => .next (s.netEnd r st)
    | none => .next (if 3 < r.op && s.netMayStart r then s.netEnd r 1 else s)

/-! ### The sender (R390) -/

/-- A packet that has left waits for its acknowledgement. -/
def NetReq.awaits (r : NetReq) (k : Nat) : Bool := k < r.packets && !r.acked.contains k && !r.held.contains k

/-- A packet is sent again; after 8 retransmissions of it the request fails. -/
def State.resend (s : State) (r : NetReq) (k : Nat) : State × NetReq :=
  if r.status.isSome || !r.awaits k then (s, r)
  else
    let n := SMap.get 0 r.retries k
    if 8 ≤ n then (s, { r with status := some 5 })
    else s.sendPacket { r with retries := SMap.put r.retries k (n + 1) } k

/-- A request on its way. -/
def State.sending (s : State) (id : Nat) : Option NetReq :=
  (s.netReq id).bind fun r => if r.started && r.status.isNone && r.op < 2 then some r else none

/-- The packets that an acknowledgement names: of a peer that is a port of this machine, those that it has placed. -/
def State.acksOf (s : State) (r : NetReq) (pkts : List Nat) : List Nat :=
  match Config.endpoint r.peer with
  | none => pkts
  | some (pkg, port) => pkts.filter fun k => s.outs.any fun o => match o with
    | .ack g n src msg placed => g == pkg && n == port && src == r.src && msg == r.id && placed.contains k
    | _ => false

/-- A NACK of a peer that is a port of this machine was sent by it. -/
def State.nackSent (s : State) (r : NetReq) (pkt : Nat) (error : Bool) : Bool :=
  match Config.endpoint r.peer with
  | none => true
  | some (pkg, port) => s.outs.contains (.nack pkg port r.src r.id pkt error)

/-- NET_ACK_RECEIVE (R388, R390). -/
def execNetAckReceive (req : Nat) (pkts : List Nat) (s : State) : Host.Outcome State Fault Refusal :=
  match s.sending req with
  | none => .next s
  | some r =>
    if r.op != 0 then .next s
    else
      let n := r.packets
      let now := s.acksOf r pkts
      let acked := (List.range n).filter fun k => r.acked.contains k || now.contains k
      let r := { r with acked }
      if acked.length = n then .next (s.putNet { r with status := some 0 })
      else
        let missing := (List.range n).filter fun k => !acked.contains k && 3 ≤ (acked.filter (k < ·)).length
        let x := missing.foldl (fun (x : State × NetReq) k => x.1.resend x.2 k) (s, r)
        .next (x.1.putNet x.2)

/-- NET_NACK_RECEIVE (R389, R390): an error of the peer is status 3; otherwise the packet was trimmed. -/
def execNetNackReceive (req : Nat) (pkt : Nat) (error : Bool) (s : State) : Host.Outcome State Fault Refusal :=
  match s.sending req with
  | none => .next s
  | some r =>
    if !s.nackSent r pkt error then .next s
    else if error then .next (s.putNet { r with status := some 3 })
    else
      let x := s.resend r pkt
      .next (x.1.putNet x.2)

/-- Cycles of the retransmission timeout of a packet (R390): 64 µs, doubled at each expiry. -/
def NetReq.timeout (r : NetReq) (k : Nat) : Nat := 64 * microCycles * 2 ^ SMap.get 0 r.expiries k

/-- NET_RETRANSMIT_TIMEOUT (R390). -/
def execNetRetransmitTimeout (req : Nat) (pkt : Nat) (s : State) : Host.Outcome State Fault Refusal :=
  match s.sending req with
  | none => .next s
  | some r =>
    if !r.awaits pkt || s.clock < SMap.get 0 r.sentAt pkt + r.timeout pkt then .next s
    else
      let x := s.resend { r with expiries := SMap.put r.expiries pkt (SMap.get 0 r.expiries pkt + 1) } pkt
      .next (x.1.putNet x.2)

/-! ### The receiver (R388, R389) -/

/-- A packet that names a port of this machine as its sender was sent by it to this port; trimming takes its bytes. -/
def State.wasSent (s : State) (pkg : Nat) (k : NetPacket) : Bool :=
  2 ^ 16 ≤ k.src || s.outs.any fun o => match o with
    | .packet peer x =>
      Config.endpoint peer == some (pkg, k.port)
        && { x with port := k.port, auth := k.auth, trimmed := k.trimmed, data := if k.trimmed then k.data else x.data } == k
    | _ => false

/-- Bytes that come from a port of this machine in answer to a READ were sent by it. -/
def State.answered (s : State) (r : NetReq) (k : NetPacket) : Bool :=
  match Config.endpoint r.peer with
  | none => true
  | some (pkg, port) => s.outs.contains (.bytes pkg port r.src r.id k.offset k.data)

/-- A byte range is added to a list of ranges that do not touch. -/
def addRange (l : List (Nat × Nat)) (a b : Nat) : List (Nat × Nat) :=
  let touch (x : Nat × Nat) : Bool := x.1 ≤ b && a ≤ x.2
  let near := l.filter touch
  (near.foldl (fun m x => Nat.min m x.1) a, near.foldl (fun m x => Nat.max m x.2) b) :: l.filter (!touch ·)

def covers (l : List (Nat × Nat)) (a b : Nat) : Bool := l.any fun x => x.1 ≤ a && b ≤ x.2

/-- The enclave that a packet reaches: by its job identifier, with a TSS key on the port that verifies the packet. -/
def State.netTarget (s : State) (pkg : Nat) (k : NetPacket) : Option Enclave :=
  (s.enclaves.find? fun e => e.job == some k.job).bind fun e =>
    if k.auth && (SMap.get none (s.pkg pkg).tss (e.enc * 8 + k.port)).isSome then some e else none

def State.netWindow (s : State) (pkg : Nat) (e : Enclave) (k : NetPacket) : Option NetWindow :=
  if k.win < 64 then SMap.get none (s.pkg pkg).wins (e.enc * 64 + k.win) else none

/-- Bytes of a packet of a message with the port's MTU stand in the message where its number says. -/
def State.nack (s : State) (pkg : Nat) (k : NetPacket) (error : Bool) : State :=
  s.emit (.nack pkg k.port k.src k.msg k.index error)

/-- The message that a packet belongs to, as received so far. -/
def State.rxOf (s : State) (pkg : Nat) (e : Enclave) (k : NetPacket) : State × NetRx :=
  match s.rxs.find? fun r => r.pkg == pkg && r.enc == e.enc && r.src == k.src && r.msg == k.msg && r.port == k.port with
  | some r => (s, r)
  | none => ({ s with nextId := s.nextId + 1 }, ⟨s.nextId, pkg, e.enc, k.src, k.msg, k.port, k.total, k.win, [], [], 0⟩)

/-- A packet of a WRITE has been placed (R389): it is counted once, and with the last one the window's counter grows. -/
def State.placed (s : State) (pkg : Nat) (dies : List Nat) (e : Enclave) (w : NetWindow) (k : NetPacket) : State :=
  let (s, r) := s.rxOf pkg e k
  let again := r.placed.contains k.index
  let r := { r with
    placed := if again then r.placed else r.placed ++ [k.index]
    unacked := if r.unacked.contains k.index then r.unacked else r.unacked ++ [k.index], last := s.clock }
  let s := { s with rxs := s.rxs.filter (·.id != r.id) ++ [r] }
  if !again && r.placed.length = r.total then s.unitAdd dies e.asid w.counter 1 else s

/-- Bytes of a READ of this engine arrive (R388): they are placed, and when every byte is, the request is done. -/
def State.readArrives (s : State) (r : NetReq) (k : NetPacket) : State :=
  let dies := s.netDies r.pkg r.enc
  if r.op != 1 || r.len < k.offset + k.data.length || !s.answered r k then s
  else if (s.unitRange dies r.asid (r.lva + k.offset) k.data.length .write).isSome then
    s.putNet { r with status := some 2 }
  else
    let s := s.ingressAll dies r.asid (r.lva + k.offset) k.data (s.netPlies r)
    let got := addRange r.got k.offset (k.offset + k.data.length)
    let acked := (List.range r.packets).filter fun i => covers got (i * r.mtu) (i * r.mtu + r.piece i)
    s.putNet { r with got, acked, status := if covers got 0 r.len then some 0 else none }

/-- NET_PACKET_RECEIVE (R388, R389). -/
def execNetPacketReceive (pkg : Nat) (pkt : NetPacket) (s : State) : Host.Outcome State Fault Refusal :=
  match s.netTarget pkg pkt with
  | none => .next (s.logEvent 8 [pkg, pkt.port, pkt.job])
  | some e =>
    if pkt.trimmed then .next (if s.wasSent pkg pkt then s.nack pkg pkt false else s)
    else
      match pkt.reply with
      | some id => match s.sending id with
        | some r => .next (if r.pkg = pkg ∧ r.enc = e.enc then s.readArrives r pkt else s)
        | none => .next s
      | none =>
        if !s.wasSent pkg pkt then .next s
        else match s.netWindow pkg e pkt with
        | none => .next (s.nack pkg pkt true)
        | some w =>
          let dies := s.unitDies pkg e.part
          let at_ := pkt.rofs + pkt.offset
          if !w.write || w.len < at_ + pkt.data.length || pkt.total ≤ pkt.index
              || (s.unitRange dies e.asid (w.base + at_) pkt.data.length .write).isSome then
            .next (s.nack pkg pkt true)
          else .next ((s.ingressAll dies e.asid (w.base + at_) pkt.data).placed pkg dies e w pkt)

/-- The answer to a READ, in packets of the port's MTU, each with its byte offset; `n` bounds them. -/
def State.sendAnswer (s : State) (pkg : Nat) (k : NetPacket) (offset : Nat) (b : List Byte) : Nat → State
  | 0 => s
  | n + 1 =>
    let m := (s.pkg pkg).mtuOf k.port
    if b.isEmpty then s
    else (s.emit (.bytes pkg k.port k.src k.msg offset (b.take m))).sendAnswer pkg k (offset + m) (b.drop m) n

/-- R388: a peer's READ is served from a window of the enclave that it reaches; beyond the network budget its answer is held, and
its number with it (R386). -/
def State.serveRead (s : State) (x : NetServe) : State :=
  let k := x.pkt
  match s.netTarget x.pkg k with
  | none => s.logEvent 8 [x.pkg, k.port, k.job]
  | some e =>
    let at_ := k.rofs + k.offset
    match s.netWindow x.pkg e k with
    | none => s.nack x.pkg k true
    | some w =>
      if !w.read || w.len < at_ + k.len then s.nack x.pkg k true
      else match s.egress (s.unitDies x.pkg e.part) e.asid (w.base + at_) k.len with
        | none => (s.logEvent 9 [x.pkg, k.msg]).nack x.pkg k true
        | some b =>
          let m := (s.pkg x.pkg).mtuOf k.port
          let n := (k.len + m - 1) / m
          match s.spend x.pkg e.enc 4 k.port (netKey x.id 0) (n * Config.packetHead + k.len) with
          | (s, true) => s.sendAnswer x.pkg k k.offset b n
          | (s, false) => { s with netServes := s.netServes ++ [x] }

/-- NET_READ_REQUEST_RECEIVE (R388, R386); one whose answer is held is not held twice. -/
def execNetReadRequestReceive (pkg : Nat) (pkt : NetPacket) (s : State) : Host.Outcome State Fault Refusal :=
  if (s.netTarget pkg pkt).isSome && !s.wasSent pkg pkt then .next s
  else if s.netServes.any fun x => x.pkg == pkg && x.pkt == pkt then .next s
  else .next ({ s with nextId := s.nextId + 1 }.serveRead ⟨s.nextId, pkg, pkt⟩)

/-- What the network budgets hold is tried again, in the order posted and received (R386). -/
def State.sendNets (s : State) : State :=
  let s := s.nets.foldl (init := s) fun s r => if r.status.isSome || r.held.isEmpty then s else s.sendPackets r r.held
  s.netServes.foldl (fun s x => s.serveRead x) { s with netServes := [] }

/-- NET_SACK_TIMER (R389): after 8 packets, or 2 µs after the last one that is not acknowledged. -/
def execNetSackTimer (pkg : Nat) (rx : Nat) (s : State) : Host.Outcome State Fault Refusal :=
  match s.rxs.find? (·.id == rx) with
  | none => .next s
  | some r =>
    if r.pkg != pkg || r.unacked.isEmpty || (r.unacked.length < 8 && s.clock < r.last + 2 * microCycles) then .next s
    else
      let upd (x : NetRx) : NetRx := if x.id = rx then { x with unacked := [] } else x
      .next ({ s with rxs := s.rxs.map upd }.emit (.ack pkg r.port r.src r.msg r.placed))

end Sys2Proof.Machine
end

