-- ==== Sys2Proof/Machine/Partitions.lean ====
section
/-! DEFINITION.  Partitions, admin and notify requests, budgets, ageing, firmware, reset and the PCI Express port
(15 R395 to R407; 08 R263; 10 R285; 11 R327; 12 R329; 13 R362; 14 R385, R386). -/

namespace Sys2Proof.Machine

/-! ### Budgets (R401 to R404) -/

/-- The minima of a resource, but for those of one holder. -/
def State.minima (s : State) (pkg resource unit holder : Nat) : Nat :=
  (s.budgets.filter fun b => b.pkg == pkg && b.budget.resource == resource && b.budget.unit == unit
    && b.budget.holder != holder).foldl (fun a b => a + b.budget.minimum) 0

/-- A budget that may be set (R401). -/
def State.budgetOk (s : State) (pkg : Nat) (b : Budget) : Bool :=
  b.resource < 5 && b.cls < 8
    && s.minima pkg b.resource b.unit b.holder + b.minimum ≤ s.capacity pkg b.resource b.unit

def State.putBudget (s : State) (pkg : Nat) (b : Budget) : State :=
  let new : BudgetRec := match s.budgets.find? fun x => x.is pkg b.holder b.resource b.unit with
    | some x => { x with budget := b, short := false }
    | none => ⟨pkg, b, 0, [], 0, false⟩
  { s with budgets := s.budgets.filter (fun x => !x.is pkg b.holder b.resource b.unit) ++ [new] }

/-- Budgets set one after another; none when one may not be set. -/
def State.putBudgets (s : State) (pkg : Nat) : List Budget → Option State
  | [] => some s
  | b :: r => if s.budgetOk pkg b then (s.putBudget pkg b).putBudgets pkg r else none

/-- BUDGET_SET (R398, R401). -/
def execBudgetSet (pkg : Nat) (budget : Budget) (s : State) : Host.Outcome State Fault Refusal :=
  .next (match s.putBudgets pkg [budget] with
    | some s => s.grant pkg
    | none => s.refuse pkg)

/-- The request that a budget holds under a key is still there: a packet or the answer to one, an activity's, an operation or a
message. -/
def State.stillHeld (s : State) (key : Nat) : Bool :=
  let n := (key - 2 ^ 50) / 2 ^ 14
  if 2 ^ 50 ≤ key then (s.netReq n).any (·.status.isNone) || s.netServes.any (·.id == n)
  else 2 ^ 40 ≤ key || (s.op key).isSome || (s.msg key).isSome

/-- Bytes of the requests of a budget that are still held. -/
def State.stillWaiting (s : State) (l : SMap Nat) : SMap Nat := l.filter fun x => s.stillHeld x.1

/-- Bytes of the accesses that a budget of a stack holds at their home. -/
def State.heldLines (s : State) (b : BudgetRec) : Nat :=
  let owed (o : Op) (f : Nat) : Bool := match s.ply o.ply, o.pending f with
    | some p, some (m, i) =>
      s.mayPerform o f && match s.resolve i.home p.asid i.ia m.cls.access (i.home != coreAper p.core) with
        | .ok a => b.is (a / 2 ^ 41) (s.holderOf p) 0 (stackUnit a) && !s.lineWithin p a
        | .error _ => false
    | _, _ => false
  64 * (s.ops.flatMap fun o => o.left.filter (owed o)).length

/-- Cycles of a budget period (R401). -/
def periodCycles : Nat := 20 * microCycles

/-- BUDGET_PERIOD (R402): when 20 µs have passed, a new period begins; what is held is held over its start. -/
def execBudgetPeriod (pkg : Nat) (s : State) : Host.Outcome State Fault Refusal :=
  let upd (b : BudgetRec) : BudgetRec :=
    if b.pkg = pkg then
      let waiting := s.stillWaiting b.waiting
      { b with used := 0, waiting, heldBytes := b.heldBytes + waiting.foldl (fun a x => a + x.2) 0 + s.heldLines b }
    else b
  let p := s.pkg pkg
  let past := s.clock - p.periodStart
  .next (if past < periodCycles then s
    else { s with budgets := s.budgets.map upd }.putPkg { p with periodStart := p.periodStart + past / periodCycles * periodCycles })

/-- The tension report of an enclave (R404). -/
def State.report (s : State) (e : Enclave) : List Word :=
  let mine := s.budgets.filter (·.budget.holder == e.enc)
  let short := maskOf ((mine.filter (·.short)).map (·.budget.resource)).eraseDups
  let held (k : Nat) : Nat := (mine.filter (·.budget.resource == k)).foldl (fun a b => a + b.heldBytes) 0
  [BitVec.ofNat 64 (e.trepSeq + 1), BitVec.ofNat 64 short]
    ++ ((List.range 5).map fun k => BitVec.ofNat 64 (held k)) ++ [0]

/-- TENSION_REPORT (R404, R316). -/
def execTensionReport (enc : Nat) (s : State) : Host.Outcome State Fault Refusal :=
  match s.enclave enc with
  | none => .next s
  | some e =>
    if e.trep = 0 then .next s
    else
      let s' := s.unitWrite (e.dies s) e.asid e.trep.toNat (s.report e)
      .next (s'.putEnclave { e with trepSeq := e.trepSeq + 1 })

/-- R403: one class of a resource gives up `short` bytes of its minima, in proportion, or all it has. -/
def shrinkClass (l : List BudgetRec) (take : BudgetRec → Bool) (short : Nat) : List BudgetRec :=
  let sum := (l.filter take).foldl (fun a b => a + b.budget.minimum) 0
  l.map fun b =>
    if take b && 0 < b.budget.minimum then
      let left := if sum ≤ short then 0 else b.budget.minimum * (sum - short) / sum
      { b with budget := { b.budget with minimum := left }, short := true }
    else b

/-- R403: the classes give up what exceeds the capacity, the lowest first. -/
def shrinkFrom (l : List BudgetRec) (mine : BudgetRec → Bool) (cap : Nat) : Nat → Nat → List BudgetRec
  | 0, _ => l
  | n + 1, cls =>
    let total := (l.filter mine).foldl (fun a b => a + b.budget.minimum) 0
    if total ≤ cap then l
    else shrinkFrom (shrinkClass l (fun b => mine b && b.budget.cls == cls) (total - cap)) mine cap n (cls + 1)

/-- R403, for every resource of a package. -/
def State.rebudget (s : State) (pkg : Nat) : State :=
  let keys := ((s.budgets.filter (·.pkg == pkg)).map fun b => (b.budget.resource, b.budget.unit)).eraseDups
  let mine (k : Nat × Nat) (b : BudgetRec) : Bool :=
    b.pkg == pkg && b.budget.resource == k.1 && b.budget.unit == k.2
  keys.foldl (init := s) fun s k => { s with budgets := shrinkFrom s.budgets (mine k) (s.capacity pkg k.1 k.2) 8 0 }

/-- A unit is retired (R400, R403). -/
def State.retire (s : State) (pkg kind aper unit : Nat) : State :=
  let old := s.budgets
  let new : Retired := ⟨pkg, kind, aper, unit, s.clock⟩
  let s := State.rebudget { s with retired := s.retired ++ [new] } pkg
  let s := if s.budgets = old then s else s.emit (.event pkg 2 [])
  s.tableChange pkg 1 [kind, aper, unit]

/-- RETIRED_UNIT (R400, R403). -/
def execRetiredUnit (pkg : Nat) (kind : Nat) (aper : Nat) (unit : Nat) (s : State) : Host.Outcome State Fault Refusal :=
  .next (if 4 ≤ kind || s.retired.any fun r => r.pkg == pkg && r.kind == kind && r.aper == aper && r.unit == unit then s
    else s.retire pkg kind aper unit)

/-! ### Partitions (R385, R396, R397) -/

/-- A die outside every partition (R396). -/
def State.dieIdle (s : State) (pkg die : Nat) : Bool :=
  die < 6 && !s.dieRetired pkg die && !(s.partitions.any fun x => x.id / 8 == pkg && x.dies.contains die)

def distinct (l : List Nat) : Bool := l.eraseDups.length == l.length

/-- The links of dies are opened (R385, R397): `all` are the partition's dies, `new` those that join it. -/
def Pkg.openDies (p : Pkg) (all : List Nat) (q : PartReq) : Pkg :=
  let die (m : SMap Nat) (d : Nat) : SMap Nat := SMap.set 0 m d (maskOf (all.filter (· != d) ++ [6]))
  let hub := sortBy (fun x : Nat => x) ((membersOf 7 (SMap.get 0 p.fwDie 6)) ++ q.dies).eraseDups
  { p with
    fwDie := SMap.set 0 (all.foldl die p.fwDie) 6 (maskOf hub)
    fwAsid := q.dies.foldl (fun m d => SMap.set [] m d q.asids)
      (SMap.set [] p.fwAsid 6 ((SMap.get [] p.fwAsid 6 ++ q.asids).eraseDups))
    fwPkg := q.dies.foldl (fun m d => SMap.set [] m d q.pkgs) p.fwPkg }

/-- The links of dies that leave are closed. -/
def Pkg.closeDies (p : Pkg) (gone : List Nat) : Pkg :=
  { p with
    fwDie := (List.range 7).foldl (fun m d => SMap.set 0 m d
      (if gone.contains d then 0 else maskOf ((membersOf 7 (SMap.get 0 m d)).filter (!gone.contains ·)))) p.fwDie
    fwAsid := gone.foldl (fun m d => SMap.set [] m d []) p.fwAsid
    fwPkg := gone.foldl (fun m d => SMap.set [] m d []) p.fwPkg }

def State.putPartition (s : State) (x : Partition) : State :=
  { s with partitions := if s.partitions.any (·.id == x.id) then updateWhere (·.id == x.id) (fun _ => x) s.partitions
                         else insertBy (·.id) x s.partitions }

/-- The dies of a request join a partition. -/
def State.joinDies (s : State) (pkg : Nat) (x : Partition) (q : PartReq) : State :=
  if q.dies.isEmpty || !distinct q.dies || !(q.dies.all (s.dieIdle pkg)) then s.refuse pkg
  else match s.putBudgets pkg q.budgets with
    | none => s.refuse pkg
    | some s =>
      let x := { x with
        dies := sortBy id (x.dies ++ q.dies), plyPool := x.plyPool ++ q.plyBuffers
        skeinPool := x.skeinPool ++ q.skeinBuffers }
      let s := (s.putPartition x).putPkg ((s.pkg pkg).openDies x.dies q)
      (s.tableChange pkg 3 q.dies).grant pkg

/-- PARTITION_CREATE (R397, R371). -/
def execPartitionCreate (pkg : Nat) (part : Nat) (req : PartReq) (s : State) : Host.Outcome State Fault Refusal :=
  .next (if 6 ≤ part || (s.partition pkg part).isSome then s.refuse pkg
    else s.joinDies pkg ⟨pkg * 8 + part, [], 0, 0, 10000, [], [], [], []⟩ req)

/-- PARTITION_GROW (R397); it waits while a shrink of the partition is under way. -/
def execPartitionGrow (pkg : Nat) (part : Nat) (req : PartReq) (s : State) : Host.Outcome State Fault Refusal :=
  .next (match s.partition pkg part with
    | none => s.refuse pkg
    | some x => if !x.closing.isEmpty then s else s.joinDies pkg x req)

/-- The enclave frames on dies (R296): owned ones and the frames of version tables. -/
def State.enclaveFrames (s : State) (pkg : Nat) (dies : List Nat) : List Nat :=
  let on (k : Nat) : Bool := dies.contains (aperDie (k / 2 ^ 22)) && aperPkg (k / 2 ^ 22) == pkg
  (s.owners.filter fun o => on o.1 && o.2.state == 1 && o.2.enc != 0).map (·.1)
    ++ (s.enclaves.flatMap (·.vframes)).filter on

/-- Frames of dies that an operation may take. -/
def State.freeFrames (s : State) (pkg : Nat) (dies : List Nat) : Nat :=
  let used := (s.owners.filter fun o => dies.contains (aperDie (o.1 / 2 ^ 22)) && aperPkg (o.1 / 2 ^ 22) == pkg
    && o.2.state != 0 && o.1 % 2 ^ 20 < 0xE0000).length
  dies.length * 4 * 0xE0000 - used

/-- The first free frame of a die at a place or after it, within `n` frames. -/
def State.freeFrom (s : State) (aper : Nat) : Nat → Nat → Option (Nat × Nat)
  | 0, _ => none
  | n + 1, f =>
    let f := if 0xE0000 ≤ f % 2 ^ 20 then (f / 2 ^ 20 + 1) % 4 * 2 ^ 20 else f % 2 ^ 22
    if (s.owner aper f).state = 0 then some (aper, f) else s.freeFrom aper n (f + 1)

/-- A frame of the remaining dies, which the rules leave to the monitor (log 37). -/
def State.pickFrame (s : State) (pkg : Nat) (dies : List Nat) : Option (Nat × Nat) :=
  let k := (Config.freeValue s.freeCtr).toNat
  let at_ := k % (dies.length + 1)
  (dies.drop at_ ++ dies.take at_).findSome? fun d => s.freeFrom (pkg * 8 + d) (s.owners.length + 1) (k / 8 % 2 ^ 22)

/-- The bytes of a frame, charged to the sealing activity (R401). -/
def sealCharge (aper frame : Nat) : Charge := ⟨aperPkg aper, activity 3, 0, stackUnit (flat aper (frame * 65536)), 65536⟩

/-- R397, R323: an enclave's frame is sealed, and opened on another die: its granules are judged as ESEAL judges them, a version
of the enclave is used, the new frame's generation grows, and the old frame is zeroed and free.  A frame of a version table is the
monitor's own.  One whose version has no room in the table, or whose bytes the budget holds, stays for now. -/
def State.rehouse (s : State) (pkg : Nat) (dies : List Nat) (key : Nat) : State :=
  let x := (key / 2 ^ 22, key % 2 ^ 22)
  let o := s.owner x.1 x.2
  match s.pickFrame pkg dies, if o.state = 1 then s.enclave o.enc else none with
  | none, _ => s
  | some (a, f), none =>
    let s := ({ s with freeCtr := s.freeCtr + 1 }.freeFrame x.1 x.2).setOwner a f { o with gen := (s.owner a f).gen + 1 }
    { s with enclaves := s.enclaves.map fun (e : Enclave) =>
        { e with vframes := e.vframes.map fun k => if k = key then frameKey a f else k } }
  | some (a, f), some e =>
    if SMap.get 0 e.versions o.iapg = 0 ∧ 4096 * e.vframes.length ≤ e.versions.length then s
    else match s.spendAll (2 ^ 43 + key) [sealCharge x.1 x.2, sealCharge a f] with
      | (s, false) => s
      | (s, true) =>
        let (plain, pmap) := s.pagePlain x o.iapg
        let s := ({ s with freeCtr := s.freeCtr + 1 }.waitersFollow x.1 x.2 a f).freeFrame x.1 x.2
        let s := s.openPage (a, f) (o.kind + 4 * o.ceil.toNat) e.enc o.iapg plain pmap
        s.putEnclave { e with seals := e.seals + 1 }

/-- R397: the launches under way keep extents, carves and reservations that the partition can hold without some dies. -/
def State.reservationsFit (s : State) (x : Partition) (rest : List Nat) : Bool :=
  let t := s.putPartition { x with dies := rest }
  s.launches.all fun l => l.part != x.id % 8 || l.total == 0 || !t.exceeds l

/-- A ply stands on one of the dies of a package. -/
def Ply.onDies (p : Ply) (pkg : Nat) (dies : List Nat) : Bool :=
  p.core / 1024 == pkg && p.core % 1024 < 864 && dies.contains (p.core % 1024 / 144) && p.residence == .resident

/-- R385: nothing is outstanding on the links of the dies. -/
def State.drained (s : State) (pkg : Nat) (dies : List Nat) : Bool :=
  let on (a : Nat) : Bool := aperPkg a == pkg && dies.contains (aperDie a)
  !(s.msgs.any fun m => on m.src || on m.dst) && !(s.flits.any fun f => on f.src || on f.dst)

/-- PARTITION_SHRINK (R397): admission to the dies stops and their plies are asked to be saved; when they are, the
frames are moved; when nothing is outstanding on the links, these are closed.  Each execution does what can be done. -/
def execPartitionShrink (pkg : Nat) (part : Nat) (dies : List Nat) (s : State) : Host.Outcome State Fault Refusal :=
  match s.partition pkg part with
  | none => .next (s.refuse pkg)
  | some x =>
    let rest := x.dies.filter (!dies.contains ·)
    if x.closing.isEmpty then
      if dies.isEmpty || !distinct dies || !dies.all x.dies.contains || rest.isEmpty
          || s.freeFrames pkg rest < (s.enclaveFrames pkg dies).length || !s.reservationsFit x rest then .next (s.refuse pkg)
      else
        let ask (p : Ply) : Ply :=
          if p.onDies pkg dies && p.saveAsked.isNone then { p with saveAsked := some (s.clock, 1) } else p
        .next ({ s with plies := s.plies.map ask }.putPartition { x with closing := dies })
    else if x.closing != dies then .next s
    else
      let busy := s.plies.any (·.onDies pkg dies)
        || s.skeins.any fun k => k.core / 1024 == pkg && k.core % 1024 < 864 && dies.contains (k.core % 1024 / 144)
          && k.residence == Residence.resident
      if busy then .next s
      else
        let frames := s.enclaveFrames pkg dies
        let s := frames.foldl (fun s k => s.leaveFrame (k / 2 ^ 22) (k % 2 ^ 22)) s      -- R281, R323
        if frames.any fun k => s.leased (k / 2 ^ 22) (k % 2 ^ 22) then .next s
        else
        let s := frames.foldl (fun s k => s.rehouse pkg rest k) s
        if !s.drained pkg dies || !(s.enclaveFrames pkg dies).isEmpty then .next s
        else
          let s := (s.putPartition { x with dies := rest, closing := [] }).putPkg ((s.pkg pkg).closeDies dies)
          .next ((s.tableChange pkg 3 dies).grant pkg)

/-- Every frame of a die is zeroed, and free but for the monitor's. -/
def State.zeroDie (s : State) (aper : Nat) : State :=
  let on (a : Nat) : Bool := a / 2 ^ 38 == aper
  let free (o : Nat × Owner) : Nat × Owner :=
    if o.1 / 2 ^ 22 == aper && o.2.state != 3 then (o.1, { Owner.free with gen := o.2.gen }) else o
  { s with
    mem := s.mem.filter fun c => !on c.1
    codes := s.codes.filter fun c => !on (c.1 * 8)
    tagFail := s.tagFail.filter fun l => !on (l * 64)
    owners := (s.owners.map free).filter fun o => o.2 != Owner.free }

/-- PARTITION_DESTROY (R397): refused while the partition holds a live enclave; it waits for a shrink under way, and until nothing
is outstanding on the links (R385). -/
def execPartitionDestroy (pkg : Nat) (part : Nat) (s : State) : Host.Outcome State Fault Refusal :=
  .next (match s.partition pkg part with
    | none => s.refuse pkg
    | some x =>
      if s.enclaves.any (·.part == part) then s.refuse pkg
      else if !x.closing.isEmpty || !s.drained pkg x.dies then s
      else
        let s := x.dies.foldl (fun s d => s.zeroDie (pkg * 8 + d)) s
        let s := { s with partitions := s.partitions.filter (·.id != x.id) }
        let s := s.putPkg ((s.pkg pkg).closeDies x.dies)
        (s.tableChange pkg 3 x.dies).grant pkg)

/-! ### The capability table (R400) -/

/-- Records of a package's capability table: a type and its numbers, in the order of the rule; the table changes with what it
reports. -/
def State.capabilities (s : State) (pkg : Nat) : List (Nat × List Nat) :=
  let p := s.pkg pkg
  let lost (kind : Nat) (mine : Retired → Bool) : Nat := s.lostUnits pkg kind mine
  let dies := List.range 6
  let state (d : Nat) : Nat := if s.dieRetired pkg d then 2 else if s.dieIdle pkg d then 0 else 1
  let part (d : Nat) : Nat := match s.partitions.find? fun x => x.id / 8 == pkg && x.dies.contains d with
    | some x => x.id % 8
    | none => 0xFF
  let channels (d k : Nat) : Nat := lost 0 fun r => r.aper % 8 == d && r.unit / 32 == k
  let gone (h : Nat) : Nat := (p.failed.filter (· / 12 == h)).length
  let lanes := lost 2 fun _ => true
  [(1, [p.capGen + (s.registerErrors pkg).length])]
    ++ (dies.map fun d => (2, [d, part d, state d]))
    ++ (dies.flatMap fun d => (List.range 4).map fun k => (3, [d, k, 0xE0000 * 65536 * (32 - channels d k) / 32, channels d k]))
    ++ ((List.range 72).map fun h => (4, [h, 12 - gone h, b2n (p.spares.contains h), gone h]))
    ++ [(5, [96, 4]), (6, [2048, 2 + (s.enclaves.filter fun e => (s.packagesOf e.part).contains pkg).length]), (7, [32]), (8, [15 + 6, 72 - lanes, lanes])]
    ++ [(9, (List.range 5).map Config.capacity)]
    ++ ((s.retired.filter (·.pkg == pkg)).map fun r => (10, [r.kind, r.aper, if r.kind < 4 then r.unit else r.unit / 12, r.time]))
    ++ (dies.map fun d => (11, [d, Config.promotionBlock (pkg * 8 + d)]))
    ++ ((s.registerErrors pkg).map fun d => (12, d)) ++ [(0, [])]

/-- The bytes at offset 0 of BAR 2: each record has its type, its length with the header, and its numbers: the generation in
4 bytes, the others in 8 bytes each (log 84). -/
def State.capabilityTable (s : State) (pkg : Nat) : List Byte :=
  (s.capabilities pkg).flatMap fun r =>
    let n := if r.1 = 1 then 4 else 8
    bytesLE 2 r.1 ++ bytesLE 2 (4 + n * r.2.length) ++ r.2.flatMap (bytesLE n)

/-! ### Other admin requests (R398) -/

/-- TRAP_RING_REGISTER (R362, R398). -/
def execTrapRingRegister (pkg : Nat) (part : Nat) (va : Nat) (log2 : Nat) (s : State) : Host.Outcome State Fault Refusal :=
  .next (match s.partition pkg part with
    | none => s.refuse pkg
    | some x =>
      if log2 < 4 || 12 < log2 || va % 64 ≠ 0 then s.refuse pkg
      else (s.putPartition { x with ring := va, ringLog := log2 }).grant pkg)

/-- LEVEL_CEILING_SET (R329, R398). -/
def execLevelCeilingSet (enc : Nat) (level : Nat) (s : State) : Host.Outcome State Fault Refusal :=
  .next (match s.enclave enc with
    | none => s
    | some e => if 32 ≤ level then s.refuse e.pkg else (s.putEnclave { e with ceiling := level }).grant e.pkg)

/-- PORT_MTU_SET (R386). -/
def execPortMtuSet (pkg : Nat) (port : Nat) (mtu : Nat) (s : State) : Host.Outcome State Fault Refusal :=
  let p := s.pkg pkg
  .next (if port < 8 && [1024, 2048, 4096, 8192].contains mtu then
      (s.putPkg { p with mtu := SMap.set 4096 p.mtu port mtu }).grant pkg
    else s.refuse pkg)

/-- JOB_ID_SET (R386, R387): a job identifier has 24 bits. -/
def execJobIdSet (pkg : Nat) (enc : Nat) (job : Nat) (s : State) : Host.Outcome State Fault Refusal :=
  .next (match s.enclave enc with
    | none => s.refuse pkg
    | some e => if 2 ^ 24 ≤ job then s.refuse pkg else (s.putEnclave { e with job := some job }).grant pkg)

/-! ### Icsor functions (R398, R399) -/

/-- The features offered: VERSION_1, EVENT_IDX and INDIRECT_DESC, at their VIRTIO bits (log 40). -/
def offered : BitVec 64 := 1 <<< 32 ||| 1 <<< 29 ||| 1 <<< 28

/-- A package has two host links with a physical function and up to 63 virtual functions each (R1, R398): function `fn` is
number fn mod 64, 0 the physical one, of link fn / 64. -/
def hostFunctions : Nat := 128

/-- FEATURES_OK (R398). -/
def execFeaturesOk (pkg : Nat) (fn : Nat) (feats : BitVec 64) (s : State) : Host.Outcome State Fault Refusal :=
  let p := s.pkg pkg
  .next (if hostFunctions ≤ fn then s
    else if feats &&& ~~~ offered = 0 then (s.putPkg { p with features := SMap.set 0 p.features fn feats }).grant pkg
    else s.refuse pkg)

/-- R399: waiters that a virtual function wakes, or why its request fails. -/
def State.notify (s : State) (pkg fn : Nat) (rd : List Byte) (wlen : Nat) : State × Nat :=
  if rd.length ≠ 16 ∨ wlen < 4 ∨ field rd 12 4 ≠ 0 then (s, 1)
  else
    let va := field rd 0 8
    match (if va % 8 = 0 then s.locate (pkg * 8 + 6) 0 va .read else .error ⟨0x18, 0, 0⟩) with
    | .error _ => (s, 2)
    | .ok (a, _) =>
      let die := a / 2 ^ 38
      let mine := (s.partition pkg (Config.vfPartition pkg fn)).any fun x => x.dies.contains (aperDie die)
      if aperPkg die = pkg ∧ mine then
        let (s, n) := s.wakeKey die 0 (va / 8) (field rd 8 4)
        (s, n * 256)
      else (s, 0)

/-- NOTIFY_REQUEST (R398, R399, R366). -/
def execNotifyRequest (pkg : Nat) (fn : Nat) (rd : List (BitVec 8)) (wlen : Nat) (s : State) : Host.Outcome State Fault Refusal :=
  if fn % 64 = 0 ∨ hostFunctions ≤ fn then .next s
  else
    let (s, status) := s.notify pkg fn rd wlen
    .next ((if status % 256 = 0 then s.wakeHubs pkg else s).emit (.used pkg fn status))

/-! ### Ageing (R405) -/

/-- The plies of a pair of cores are asked to be saved (R370, R405). -/
def State.askPair (s : State) (pkg core : Nat) : State :=
  let ask (p : Ply) : Ply :=
    if p.core / 1024 = pkg ∧ p.core % 1024 / 2 = core / 2 ∧ p.residence == .resident ∧ p.saveAsked.isNone then
      { p with saveAsked := some (s.clock, 1) }
    else p
  { s with plies := s.plies.map ask }

/-- MARGIN_TEST (R405), on an idle core, from the budget of the ageing tests (R401): one that fails is retired, its number given
to the hank's spare core where it is free. -/
def execMarginTest (pkg : Nat) (core : Nat) (pass : Bool) (s : State) : Host.Outcome State Fault Refusal :=
  let p := s.pkg pkg
  let idle := !(s.plies.any fun q => q.core == pkg * 1024 + core && q.residence == .resident)
  if 864 ≤ core || !idle || p.failed.contains core then .next s
  else match s.spend pkg (activity 4) 3 core (2 ^ 44 + pkg * 1024 + core) Config.marginBytes with
  | (s, false) => .next s
  | (s, true) =>
  if pass then .next s
  else
    let s := s.askPair pkg core
    let s := { s with cores := s.cores.map fun (k : Core) => if k.id = pkg * 1024 + core then { Core.empty k.id with limit := k.limit } else k }
    let hank := core / 12
    let aper := pkg * 8 + core / 144
    if p.spares.contains hank then .next ((s.putPkg { p with failed := core :: p.failed }).retire pkg 4 aper core)
    else .next ((s.putPkg { p with spares := hank :: p.spares }).retire pkg 5 aper core)

/-! ### Firmware and reset (R285, R308, R406) -/

/-- FIRMWARE_UPDATE (R406). -/
def execFirmwareUpdate (pkg : Nat) (version : Nat) (image : List (BitVec 8)) (sig : List (BitVec 8)) (s : State) :
    Host.Outcome State Fault Refusal :=
  let p := s.pkg pkg
  .next (if !Config.firmwareSigOk image sig || version < p.minimum || p.trying.isSome then s.refuse pkg
    else
      let slot := 1 - p.active
      let p := { p with
        trial := some slot
        versions := if slot = 0 then (version, p.versions.2) else (p.versions.1, version)
        images := if slot = 0 then (image, p.images.2) else (p.images.1, image) }
      (s.putPkg p).grant pkg)

/-- Everything of a package but its flash, its fuses and its retired units is as after power-on; its boot epoch
advances, and the ranges of ASIDs 0 and 1 are set (R285, R308). -/
def State.resetPackage (s : State) (pkg : Nat) (p : Pkg) : State :=
  let on (aper : Nat) : Bool := aperPkg aper == pkg
  let byte (a : Nat) : Bool := on (a / 2 ^ 38)
  let hs := (s.plies.filter fun q => q.core / 1024 == pkg).map (·.handle)
  let encs := (s.enclaves.filter (·.pkg == pkg)).map (·.enc)
  let asids := (s.enclaves.filter (·.pkg == pkg)).map (·.asid)
  let gone (id : Nat) : Bool := s.ops.any fun o => o.id == id && hs.contains o.ply
  let s := s.withdraw gone
  { s with
    plies := s.plies.filter fun q => !hs.contains q.handle
    cores := s.cores.filter (·.id / 1024 != pkg)
    mem := s.mem.filter fun c => !byte c.1
    codes := s.codes.filter fun c => !byte (c.1 * 8)
    tagFail := s.tagFail.filter fun l => !byte (l * 64)
    owners := s.owners.filter fun o => !on (o.1 / 2 ^ 22)
    roots := s.roots.filter fun r => !on (r.1 / 2048)
    ranges := s.ranges.filter fun r => r.1 / 16 / 2048 != pkg && !asids.contains (r.1 / 16 % 2048)
    frameCaches := s.frameCaches.filter fun x => !on (x.stack / 4)
    promos := s.promos.filter fun m => !on m.die
    enclaves := s.enclaves.filter (·.pkg != pkg)
    epoch := SMap.set 0 s.epoch pkg (SMap.get 0 s.epoch pkg + 1)
    skeins := s.skeins.filter (·.core / 1024 != pkg)
    pairs := s.pairs.filter (·.core / 1024 != pkg)
    launches := s.launches.filter fun l => !encs.contains l.enc
    specs := s.specs.filter fun x => !encs.contains x.enc
    waiters := s.waiters.filter fun w => !on w.home
    msgs := s.msgs.filter fun m => !on m.src && !on m.dst
    flits := s.flits.filter fun f => !on f.src && !on f.dst
    links := s.links.filter fun x => if 2 ^ 40 ≤ x.1 then !on ((x.1 - 2 ^ 40) / 2048) else !on (x.1 / 4096)
    soOut := s.soOut.filter fun x => !on (x.1 / 2048 / 4096) && !on (x.1 / 2048 % 4096)
    soNext := s.soNext.filter fun x => !on (x.1 / 2048 / 4096) && !on (x.1 / 2048 % 4096)
    seen := s.seen.filter fun x => !on ((x.1 - 2 ^ 40) / 2048)
    probes := s.probes.filter (·.core / 1024 != pkg)
    l2 := s.l2.filter fun e => !on (sliceDie e.1)
    nets := s.nets.filter (·.pkg != pkg)
    rxs := s.rxs.filter fun r => r.pkg != pkg && !encs.contains r.enc
    netServes := s.netServes.filter (·.pkg != pkg)
    recs := s.recs.filter (·.part / 8 != pkg)
    partitions := s.partitions.filter (·.id / 8 != pkg)
    budgets := s.budgets.filter (·.pkg != pkg)
    channels := s.channels.filter (·.pkg != pkg)
    log := s.log
    pkgs := s.pkgs.filter (·.id != pkg) ++ [{ Pkg.fresh pkg with
      active := p.active, versions := p.versions, images := p.images, minimum := p.minimum, trial := p.trial
      trying := p.trial.map fun _ => s.clock, capGen := p.capGen, spares := p.spares, failed := p.failed
      bootCount := s.creations, bootCycle := s.clock, periodStart := s.clock }] }

/-- Cycles that the watchdog gives a new image (R406). -/
def watchdogCycles : Nat := 30000 * milliCycles

/-- PACKAGE_RESET (R285, R308, R406): a slot that waits to be tried is tried. -/
def execPackageReset (pkg : Nat) (s : State) : Host.Outcome State Fault Refusal :=
  .next ((s.resetPackage pkg (s.pkg pkg)).tableChange pkg 8 [])

/-- HEALTH_CONFIRM (R406), within 30 s of the boot: the slot that is tried becomes active, and its version the minimum. -/
def execHealthConfirm (pkg : Nat) (s : State) : Host.Outcome State Fault Refusal :=
  let p := s.pkg pkg
  match p.trying, p.trial with
  | some t, some slot =>
    if t + watchdogCycles ≤ s.clock then .next (s.refuse pkg)
    else .next ((s.putPkg { p with active := slot, minimum := p.version slot, trial := none, trying := none }).grant pkg)
  | _, _ => .next s

/-- FIRMWARE_WATCHDOG (R406): 30 s have passed without it; the package is reset into the previous slot. -/
def execFirmwareWatchdog (pkg : Nat) (s : State) : Host.Outcome State Fault Refusal :=
  let p := s.pkg pkg
  match p.trying with
  | some t =>
    if s.clock < t + watchdogCycles then .next s
    else .next (((s.resetPackage pkg { p with trial := none, trying := none }).tableChange pkg 8 []).emit (.event pkg 5 []))
  | none => .next s

/-! ### Scrubbing and the PCI Express port (R263, R327) -/

/-- SCRUB (R263): a line is written back with the codes that were read. -/
def execScrub (die : Nat) (pa : Nat) (s : State) : Host.Outcome State Fault Refusal :=
  let a := flat die (pa / 64 * 64)
  let (s, go) := s.spend (aperPkg die) (activity 0) 0 (stackUnit a) (2 ^ 41 + die) 64
  let code (m : SMap (Option Byte)) (i : Nat) : SMap (Option Byte) :=
    SMap.set none m (a / 8 + i) (SMap.get none s.codes (a / 8 + i))
  .next <| if !go then s else { s with mem := memWrite s.mem a (memRead s.mem a 64), codes := (List.range 8).foldl code s.codes }

/-- The dies whose trees the port walks for an ASID. -/
def State.portDies (s : State) (pkg asid : Nat) : List Nat :=
  match if asid < 2 then none else s.enclaveOfAsid asid with
  | some e => s.unitDies pkg e.part
  | none => [pkg * 8 + 6]

/-- PCIE_INGRESS_WRITE (R263): what cannot be placed is dropped. -/
def execPcieIngressWrite (pkg : Nat) (asid : Nat) (va : Nat) (data : List (BitVec 8)) (s : State) :
    Host.Outcome State Fault Refusal :=
  let dies := s.portDies pkg asid
  .next (if !s.asidLive asid || (s.unitRange dies asid va data.length .write).isSome then s.logEvent 10 [pkg, asid, va]
    else s.ingressAll dies asid va data)

/-- Bytes leave over PCI Express, as a poisoned TLP when a granule fails its check (R263). -/
def State.portRead (s : State) (pkg asid va len : Nat) : State :=
  match s.egress (s.portDies pkg asid) asid va len with
  | some b => s.emit (.tlp pkg b false)
  | none => (s.logEvent 9 [pkg, asid, va]).emit (.tlp pkg [] true)

/-- PCIE_EGRESS (R263). -/
def execPcieEgress (pkg : Nat) (asid : Nat) (va : Nat) (len : Nat) (s : State) : Host.Outcome State Fault Refusal :=
  .next (if !s.asidLive asid || (s.unitRange (s.portDies pkg asid) asid va len .read).isSome then s.logEvent 10 [pkg, asid, va]
    else s.portRead pkg asid va len)

/-- The interface that a TLP names, with its enclave, when it comes on its stream with the T bit set (R327). -/
def State.tlpIface (s : State) (pkg : Nat) (t : Tlp) : Option Enclave :=
  s.enclaves.find? fun e => e.pkg == pkg && e.ifaces.any fun f =>
    f.link == t.link && f.rid == t.rid && f.stream == t.stream && f.run && t.tbit

/-- TDISP_TLP_RECEIVE (R327). -/
def execTdispTlpReceive (pkg : Nat) (tlp : Tlp) (s : State) : Host.Outcome State Fault Refusal :=
  let drop (s : State) : State := (s.logEvent 11 [pkg, tlp.link, tlp.rid]).emit (.unsupported pkg tlp.link tlp.rid)
  match s.tlpIface pkg tlp with
  | none => .next (drop s)
  | some e =>
    let dies := s.unitDies pkg e.part
    let acc : Access := if tlp.write then .write else .read
    if (s.unitRange dies e.asid tlp.va tlp.data.length acc).isSome then .next (drop s)
    else if tlp.write then .next (s.ingressAll dies e.asid tlp.va tlp.data)
    else .next (s.portRead pkg e.asid tlp.va tlp.data.length)

/-- TDISP_INTERFACE_EXIT (R327): an event is raised, and the stage streams on the interface become idle. -/
def execTdispInterfaceExit (pkg : Nat) (link : Nat) (slot : Nat) (s : State) : Host.Outcome State Fault Refusal :=
  let is (f : DevIface) : Bool := f.link == link && f.slot == slot && f.run
  match s.enclaves.find? fun e => e.pkg == pkg && e.ifaces.any is with
  | none => .next s
  | some e =>
    let funcs := (e.ifaces.filter is).map (·.func)
    let stop (f : DevIface) : DevIface := if is f then { f with run := false } else f
    let idle (x : Nat × Stream) : Nat × Stream :=
      (x.1, if x.2.active && x.2.extents.any fun b => funcs.contains (field b 0 2) then x.2.revoke else x.2)
    let e := { e with ifaces := e.ifaces.map stop, streams := (e.streams.map idle).filter fun x => x.2 != Stream.idle }
    .next ((s.putEnclave e).emit (.event pkg 6 [link, slot]))

end Sys2Proof.Machine
end

