-- ==== Sys2Proof/Machine/Chart.lean ====
section
/-! DEFINITION.  Chart words (01 R44), and the prefix, which is judged against the word that follows it (R25 to R28). -/

namespace Sys2Proof.Machine

/-- What the long instruction of a chart word does; a chart word expands to no other. -/
def execLong (i : Instr) (s : State) : Host.Outcome State Fault Refusal :=
  match i with
  | .chartld h a off slot blk => execChartld h a off slot blk s
  | .chartrd h d a off => execChartrd h d a off s
  | .bindBr h wait ofs => execBindBr h wait ofs s
  | .bindBc h n wait ofs => execBindBc h n wait ofs s
  | .bindCall h d wait ofs => execBindCall h d wait ofs s
  | .bindRet h r wait => execBindRet h r wait s
  | .bindJmp h r wait ofs => execBindJmp h r wait ofs s
  | .fork h d a off => execFork h d a off s
  | .elect h d pn => execElect h d pn s
  | .vote h d pk mode pn => execVote h d pk mode pn s
  | .phase h n => execPhase h n s
  | .sysc h n => execSysc h n s
  | .trap h n => execTrap h n s
  | .eret h a mode => execEret h a mode s
  | .csrr h d csr => execCsrr h d csr s
  | .csrw h a csr => execCsrw h a csr s
  | .csrx h d a csr op => execCsrx h d a csr op s
  | .halt h => execHalt h s
  | .wfi h a => execWfi h a s
  | .mov h d a => execMov h d a s
  | .movi h d mode imm => execMovi h d mode imm s
  | .movs h d a => execMovs h d a s
  | .tagset h d a tag => execTagset h d a tag s
  | .tagsetFl h a => execTagsetFl h a s
  | .tagget h d a => execTagget h d a s
  | .taggetFl h d => execTaggetFl h d s
  | .add h d a b f ui => execAdd h d a b f ui s
  | .sub h d a b f ui => execSub h d a b f ui s
  | .mul h d a b f ui => execMul h d a b f ui s
  | .mulhi h d a b f ui => execMulhi h d a b f ui s
  | .mad h d a b c f ui => execMad h d a b c f ui s
  | .div h d a b f ui => execDiv h d a b f ui s
  | .rem h d a b f ui => execRem h d a b f ui s
  | .min h d a b f ui => execMin h d a b f ui s
  | .max h d a b f ui => execMax h d a b f ui s
  | .abs h d a f => execAbs h d a f s
  | .neg h d a f => execNeg h d a f s
  | .and h d a b f => execAnd h d a b f s
  | .or h d a b f => execOr h d a b f s
  | .xor h d a b f => execXor h d a b f s
  | .andn h d a b f => execAndn h d a b f s
  | .not h d a f => execNot h d a f s
  | .shl h d a b f => execShl h d a b f s
  | .shr h d a b f => execShr h d a b f s
  | .sar h d a b f => execSar h d a b f s
  | .rot h d a b f => execRot h d a b f s
  | .clz h d a f => execClz h d a f s
  | .popc h d a f => execPopc h d a f s
  | .cmp h d a b f ui cond pn any => execCmp h d a b f ui cond pn any s
  | .sel h d a b c f => execSel h d a b c f s
  | .addi h d a imm f ui => execAddi h d a imm f ui s
  | .pand h pd pa pb na nb => execPand h pd pa pb na nb s
  | .por h pd pa pb na nb => execPor h pd pa pb na nb s
  | .pxor h pd pa pb na nb => execPxor h pd pa pb na nb s
  | .pnot h pd pa na => execPnot h pd pa na s
  | .pget h d => execPget h d s
  | .pset h a mask => execPset h a mask s
  | .fadd h d a b f rnd => execFadd h d a b f rnd s
  | .fsub h d a b f rnd => execFsub h d a b f rnd s
  | .fmul h d a b f rnd => execFmul h d a b f rnd s
  | .fma h d a b c f => execFma h d a b c f s
  | .fmin h d a b f => execFmin h d a b f s
  | .fmax h d a b f => execFmax h d a b f s
  | .fabs h d a f => execFabs h d a f s
  | .fneg h d a f => execFneg h d a f s
  | .fcmp h d a b f cond pn any => execFcmp h d a b f cond pn any s
  | .fdiv h d a b f rnd => execFdiv h d a b f rnd s
  | .fsqrt h d a f rnd => execFsqrt h d a f rnd s
  | .fdot h d a b c f => execFdot h d a b c f s
  | .rcp h d a f => execRcp h d a f s
  | .rsqrt h d a f => execRsqrt h d a f s
  | .exp2 h d a f => execExp2 h d a f s
  | .log2 h d a f => execLog2 h d a f s
  | .sin h d a f => execSin h d a f s
  | .cos h d a f => execCos h d a f s
  | .tanh h d a f => execTanh h d a f s
  | .cvt h d a f ui rnd sf => execCvt h d a f ui rnd sf s
  | .pack h d a b f ui rnd => execPack h d a b f ui rnd s
  | .unpack h d a f ui hi => execUnpack h d a f ui hi s
  | .shfl h d a b f mode seg => execShfl h d a b f mode seg s
  | .bcast h d a b f seg => execBcast h d a b f seg s
  | .lreduce h d a f ui op seg rnd => execLreduce h d a f ui op seg rnd s
  | .lscan h d a f ui op seg excl rnd => execLscan h d a f ui op seg excl rnd s
  | .swiz h d a f pat => execSwiz h d a f pat s
  | .qset h a f qm => execQset h a f qm s
  | .qadd h d a b f qm => execQadd h d a b f qm s
  | .qsub h d a b f qm => execQsub h d a b f qm s
  | .qmul h d a b f qm => execQmul h d a b f qm s
  | .qmac h d a b c f qm => execQmac h d a b c f qm s
  | .qred h d a f ui qm => execQred h d a f ui qm s
  | .qbfly h d a b c f qm => execQbfly h d a b c f qm s
  | .qibfly h d a b c f qm => execQibfly h d a b c f qm s
  | .hperm h d a b f seg => execHperm h d a b f seg s
  | .hauto h d a b f qm seg => execHauto h d a b f qm seg s
  | .mma h d a b slot keep f16 => execMma h d a b slot keep f16 s
  | .mmai h d a b slot keep ua ub => execMmai h d a b slot keep ua ub s
  | .mmag h d a b slot keep gq8 grp => execMmag h d a b slot keep gq8 grp s
  | .mmac h d a b slot keep => execMmac h d a b slot keep s
  | .accalloc h d slot => execAccalloc h d slot s
  | .acctry h d slot pn => execAcctry h d slot pn s
  | .accfree h d slot => execAccfree h d slot s
  | .acczero h d slot => execAcczero h d slot s
  | .accld h d a off slot tag => execAccld h d a off slot tag s
  | .accst h d a off slot => execAccst h d a off slot s
  | .mread h d a slot half g => execMread h d a slot half g s
  | .lds h d a off f => execLds h d a off f s
  | .sts h d a off => execSts h d a off s
  | .ldsfe h d a off f => execLdsfe h d a off f s
  | .stsfe h d a off => execStsfe h d a off s
  | .sfe h a off full => execSfe h a off full s
  | .tlook h d a region pn => execTlook h d a region pn s
  | .tset h a b region => execTset h a b region s
  | .tinv h b region => execTinv h b region s
  | .racq h d a pn => execRacq h d a pn s
  | .rpub h a b => execRpub h a b s
  | .rtake h d a pn => execRtake h d a pn s
  | .rrel h a b => execRrel h a b s
  | .barinit h a b => execBarinit h a b s
  | .bararr h d a b => execBararr h d a b s
  | .barwait h a b => execBarwait h a b s
  | .ld h d a off slot f acq scope => execLd h d a off slot f acq scope s
  | .st h d a off slot rel scope => execSt h d a off slot rel scope s
  | .atom h d a b c slot op => execAtom h d a b c slot op s
  | .redms h a b f ui op => execRedms h a b f ui op s
  | .pref h a off level => execPref h a off level s
  | .fence h k scope classes => execFence h k scope classes s
  | .waitf h k => execWaitf h k s
  | .waitv h d a b c scope => execWaitv h d a b c scope s
  | .wakev h d a b slot scope => execWakev h d a b slot scope s
  | .copy h d a b slot map s2g ring cf bar => execCopy h d a b slot map s2g ring cf bar s
  | .copyl h d a b c slot dir bar => execCopyl h d a b c slot dir bar s
  | .cmap h a off slot map => execCmap h a off slot map s
  | .stgpost h d a b slot => execStgpost h d a b slot s
  | .stgadv h a b fin => execStgadv h a b fin s
  | .npost h d a b slot => execNpost h d a b slot s
  | .ncqw h d a b scope t => execNcqw h d a b scope t s
  | .launch h d a b slot => execLaunch h d a b slot s
  | .rngset h a b slot n => execRngset h a b slot n s
  | .atinv h a b slot mode => execAtinv h a b slot mode s
  | .pgq h d a b slot => execPgq h d a b slot s
  | .ecreate h d a slot => execEcreate h d a slot s
  | .eadd h d a slot => execEadd h d a slot s
  | .eaddDev h d a slot => execEaddDev h d a slot s
  | .einit h d a slot => execEinit h d a slot s
  | .eenter h d a b => execEenter h d a b s
  | .eexit h => execEexit h s
  | .eseal h d a slot => execEseal h d a slot s
  | .eunseal h d a slot => execEunseal h d a slot s
  | .ereport h d a b slot => execEreport h d a b slot s
  | .edestroy h d a slot => execEdestroy h d a slot s
  | _ => .next s

/-- The faults of an entry's own checks at decode (R10), for every instruction that has some. -/
def entryFaults (i : Instr) (x : Issue) : List FaultAt :=
  match i with
  | .bindBr _ _ ofs => misaligned x ofs
  | .bindBc _ _ _ ofs => misaligned x ofs
  | .bindCall _ _ _ ofs => misaligned x ofs
  | .fork _ _ _ off => forkTarget x off
  | .csrr _ _ csr => csrBreach x csr false
  | .csrw _ _ csr => csrBreach x csr true
  | .csrx _ _ _ csr _ => csrBreach x csr true
  | .eret _ _ mode => eretBreach x mode
  | .pgq _ _ _ b _ => pgqBreach x b
  | .mma _ _ a _ _ _ _ => matrixWindow i x a
  | .mmai _ _ a _ _ _ _ _ => matrixWindow i x a
  | .mmag _ _ a _ _ _ _ _ => matrixWindow i x a
  | .mmac _ _ a _ _ _ => matrixWindow i x a
  | .mread _ d _ _ _ _ => mreadWindow x d
  | _ => []

/-- R27: a prefix whose next first word is this one is an orphan.  Where that word raises a fault of its own at decode, the
prefix is not judged. -/
def State.orphan (s : State) (cur : Cursor) (p : Ply) (c : Course) (q : Pfx) : Bool :=
  match s.look p (cur.addr + 4) with
  | .unfetchable _ => false
  | .rejected => false
  | .found (.pfx ..) _ => true
  | .found w len => match s.standsFor p w with
    | none => false
    | some i =>
      let s' := { s.putPly (p.putCourse { c with run := { c.run with pc := cur.addr + 4, pfx := some q } }) with
        cur := some { cur with addr := cur.addr + 4, len } }
      match s'.issue i with
      | none => false
      | some x => (s'.wordFaults x (entryFaults i x)).isEmpty && orphanBefore q (shapeOf i)

/-- PFX (R25 to R28): the prefix joins the run state of the course, unless it is an orphan.  It issues on no pipe
and takes no cycle. -/
def execPfx (rnd : Rnd) (sat : BitVec 2) (ftz nox : Bool) (go : BitVec 5) (gv : Bool) (s : State) :
    Host.Outcome State Fault Refusal :=
  match s.cur with
  | none => .fault .noIssuer
  | some cur =>
    match s.ply cur.ply with
    | none => .fault .noIssuer
    | some p =>
      match p.course cur.course with
      | none => .fault .noIssuer
      | some c =>
        let q : Pfx := ⟨rnd, sat, ftz, nox, go, gv, cur.addr⟩
        if s.orphan cur p c q then
          .next ((s.separate p c.id).raise p c.id c.run (c.fibres.map (·, ⟨0x02, 0⟩)))
        else .next (s.putPly (p.putCourse { c with run := { c.run with pc := cur.addr + 4, pfx := some q } }))

/-- R14: what a chart word breaks in its chain whatever it stands for (0x01): a third member has CH set, or CH stands with a
stall count or before a bind. -/
def State.chartChain (s : State) (x : Issue) (ch : Bool) (st : BitVec 2) : List FaultAt :=
  let next := if s.prefixAt x.ply (x.addr + 4) then x.addr + 8 else x.addr + 4
  let toBind := match s.bindAt x.ply next with | .ok b => b | .error _ => false
  if ch && (2 ≤ x.course.chain.length || st != 0 || toBind) then [⟨0x01, 0⟩] else []

/-- CHART_WORD (R44, R46): the word acts as the long instruction it expands to, or faults with cause 0x03 or 0x01. -/
def execChartWord (ch : Bool) (st : BitVec 2) (ix : BitVec 8) (f : BitVec 19) (s : State) : Host.Outcome State Fault Refusal :=
  match s.issue (.chartWord ch st ix f) with
  | none => .fault .noIssuer
  | some x =>
    match s.expand x.ply ch st ix f with
    | .error e => .next (x.wordFault s ((lowestFault (e :: s.chartChain x ch st)).getD e))
    | .ok i => execLong i s

end Sys2Proof.Machine
end

