-- ==== Sys2Proof/Machine/Spdm.lean ====
section
/-! DEFINITION.  The root of trust as an SPDM 1.3 responder (11 R326, R324).  Request and response codes, and the
order in which requests are answered, are those of the SPDM standard (log 16). -/

namespace Sys2Proof.Machine

def Channel.fresh (pkg chan : Nat) : Channel := ⟨pkg, chan, false, false, false, [], 0, false, [], [], [], 0⟩

def State.channel (s : State) (pkg chan : Nat) : Channel :=
  (s.channels.find? fun c => c.pkg == pkg && c.chan == chan).getD (Channel.fresh pkg chan)

def State.putChannel (s : State) (c : Channel) : State :=
  { s with channels := s.channels.filter (fun x => !(x.pkg == c.pkg && x.chan == c.chan)) ++ [c] }

/-- A request or response: version, code, two parameters, and the rest. -/
def spdm (code p1 p2 : Nat) (body : List Byte) : List Byte :=
  [0x13, BitVec.ofNat 8 code, BitVec.ofNat 8 p1, BitVec.ofNat 8 p2] ++ body

/-- A request is answered: both join the transcript. -/
def State.answer (s : State) (c : Channel) (req resp : List Byte) : State :=
  (s.putChannel { c with transcript := c.transcript ++ req ++ resp }).emit (.spdm c.pkg c.chan resp)

/-- An answer that is signed over the transcript it ends. -/
def State.signed (s : State) (c : Channel) (req resp : List Byte) : State :=
  (s.putChannel { c with transcript := c.transcript ++ req ++ resp }).emit
    (.spdm c.pkg c.chan (resp ++ Config.mldsaSign c.pkg (sha3_512 (c.transcript ++ req ++ resp))))

/-- A request that is not answered: 1 invalid, 4 unexpected, 6 it fails its authentication. -/
def State.spdmError (s : State) (c : Channel) (code : Nat) : State := s.emit (.spdm c.pkg c.chan (spdm 0x7F code 0 []))

/-- A request that needs negotiated algorithms. -/
def State.negotiated (s : State) (pkg chan : Nat) (act : Channel → State) : Host.Outcome State Fault Refusal :=
  let c := s.channel pkg chan
  .next (if c.algs then act c else s.spdmError c 4)

/-- An answer inside a session: sealed by AES-256-GCM under the response key, in the form of the standard for secured
messages (log 16). -/
def Channel.secured (c : Channel) (resp : List Byte) : List Byte :=
  let msg := bytesLE 2 resp.length ++ resp
  let head := bytesLE 4 c.session ++ bytesLE 2 (msg.length + 16)
  let iv := (Config.spdmKey c.rspKey 3 ++ zeros 12).take 12
  let nonce := iv.zipWith (· ^^^ ·) (bytesLE 12 c.seq)
  let ct := gcmCrypt c.rspKey nonce msg
  head ++ ct ++ gcmTag c.rspKey nonce head ct

/-- An answer leaves under the keys that `c` has; `c'` is what the session has after it. -/
def State.secureAnswer (s : State) (c c' : Channel) (resp : List Byte) : State :=
  (s.putChannel { c' with seq := if c'.rspKey = c.rspKey then c.seq + 1 else 0 }).emit (.spdm c.pkg c.chan (c.secured resp))

/-- A request of an established session. -/
def State.inSession (s : State) (pkg chan session : Nat) (act : Channel → State) : Host.Outcome State Fault Refusal :=
  let c := s.channel pkg chan
  .next (if c.session ≠ 0 ∧ c.session = session ∧ c.finished then act c else s.spdmError c 4)

/-- GET_VERSION (R326): the conversation starts afresh. -/
def execGetVersion (pkg : Nat) (chan : Nat) (s : State) : Host.Outcome State Fault Refusal :=
  let c := { Channel.fresh pkg chan with version := true }
  .next (s.answer c [0x10, 0x84, 0, 0] [0x10, 0x04, 0, 0, 0, 1, 0, 0x13])

/-- GET_CAPABILITIES (R326): certificates, challenge, signed measurements, key exchange, encryption and authentication,
heartbeat and key update; sizes and times are open. -/
def execGetCapabilities (pkg : Nat) (chan : Nat) (s : State) : Host.Outcome State Fault Refusal :=
  let c := s.channel pkg chan
  if !c.version || c.caps then .next (s.spdmError c 4)
  else
    let s' := { s with freeCtr := s.freeCtr + 1 }
    .next (s'.answer { c with caps := true } (spdm 0xE1 0 0 [])
      (spdm 0x61 0 0 (zeros 4 ++ bytesLE 4 0x62D6 ++ bytesLE 8 (Config.freeValue s.freeCtr).toNat)))

/-- The tables of a NEGOTIATE_ALGORITHMS request: a kind and its bits. -/
def algTables : Nat → List Byte → List (Nat × Nat)
  | 0, _ => []
  | n + 1, b => if b.length < 4 then [] else (field b 0 1, field b 2 2) :: algTables n (b.drop (4 + 4 * (field b 1 1 % 16)))

/-- The request offers SHA3-512, ML-DSA-87 as an extended algorithm, secp384r1 and AES-256-GCM. -/
def algsOffered (b : List Byte) : Bool :=
  let asym := field b 24 1
  let tables := algTables b.length (b.drop (28 + 4 * asym + 4 * field b 25 1))
  bitOf (field b 8 4) 5
    && ((List.range asym).any fun i => field b (28 + 4 * i) 4 == Config.mldsaAlgId.toNat)
    && (tables.any fun t => t.1 == 2 && bitOf t.2 4) && tables.any fun t => t.1 == 3 && bitOf t.2 1

/-- What is selected: measurements of the DMTF form by SHA3-512, and one algorithm of each kind. -/
def algsSelected : List Byte :=
  bytesLE 2 52 ++ bytesLE 1 1 ++ zeros 1 ++ bytesLE 4 0x40 ++ zeros 4 ++ bytesLE 4 0x20 ++ zeros 12 ++ bytesLE 1 1 ++ zeros 3
    ++ bytesLE 4 Config.mldsaAlgId.toNat ++ bytesLE 4 (0x2002 + 2 ^ 20) ++ bytesLE 4 (0x2003 + 2 ^ 17) ++ bytesLE 4 (0x2005 + 2 ^ 16)

/-- NEGOTIATE_ALGORITHMS (R326): SHA3-512, secp384r1, AES-256-GCM and ML-DSA-87, or nothing. -/
def execNegotiateAlgorithms (pkg : Nat) (chan : Nat) (algs : List (BitVec 8)) (s : State) : Host.Outcome State Fault Refusal :=
  let c := s.channel pkg chan
  if !c.caps || c.algs then .next (s.spdmError c 4)
  else if !algsOffered algs then .next (s.spdmError c 1)
  else .next (s.answer { c with algs := true } (spdm 0xE3 0 0 algs) (spdm 0x63 3 0 algsSelected))

/-- GET_DIGESTS (R326): the digest of the certificate chain in slot 0 (R324). -/
def execGetDigests (pkg : Nat) (chan : Nat) (s : State) : Host.Outcome State Fault Refusal :=
  s.negotiated pkg chan fun c => s.answer c (spdm 0x81 0 0 []) (spdm 0x01 0 1 (sha3_512 (Config.certChain pkg 0)))

/-- GET_CERTIFICATE (R324, R326): a piece of the chain in slot 0. -/
def execGetCertificate (pkg : Nat) (chan : Nat) (slot : Nat) (off : Nat) (len : Nat) (s : State) : Host.Outcome State Fault Refusal :=
  s.negotiated pkg chan fun c =>
    let chain := Config.certChain pkg 0
    let piece := (chain.drop off).take len
    if slot ≠ 0 ∨ chain.length ≤ off then s.spdmError c 1
    else s.answer c (spdm 0x82 slot 0 (bytesLE 2 off ++ bytesLE 2 len))
      (spdm 0x02 slot 0 (bytesLE 2 piece.length ++ bytesLE 2 (chain.length - off - piece.length) ++ piece))

/-- Measurement block `n` (R326): boot ROM, Moafer, monitor, package configuration. -/
def State.measureBlock (s : State) (pkg n : Nat) : List Byte :=
  let p := s.pkg pkg
  Config.firmwareMeasure n (p.image p.running)

/-- CHALLENGE (R326). -/
def execChallenge (pkg : Nat) (chan : Nat) (nonce : List (BitVec 8)) (s : State) : Host.Outcome State Fault Refusal :=
  s.negotiated pkg chan fun c =>
    let s' := { s with freeCtr := s.freeCtr + 1 }
    s'.signed c (spdm 0x83 0 0 nonce)
      (spdm 0x03 0 1 (sha3_512 (Config.certChain pkg 0) ++ bytesLE 8 (Config.freeValue s.freeCtr).toNat))

/-- GET_MEASUREMENTS (R326): the number of blocks, one block, or all. -/
def execGetMeasurements (pkg : Nat) (chan : Nat) (index : Nat) (nonce : List (BitVec 8)) (s : State) :
    Host.Outcome State Fault Refusal :=
  s.negotiated pkg chan fun c =>
    let block (n : Nat) : List Byte := [BitVec.ofNat 8 n] ++ s.measureBlock pkg n
    let req := spdm 0xE0 0 index nonce
    if index = 0 then s.signed c req (spdm 0x60 4 0 [])
    else if index ≤ 4 then s.signed c req (spdm 0x60 0 0 ([1] ++ block index))
    else if index = 255 then s.signed c req (spdm 0x60 0 0 ([4] ++ [1, 2, 3, 4].flatMap block))
    else s.spdmError c 1

/-- KEY_EXCHANGE (R326): a session by secp384r1. -/
def execKeyExchange (pkg : Nat) (chan : Nat) (exch : List (BitVec 8)) (s : State) : Host.Outcome State Fault Refusal :=
  s.negotiated pkg chan fun c =>
    if c.session ≠ 0 then s.spdmError c 4
    else
      let free := Config.freeValue s.freeCtr
      let secret := Config.kexSecret exch free
      let c := { c with
        session := s.nextId, finished := false, secret
        reqKey := Config.spdmKey secret 0, rspKey := Config.spdmKey secret 1 }
      let s := { s with freeCtr := s.freeCtr + 1, nextId := s.nextId + 1 }
      s.signed c (spdm 0xE4 0 0 exch) (spdm 0x64 0 0 (bytesLE 4 c.session ++ Config.kexResponse exch free))

/-- FINISH (R326): the requester proves that it has the session's keys; other keys follow for the session's data. -/
def execFinish (pkg : Nat) (chan : Nat) (session : Nat) (mac : List (BitVec 8)) (s : State) : Host.Outcome State Fault Refusal :=
  s.negotiated pkg chan fun c =>
    let req := spdm 0xE5 0 0 mac
    if c.session = 0 ∨ c.session ≠ session ∨ c.finished then s.spdmError c 4
    else if mac ≠ Config.spdmMac c.reqKey c.transcript then s.spdmError c 6
    else
      let resp := spdm 0x65 0 0 (Config.spdmMac c.rspKey (c.transcript ++ req))
      s.secureAnswer c { c with
        finished := true, transcript := c.transcript ++ req ++ resp
        reqKey := Config.spdmKey c.secret 4, rspKey := Config.spdmKey c.secret 5 } resp

/-- HEARTBEAT (R326). -/
def execHeartbeat (pkg : Nat) (chan : Nat) (session : Nat) (s : State) : Host.Outcome State Fault Refusal :=
  s.inSession pkg chan session fun c => s.secureAnswer c c (spdm 0x68 0 0 [])

/-- KEY_UPDATE (R326): 1 the requester's key, 2 both keys, 3 a check of the new key.  An update of both is answered under
the new key. -/
def execKeyUpdate (pkg : Nat) (chan : Nat) (session : Nat) (op : Nat) (s : State) : Host.Outcome State Fault Refusal :=
  s.inSession pkg chan session fun c =>
    let new (k : List Byte) : List Byte := Config.spdmKey k 2
    let resp := spdm 0x69 op 0 []
    match op with
    | 1 => s.secureAnswer c { c with reqKey := new c.reqKey } resp
    | 2 => let c := { c with reqKey := new c.reqKey, rspKey := new c.rspKey, seq := 0 }; s.secureAnswer c c resp
    | 3 => s.secureAnswer c c resp
    | _ => s.secureAnswer c c (spdm 0x7F 1 0 [])

/-- END_SESSION (R326). -/
def execEndSession (pkg : Nat) (chan : Nat) (session : Nat) (s : State) : Host.Outcome State Fault Refusal :=
  s.inSession pkg chan session fun c =>
    s.secureAnswer c { c with session := 0, finished := false, secret := [], reqKey := [], rspKey := [], seq := 0 } (spdm 0x6C 0 0 [])

end Sys2Proof.Machine
end

