-- ==== Sys2Proof/Machine/Dispatch.lean ====
section
/-! DEFINITION.  One arm per constructor of `Instr`. -/

namespace Sys2Proof.Machine

/-- What an instruction or an event does. -/
def exec (i : Instr) (s : State) : Host.Outcome State Fault Refusal :=
  match i with
  | .nop h => Sys2Proof.Machine.execNop h s
  | .pfx rnd sat ftz nox go gv => Sys2Proof.Machine.execPfx rnd sat ftz nox go gv s
  | .chartWord ch st ix f => Sys2Proof.Machine.execChartWord ch st ix f s
  | .bind h wait => Sys2Proof.Machine.execBind h wait s
  | .ifence h => Sys2Proof.Machine.execIfence h s
  | .rcv h => Sys2Proof.Machine.execRcv h s
  | .fend h => Sys2Proof.Machine.execFend h s
  | .yield h => Sys2Proof.Machine.execYield h s
  | .exit h => Sys2Proof.Machine.execExit h s
  | .movBase h d a => Sys2Proof.Machine.execMovBase h d a s
  | .movsBase h d a => Sys2Proof.Machine.execMovsBase h d a s
  | .taggetBase h d a => Sys2Proof.Machine.execTaggetBase h d a s
  | .tagsetBase h d a tag => Sys2Proof.Machine.execTagsetBase h d a tag s
  | .addBase h d a b => Sys2Proof.Machine.execAddBase h d a b s
  | .subBase h d a b => Sys2Proof.Machine.execSubBase h d a b s
  | .mulBase h d a b => Sys2Proof.Machine.execMulBase h d a b s
  | .mulhiIBase h d a b => Sys2Proof.Machine.execMulhiIBase h d a b s
  | .mulhiUiBase h d a b => Sys2Proof.Machine.execMulhiUiBase h d a b s
  | .minIBase h d a b => Sys2Proof.Machine.execMinIBase h d a b s
  | .minUiBase h d a b => Sys2Proof.Machine.execMinUiBase h d a b s
  | .maxIBase h d a b => Sys2Proof.Machine.execMaxIBase h d a b s
  | .maxUiBase h d a b => Sys2Proof.Machine.execMaxUiBase h d a b s
  | .andBase h d a b => Sys2Proof.Machine.execAndBase h d a b s
  | .orBase h d a b => Sys2Proof.Machine.execOrBase h d a b s
  | .xorBase h d a b => Sys2Proof.Machine.execXorBase h d a b s
  | .shlBase h d a b => Sys2Proof.Machine.execShlBase h d a b s
  | .shrBase h d a b => Sys2Proof.Machine.execShrBase h d a b s
  | .sarBase h d a b => Sys2Proof.Machine.execSarBase h d a b s
  | .rotBase h d a b => Sys2Proof.Machine.execRotBase h d a b s
  | .faddBase h d a b => Sys2Proof.Machine.execFaddBase h d a b s
  | .fsubBase h d a b => Sys2Proof.Machine.execFsubBase h d a b s
  | .fmulBase h d a b => Sys2Proof.Machine.execFmulBase h d a b s
  | .fminBase h d a b => Sys2Proof.Machine.execFminBase h d a b s
  | .fmaxBase h d a b => Sys2Proof.Machine.execFmaxBase h d a b s
  | .ldsBase h d a b => Sys2Proof.Machine.execLdsBase h d a b s
  | .stsBase h d a b => Sys2Proof.Machine.execStsBase h d a b s
  | .ldBase h d a b => Sys2Proof.Machine.execLdBase h d a b s
  | .stBase h d a b => Sys2Proof.Machine.execStBase h d a b s
  | .qaddBase h d a b => Sys2Proof.Machine.execQaddBase h d a b s
  | .qsubBase h d a b => Sys2Proof.Machine.execQsubBase h d a b s
  | .qmulBase h d a b => Sys2Proof.Machine.execQmulBase h d a b s
  | .chartld h a off slot blk => Sys2Proof.Machine.execChartld h a off slot blk s
  | .chartrd h d a off => Sys2Proof.Machine.execChartrd h d a off s
  | .bindBr h wait ofs => Sys2Proof.Machine.execBindBr h wait ofs s
  | .bindBc h n wait ofs => Sys2Proof.Machine.execBindBc h n wait ofs s
  | .bindCall h d wait ofs => Sys2Proof.Machine.execBindCall h d wait ofs s
  | .bindRet h r wait => Sys2Proof.Machine.execBindRet h r wait s
  | .bindJmp h r wait ofs => Sys2Proof.Machine.execBindJmp h r wait ofs s
  | .fork h d a off => Sys2Proof.Machine.execFork h d a off s
  | .elect h d pn => Sys2Proof.Machine.execElect h d pn s
  | .vote h d pk mode pn => Sys2Proof.Machine.execVote h d pk mode pn s
  | .phase h n => Sys2Proof.Machine.execPhase h n s
  | .sysc h n => Sys2Proof.Machine.execSysc h n s
  | .trap h n => Sys2Proof.Machine.execTrap h n s
  | .eret h a mode => Sys2Proof.Machine.execEret h a mode s
  | .csrr h d csr => Sys2Proof.Machine.execCsrr h d csr s
  | .csrw h a csr => Sys2Proof.Machine.execCsrw h a csr s
  | .csrx h d a csr op => Sys2Proof.Machine.execCsrx h d a csr op s
  | .halt h => Sys2Proof.Machine.execHalt h s
  | .wfi h a => Sys2Proof.Machine.execWfi h a s
  | .mov h d a => Sys2Proof.Machine.execMov h d a s
  | .movi h d mode imm => Sys2Proof.Machine.execMovi h d mode imm s
  | .movs h d a => Sys2Proof.Machine.execMovs h d a s
  | .tagset h d a tag => Sys2Proof.Machine.execTagset h d a tag s
  | .tagsetFl h a => Sys2Proof.Machine.execTagsetFl h a s
  | .tagget h d a => Sys2Proof.Machine.execTagget h d a s
  | .taggetFl h d => Sys2Proof.Machine.execTaggetFl h d s
  | .add h d a b f ui => Sys2Proof.Machine.execAdd h d a b f ui s
  | .sub h d a b f ui => Sys2Proof.Machine.execSub h d a b f ui s
  | .mul h d a b f ui => Sys2Proof.Machine.execMul h d a b f ui s
  | .mulhi h d a b f ui => Sys2Proof.Machine.execMulhi h d a b f ui s
  | .mad h d a b c f ui => Sys2Proof.Machine.execMad h d a b c f ui s
  | .div h d a b f ui => Sys2Proof.Machine.execDiv h d a b f ui s
  | .rem h d a b f ui => Sys2Proof.Machine.execRem h d a b f ui s
  | .min h d a b f ui => Sys2Proof.Machine.execMin h d a b f ui s
  | .max h d a b f ui => Sys2Proof.Machine.execMax h d a b f ui s
  | .abs h d a f => Sys2Proof.Machine.execAbs h d a f s
  | .neg h d a f => Sys2Proof.Machine.execNeg h d a f s
  | .and h d a b f => Sys2Proof.Machine.execAnd h d a b f s
  | .or h d a b f => Sys2Proof.Machine.execOr h d a b f s
  | .xor h d a b f => Sys2Proof.Machine.execXor h d a b f s
  | .andn h d a b f => Sys2Proof.Machine.execAndn h d a b f s
  | .not h d a f => Sys2Proof.Machine.execNot h d a f s
  | .shl h d a b f => Sys2Proof.Machine.execShl h d a b f s
  | .shr h d a b f => Sys2Proof.Machine.execShr h d a b f s
  | .sar h d a b f => Sys2Proof.Machine.execSar h d a b f s
  | .rot h d a b f => Sys2Proof.Machine.execRot h d a b f s
  | .clz h d a f => Sys2Proof.Machine.execClz h d a f s
  | .popc h d a f => Sys2Proof.Machine.execPopc h d a f s
  | .cmp h d a b f ui cond pn any => Sys2Proof.Machine.execCmp h d a b f ui cond pn any s
  | .sel h d a b c f => Sys2Proof.Machine.execSel h d a b c f s
  | .addi h d a imm f ui => Sys2Proof.Machine.execAddi h d a imm f ui s
  | .pand h pd pa pb na nb => Sys2Proof.Machine.execPand h pd pa pb na nb s
  | .por h pd pa pb na nb => Sys2Proof.Machine.execPor h pd pa pb na nb s
  | .pxor h pd pa pb na nb => Sys2Proof.Machine.execPxor h pd pa pb na nb s
  | .pnot h pd pa na => Sys2Proof.Machine.execPnot h pd pa na s
  | .pget h d => Sys2Proof.Machine.execPget h d s
  | .pset h a mask => Sys2Proof.Machine.execPset h a mask s
  | .fadd h d a b f rnd => Sys2Proof.Machine.execFadd h d a b f rnd s
  | .fsub h d a b f rnd => Sys2Proof.Machine.execFsub h d a b f rnd s
  | .fmul h d a b f rnd => Sys2Proof.Machine.execFmul h d a b f rnd s
  | .fma h d a b c f => Sys2Proof.Machine.execFma h d a b c f s
  | .fmin h d a b f => Sys2Proof.Machine.execFmin h d a b f s
  | .fmax h d a b f => Sys2Proof.Machine.execFmax h d a b f s
  | .fabs h d a f => Sys2Proof.Machine.execFabs h d a f s
  | .fneg h d a f => Sys2Proof.Machine.execFneg h d a f s
  | .fcmp h d a b f cond pn any => Sys2Proof.Machine.execFcmp h d a b f cond pn any s
  | .fdiv h d a b f rnd => Sys2Proof.Machine.execFdiv h d a b f rnd s
  | .fsqrt h d a f rnd => Sys2Proof.Machine.execFsqrt h d a f rnd s
  | .fdot h d a b c f => Sys2Proof.Machine.execFdot h d a b c f s
  | .rcp h d a f => Sys2Proof.Machine.execRcp h d a f s
  | .rsqrt h d a f => Sys2Proof.Machine.execRsqrt h d a f s
  | .exp2 h d a f => Sys2Proof.Machine.execExp2 h d a f s
  | .log2 h d a f => Sys2Proof.Machine.execLog2 h d a f s
  | .sin h d a f => Sys2Proof.Machine.execSin h d a f s
  | .cos h d a f => Sys2Proof.Machine.execCos h d a f s
  | .tanh h d a f => Sys2Proof.Machine.execTanh h d a f s
  | .cvt h d a f ui rnd sf => Sys2Proof.Machine.execCvt h d a f ui rnd sf s
  | .pack h d a b f ui rnd => Sys2Proof.Machine.execPack h d a b f ui rnd s
  | .unpack h d a f ui hi => Sys2Proof.Machine.execUnpack h d a f ui hi s
  | .shfl h d a b f mode seg => Sys2Proof.Machine.execShfl h d a b f mode seg s
  | .bcast h d a b f seg => Sys2Proof.Machine.execBcast h d a b f seg s
  | .lreduce h d a f ui op seg rnd => Sys2Proof.Machine.execLreduce h d a f ui op seg rnd s
  | .lscan h d a f ui op seg excl rnd => Sys2Proof.Machine.execLscan h d a f ui op seg excl rnd s
  | .swiz h d a f pat => Sys2Proof.Machine.execSwiz h d a f pat s
  | .qset h a f qm => Sys2Proof.Machine.execQset h a f qm s
  | .qadd h d a b f qm => Sys2Proof.Machine.execQadd h d a b f qm s
  | .qsub h d a b f qm => Sys2Proof.Machine.execQsub h d a b f qm s
  | .qmul h d a b f qm => Sys2Proof.Machine.execQmul h d a b f qm s
  | .qmac h d a b c f qm => Sys2Proof.Machine.execQmac h d a b c f qm s
  | .qred h d a f ui qm => Sys2Proof.Machine.execQred h d a f ui qm s
  | .qbfly h d a b c f qm => Sys2Proof.Machine.execQbfly h d a b c f qm s
  | .qibfly h d a b c f qm => Sys2Proof.Machine.execQibfly h d a b c f qm s
  | .hperm h d a b f seg => Sys2Proof.Machine.execHperm h d a b f seg s
  | .hauto h d a b f qm seg => Sys2Proof.Machine.execHauto h d a b f qm seg s
  | .mma h d a b slot keep f16 => Sys2Proof.Machine.execMma h d a b slot keep f16 s
  | .mmai h d a b slot keep ua ub => Sys2Proof.Machine.execMmai h d a b slot keep ua ub s
  | .mmag h d a b slot keep gq8 grp => Sys2Proof.Machine.execMmag h d a b slot keep gq8 grp s
  | .mmac h d a b slot keep => Sys2Proof.Machine.execMmac h d a b slot keep s
  | .accalloc h d slot => Sys2Proof.Machine.execAccalloc h d slot s
  | .acctry h d slot pn => Sys2Proof.Machine.execAcctry h d slot pn s
  | .accfree h d slot => Sys2Proof.Machine.execAccfree h d slot s
  | .acczero h d slot => Sys2Proof.Machine.execAcczero h d slot s
  | .accld h d a off slot tag => Sys2Proof.Machine.execAccld h d a off slot tag s
  | .accst h d a off slot => Sys2Proof.Machine.execAccst h d a off slot s
  | .mread h d a slot half g => Sys2Proof.Machine.execMread h d a slot half g s
  | .lds h d a off f => Sys2Proof.Machine.execLds h d a off f s
  | .sts h d a off => Sys2Proof.Machine.execSts h d a off s
  | .ldsfe h d a off f => Sys2Proof.Machine.execLdsfe h d a off f s
  | .stsfe h d a off => Sys2Proof.Machine.execStsfe h d a off s
  | .sfe h a off full => Sys2Proof.Machine.execSfe h a off full s
  | .tlook h d a region pn => Sys2Proof.Machine.execTlook h d a region pn s
  | .tset h a b region => Sys2Proof.Machine.execTset h a b region s
  | .tinv h b region => Sys2Proof.Machine.execTinv h b region s
  | .racq h d a pn => Sys2Proof.Machine.execRacq h d a pn s
  | .rpub h a b => Sys2Proof.Machine.execRpub h a b s
  | .rtake h d a pn => Sys2Proof.Machine.execRtake h d a pn s
  | .rrel h a b => Sys2Proof.Machine.execRrel h a b s
  | .barinit h a b => Sys2Proof.Machine.execBarinit h a b s
  | .bararr h d a b => Sys2Proof.Machine.execBararr h d a b s
  | .barwait h a b => Sys2Proof.Machine.execBarwait h a b s
  | .ld h d a off slot f acq scope => Sys2Proof.Machine.execLd h d a off slot f acq scope s
  | .st h d a off slot rel scope => Sys2Proof.Machine.execSt h d a off slot rel scope s
  | .atom h d a b c slot op => Sys2Proof.Machine.execAtom h d a b c slot op s
  | .redms h a b f ui op => Sys2Proof.Machine.execRedms h a b f ui op s
  | .pref h a off level => Sys2Proof.Machine.execPref h a off level s
  | .fence h k scope classes => Sys2Proof.Machine.execFence h k scope classes s
  | .waitf h k => Sys2Proof.Machine.execWaitf h k s
  | .waitv h d a b c scope => Sys2Proof.Machine.execWaitv h d a b c scope s
  | .wakev h d a b slot scope => Sys2Proof.Machine.execWakev h d a b slot scope s
  | .copy h d a b slot map s2g ring cf bar => Sys2Proof.Machine.execCopy h d a b slot map s2g ring cf bar s
  | .copyl h d a b c slot dir bar => Sys2Proof.Machine.execCopyl h d a b c slot dir bar s
  | .cmap h a off slot map => Sys2Proof.Machine.execCmap h a off slot map s
  | .stgpost h d a b slot => Sys2Proof.Machine.execStgpost h d a b slot s
  | .stgadv h a b fin => Sys2Proof.Machine.execStgadv h a b fin s
  | .npost h d a b slot => Sys2Proof.Machine.execNpost h d a b slot s
  | .ncqw h d a b scope t => Sys2Proof.Machine.execNcqw h d a b scope t s
  | .launch h d a b slot => Sys2Proof.Machine.execLaunch h d a b slot s
  | .rngset h a b slot n => Sys2Proof.Machine.execRngset h a b slot n s
  | .atinv h a b slot mode => Sys2Proof.Machine.execAtinv h a b slot mode s
  | .pgq h d a b slot => Sys2Proof.Machine.execPgq h d a b slot s
  | .ecreate h d a slot => Sys2Proof.Machine.execEcreate h d a slot s
  | .eadd h d a slot => Sys2Proof.Machine.execEadd h d a slot s
  | .eaddDev h d a slot => Sys2Proof.Machine.execEaddDev h d a slot s
  | .einit h d a slot => Sys2Proof.Machine.execEinit h d a slot s
  | .eenter h d a b => Sys2Proof.Machine.execEenter h d a b s
  | .eexit h => Sys2Proof.Machine.execEexit h s
  | .eseal h d a slot => Sys2Proof.Machine.execEseal h d a slot s
  | .eunseal h d a slot => Sys2Proof.Machine.execEunseal h d a slot s
  | .ereport h d a b slot => Sys2Proof.Machine.execEreport h d a b slot s
  | .edestroy h d a slot => Sys2Proof.Machine.execEdestroy h d a slot s
  | .chartldCommit op => Sys2Proof.Machine.execChartldCommit op s
  | .runSlotFill core part => Sys2Proof.Machine.execRunSlotFill core part s
  | .starvationPromote core part => Sys2Proof.Machine.execStarvationPromote core part s
  | .waitSetLateSplit ply course => Sys2Proof.Machine.execWaitSetLateSplit ply course s
  | .handlerTake ply => Sys2Proof.Machine.execHandlerTake ply s
  | .trapRecordWrite ply course => Sys2Proof.Machine.execTrapRecordWrite ply course s
  | .trapResponse rec => Sys2Proof.Machine.execTrapResponse rec s
  | .sliceExpiry ply => Sys2Proof.Machine.execSliceExpiry ply s
  | .plySave ply => Sys2Proof.Machine.execPlySave ply s
  | .forcedFullSave ply => Sys2Proof.Machine.execForcedFullSave ply s
  | .skeinSave skein => Sys2Proof.Machine.execSkeinSave skein s
  | .plyRestore ply pl => Sys2Proof.Machine.execPlyRestore ply pl s
  | .skeinRestore skein core => Sys2Proof.Machine.execSkeinRestore skein core s
  | .memoryReply op fibre via => Sys2Proof.Machine.execMemoryReply op fibre via s
  | .memorySideAtomic op fibre => Sys2Proof.Machine.execMemorySideAtomic op fibre s
  | .memorySideReduce op fibre => Sys2Proof.Machine.execMemorySideReduce op fibre s
  | .waitvTimeout ply fibre => Sys2Proof.Machine.execWaitvTimeout ply fibre s
  | .ncqwTimeout ply course => Sys2Proof.Machine.execNcqwTimeout ply course s
  | .wfiTimeout ply => Sys2Proof.Machine.execWfiTimeout ply s
  | .hubCoreStart pkg core => Sys2Proof.Machine.execHubCoreStart pkg core s
  | .pairOpBegin pair op => Sys2Proof.Machine.execPairOpBegin pair op s
  | .pairOpRetire pair op => Sys2Proof.Machine.execPairOpRetire pair op s
  | .accallocSettle pair => Sys2Proof.Machine.execAccallocSettle pair s
  | .accTransferComplete pair op => Sys2Proof.Machine.execAccTransferComplete pair op s
  | .pairOpTimeout pair => Sys2Proof.Machine.execPairOpTimeout pair s
  | .pairReset pair => Sys2Proof.Machine.execPairReset pair s
  | .pairResetComplete pair => Sys2Proof.Machine.execPairResetComplete pair s
  | .ringAcquireServe skein ring => Sys2Proof.Machine.execRingAcquireServe skein ring s
  | .ringTakeServe skein ring => Sys2Proof.Machine.execRingTakeServe skein ring s
  | .copyEngineStart op => Sys2Proof.Machine.execCopyEngineStart op s
  | .enginePageResume op => Sys2Proof.Machine.execEnginePageResume op s
  | .engineBarrierArrive op => Sys2Proof.Machine.execEngineBarrierArrive op s
  | .copyComplete op => Sys2Proof.Machine.execCopyComplete op s
  | .cmapComplete op => Sys2Proof.Machine.execCmapComplete op s
  | .hubCopyDoorbell enc queue tail => Sys2Proof.Machine.execHubCopyDoorbell enc queue tail s
  | .hubCopyDescriptor enc queue => Sys2Proof.Machine.execHubCopyDescriptor enc queue s
  | .hubCopyComplete op => Sys2Proof.Machine.execHubCopyComplete op s
  | .stgpostSettle op => Sys2Proof.Machine.execStgpostSettle op s
  | .stageBlockRequest enc stream => Sys2Proof.Machine.execStageBlockRequest enc stream s
  | .stageBlockComplete enc stream gen block data => Sys2Proof.Machine.execStageBlockComplete enc stream gen block data s
  | .stageLeaseRevoke enc stream => Sys2Proof.Machine.execStageLeaseRevoke enc stream s
  | .stageDrainTimeout enc stream => Sys2Proof.Machine.execStageDrainTimeout enc stream s
  | .monitorSettle op => Sys2Proof.Machine.execMonitorSettle op s
  | .rngsetUpdate op => Sys2Proof.Machine.execRngsetUpdate op s
  | .atinvDrop op => Sys2Proof.Machine.execAtinvDrop op s
  | .pgqReply op => Sys2Proof.Machine.execPgqReply op s
  | .promotion2mib die asid ia => Sys2Proof.Machine.execPromotion2mib die asid ia s
  | .promotion1gib die asid ia => Sys2Proof.Machine.execPromotion1gib die asid ia s
  | .kick op fibre => Sys2Proof.Machine.execKick op fibre s
  | .qbaseWrite op fibre => Sys2Proof.Machine.execQbaseWrite op fibre s
  | .qcfgWrite op fibre => Sys2Proof.Machine.execQcfgWrite op fibre s
  | .launchStart enc queue => Sys2Proof.Machine.execLaunchStart enc queue s
  | .skeinAdmit enc queue core pls => Sys2Proof.Machine.execSkeinAdmit enc queue core pls s
  | .launchComplete enc queue => Sys2Proof.Machine.execLaunchComplete enc queue s
  | .queueLevelRise enc queue => Sys2Proof.Machine.execQueueLevelRise enc queue s
  | .admissionReclaim enc queue => Sys2Proof.Machine.execAdmissionReclaim enc queue s
  | .admitLimitUpdate core limit => Sys2Proof.Machine.execAdmitLimitUpdate core limit s
  | .speculationStart enc queue => Sys2Proof.Machine.execSpeculationStart enc queue s
  | .speculationClaim enc queue => Sys2Proof.Machine.execSpeculationClaim enc queue s
  | .gaugeOverrun ply => Sys2Proof.Machine.execGaugeOverrun ply s
  | .gaugeHangTimeout ply => Sys2Proof.Machine.execGaugeHangTimeout ply s
  | .peerLoss kind aper other => Sys2Proof.Machine.execPeerLoss kind aper other s
  | .fabricRead msg => Sys2Proof.Machine.execFabricRead msg s
  | .fabricWrite msg => Sys2Proof.Machine.execFabricWrite msg s
  | .fabricAtomic msg => Sys2Proof.Machine.execFabricAtomic msg s
  | .fabricArithmetic msg => Sys2Proof.Machine.execFabricArithmetic msg s
  | .fabricProbe msg => Sys2Proof.Machine.execFabricProbe msg s
  | .fabricWaitEnter msg => Sys2Proof.Machine.execFabricWaitEnter msg s
  | .fabricWake msg => Sys2Proof.Machine.execFabricWake msg s
  | .fabricReadResponse msg => Sys2Proof.Machine.execFabricReadResponse msg s
  | .fabricWriteAck msg => Sys2Proof.Machine.execFabricWriteAck msg s
  | .fabricAtomicResponse msg => Sys2Proof.Machine.execFabricAtomicResponse msg s
  | .fabricArithmeticAck msg => Sys2Proof.Machine.execFabricArithmeticAck msg s
  | .fabricProbeResponse msg => Sys2Proof.Machine.execFabricProbeResponse msg s
  | .fabricWaitResponse msg => Sys2Proof.Machine.execFabricWaitResponse msg s
  | .fabricFaultResponse msg => Sys2Proof.Machine.execFabricFaultResponse msg s
  | .ucieFlitReceive flit ok => Sys2Proof.Machine.execUcieFlitReceive flit ok s
  | .scaleupFlitReceive flit ok => Sys2Proof.Machine.execScaleupFlitReceive flit ok s
  | .ueWrite req => Sys2Proof.Machine.execUeWrite req s
  | .ueRead req => Sys2Proof.Machine.execUeRead req s
  | .ueWinset req => Sys2Proof.Machine.execUeWinset req s
  | .ueKeyset req => Sys2Proof.Machine.execUeKeyset req s
  | .netPacketReceive pkg pkt => Sys2Proof.Machine.execNetPacketReceive pkg pkt s
  | .netReadRequestReceive pkg pkt => Sys2Proof.Machine.execNetReadRequestReceive pkg pkt s
  | .netSackTimer pkg rx => Sys2Proof.Machine.execNetSackTimer pkg rx s
  | .netAckReceive req pkts => Sys2Proof.Machine.execNetAckReceive req pkts s
  | .netNackReceive req pkt error => Sys2Proof.Machine.execNetNackReceive req pkt error s
  | .netRetransmitTimeout req pkt => Sys2Proof.Machine.execNetRetransmitTimeout req pkt s
  | .netRequestEnd req => Sys2Proof.Machine.execNetRequestEnd req s
  | .partitionCreate pkg part req => Sys2Proof.Machine.execPartitionCreate pkg part req s
  | .partitionGrow pkg part req => Sys2Proof.Machine.execPartitionGrow pkg part req s
  | .partitionShrink pkg part dies => Sys2Proof.Machine.execPartitionShrink pkg part dies s
  | .partitionDestroy pkg part => Sys2Proof.Machine.execPartitionDestroy pkg part s
  | .budgetSet pkg budget => Sys2Proof.Machine.execBudgetSet pkg budget s
  | .trapRingRegister pkg part va log2 => Sys2Proof.Machine.execTrapRingRegister pkg part va log2 s
  | .levelCeilingSet enc level => Sys2Proof.Machine.execLevelCeilingSet enc level s
  | .portMtuSet pkg port mtu => Sys2Proof.Machine.execPortMtuSet pkg port mtu s
  | .jobIdSet pkg enc job => Sys2Proof.Machine.execJobIdSet pkg enc job s
  | .firmwareUpdate pkg version image sig => Sys2Proof.Machine.execFirmwareUpdate pkg version image sig s
  | .featuresOk pkg fn feats => Sys2Proof.Machine.execFeaturesOk pkg fn feats s
  | .notifyRequest pkg fn rd wlen => Sys2Proof.Machine.execNotifyRequest pkg fn rd wlen s
  | .budgetPeriod pkg => Sys2Proof.Machine.execBudgetPeriod pkg s
  | .tensionReport enc => Sys2Proof.Machine.execTensionReport enc s
  | .marginTest pkg core pass => Sys2Proof.Machine.execMarginTest pkg core pass s
  | .healthConfirm pkg => Sys2Proof.Machine.execHealthConfirm pkg s
  | .firmwareWatchdog pkg => Sys2Proof.Machine.execFirmwareWatchdog pkg s
  | .packageReset pkg => Sys2Proof.Machine.execPackageReset pkg s
  | .scrub die pa => Sys2Proof.Machine.execScrub die pa s
  | .pcieIngressWrite pkg asid va data => Sys2Proof.Machine.execPcieIngressWrite pkg asid va data s
  | .tdispTlpReceive pkg tlp => Sys2Proof.Machine.execTdispTlpReceive pkg tlp s
  | .tdispInterfaceExit pkg link slot => Sys2Proof.Machine.execTdispInterfaceExit pkg link slot s
  | .getVersion pkg chan => Sys2Proof.Machine.execGetVersion pkg chan s
  | .getCapabilities pkg chan => Sys2Proof.Machine.execGetCapabilities pkg chan s
  | .negotiateAlgorithms pkg chan algs => Sys2Proof.Machine.execNegotiateAlgorithms pkg chan algs s
  | .getDigests pkg chan => Sys2Proof.Machine.execGetDigests pkg chan s
  | .getCertificate pkg chan slot off len => Sys2Proof.Machine.execGetCertificate pkg chan slot off len s
  | .challenge pkg chan nonce => Sys2Proof.Machine.execChallenge pkg chan nonce s
  | .getMeasurements pkg chan index nonce => Sys2Proof.Machine.execGetMeasurements pkg chan index nonce s
  | .keyExchange pkg chan exch => Sys2Proof.Machine.execKeyExchange pkg chan exch s
  | .finish pkg chan session mac => Sys2Proof.Machine.execFinish pkg chan session mac s
  | .heartbeat pkg chan session => Sys2Proof.Machine.execHeartbeat pkg chan session s
  | .keyUpdate pkg chan session op => Sys2Proof.Machine.execKeyUpdate pkg chan session op s
  | .endSession pkg chan session => Sys2Proof.Machine.execEndSession pkg chan session s
  | .plyCtlWrite ply course val => Sys2Proof.Machine.execPlyCtlWrite ply course val s
  | .tvecWrite ply course val => Sys2Proof.Machine.execTvecWrite ply course val s
  | .sliceCtlWrite ply course val => Sys2Proof.Machine.execSliceCtlWrite ply course val s
  | .controlRegisterWrite ply course csr val => Sys2Proof.Machine.execControlRegisterWrite ply course csr val s
  | .hubThreadSliceExpiry ply => Sys2Proof.Machine.execHubThreadSliceExpiry ply s
  | .pcieEgress pkg asid va len => Sys2Proof.Machine.execPcieEgress pkg asid va len s
  | .retiredUnit pkg kind aper unit => Sys2Proof.Machine.execRetiredUnit pkg kind aper unit s

end Sys2Proof.Machine
end

