-- ==== Sys2Proof/Machine/Upsets.lean ====
section
/-! DEFINITION.  An upset as a turn of the agenda (log 18): what it flips (03 R110, R111; 05 R180; 06 R212; 07 R219;
08 R251).  Which error strikes, and when, no rule says. -/

namespace Sys2Proof.Machine

/-- An error that the codes correct is counted by core (R110 to R112, R212). -/
def State.countCorrected (s : State) (core : Nat) : State :=
  { s with corrected := SMap.set 0 s.corrected core (SMap.get 0 s.corrected core + 1) }

/-- R180: one of the two datapaths of the next permutation in a partition errs. -/
def State.strayPermute (s : State) (core part : Nat) : State :=
  let k := s.core core
  if k.strayed.contains part then s else s.putCore { k with strayed := k.strayed ++ [part] }

/-- R219: an uncorrectable error in a granule of a carve. -/
def State.strikeGranule (s : State) (skein off : Nat) : State :=
  match s.skein skein with
  | none => s
  | some k =>
    let x := off / 8 * 8
    let carve := k.carve.put x ⟨0, poisonCode x⟩
    (s.putCarve skein carve).logEvent 14 [k.core, skein, x]

/-- R110: the cell is one of a resident ply; a quarter has 22 bits, a tag 8. -/
def Ply.hasCell (p : Ply) (fibre : Option Nat) (reg quarter bit : Nat) : Bool :=
  p.residence == .resident && (match fibre with | some f => f < p.width && reg < p.window | none => reg < 64)
    && (if quarter < 4 then bit < 22 else quarter == 4 && bit < 8)

/-- What an upset does.  What has landed in a register by then has been written before it. -/
def State.strike (s : State) : Strike → State
  | .register h fibre reg quarter bit => s.modPly h fun p => if p.hasCell fibre reg quarter bit then (p.land s.clock).strike fibre reg quarter bit else p
  | .latch core => s.countCorrected core
  | .permute core part => s.strayPermute core part
  | .accumulator core block word bad => s.strikeBlock core block word bad
  | .scratch skein off => s.strikeGranule skein off
  | .line addr => if s.tagFail.contains (addr / 64) then s else { s with tagFail := s.tagFail ++ [addr / 64] }

end Sys2Proof.Machine
end

