-- ==== Sys2Proof/Machine/Turns.lean ====
section
/-! DEFINITION.  Turns: the issue of a course, an event, and which turn comes next where the agenda names none
(log 3). -/

namespace Sys2Proof.Machine

/-- A course issues what stands at its address, in a cycle. -/
def State.issueAt (s : State) (p : Ply) (c : Course) (t : Nat) (mates : List (Nat × Nat)) : Host.Outcome State Fault Refusal :=
  match s.look p c.run.pc with
  | .unfetchable e => .next (s.wordStop p c ⟨0x10, e⟩)
  | .rejected => .next (s.wordStop p c ⟨0x01, 0⟩)
  | .found i len => exec i (s.ready p c i len (some t) mates)

/-- What the data command at which a member stands addresses in the scratchpad (R221). -/
def State.addressed (s : State) (t : Nat) (m : Nat × Nat) : List (Nat × Nat) :=
  match s.memberAt m with
  | none => []
  | some (p, c) => match s.look p c.run.pc with
    | .found w len => match s.standsFor p w with
      | none => []
      | some i => match dataAddr i, (s.ready p c w len (some t)).issue i with
        | some ad, some x => x.wanted (fun f => (x.addr64 f ad).toNat) x.active
        | _, _ => []
    | _ => []

/-- R76: these members of a run issue one instruction each, in one cycle and on one pipe.  Where their order shows, they act in
the order of the list (log 71). -/
def State.issueAll (t : Nat) (mates : Nat × Nat → List (Nat × Nat)) : List (Nat × Nat) → State → Host.Outcome State Fault Refusal
  | [], s => .next s
  | m :: l, s =>
    match s.memberAt m with
    | none => State.issueAll t mates l s
    | some (p, c) =>
      match s.issueAt p c t (mates m) with
      | .next u => State.issueAll t mates l { u with cur := none }
      | o => o

/-- No member of a run issues before a cycle. -/
def State.holdRun (s : State) (l : List (Nat × Nat)) (t : Nat) : State :=
  l.foldl (init := s) fun s m => s.modPly m.1 fun p =>
    { p with courses := updateWhere (·.id == m.2) (fun (c : Course) => { c with nextIssue := Nat.max c.nextIssue t }) p.courses }

/-- A member waits at its instruction: it stands in its run where it stood. -/
def State.stuck (u : State) (m : Ply × Course) : Bool :=
  (u.core m.1.core).runs.any (·.members.contains (m.1.handle, m.2.id))
    && match u.memberAt (m.1.handle, m.2.id) with
      | some (_, k) => k.phase == .ready && k.run == m.2.run
      | none => false

/-- A member has begun a chain, or a prefix, and goes on in the same cycle (R14, R25). -/
def State.inChain (u : State) (t : Nat) (m : Nat × Nat) : Bool :=
  match u.memberAt m with
  | some (p, c) => p.residence == .resident && c.phase == .ready && c.nextIssue ≤ t && (!c.chain.isEmpty || c.run.pfx.isSome)
  | none => false

/-- The wait at issue of a later member of a chain, where nothing of the chain has issued: what it asks for while it waits
happens, and its course stands at the chain's beginning.  None where it would not wait. -/
def State.waitAt (s : State) (t : Nat) (m : Ply × Course) : Option State :=
  match s.memberAt (m.1.handle, m.2.id) with
  | none => none
  | some (p, c) => match s.issueAt p m.2 t [] with
    | .next u =>
      if u.stuck m then some { u.modPly p.handle fun q => q.putCourse { c with nextIssue := t + 1 } with cur := none } else none
    | _ => none

/-- Members of a run wait at issue: the chain waits, and with it the run.  Where one waits for what its own chain, or another
member, has issued in this cycle, what has issued stands, and the rest of the chain waits (DEDUCED, log 71). -/
def State.retreat (base round : State) (t : Nat) (l : List (Nat × Nat)) (waits : List (Ply × Course)) : State :=
  let s := match waits.foldl (fun o m => o.bind fun s => s.waitAt t m) (some base) with
    | some s => s
    | none => round
  { s.holdRun l (t + 1) with clock := Nat.max s.clock t }

/-- The rounds of a turn: each issues the next instruction of the chain for every member whose chain is open, in one cycle. -/
def State.rounds (base : State) (t : Nat) : Nat → List (Nat × Nat) → State → Host.Outcome State Fault Refusal
  | 0, _, s => .next s
  | n + 1, l, s =>
    match State.issueAll t (fun m => (l.filter (· != m)).flatMap (s.addressed t)) l s with
    | .next u =>
      let waits := (l.filterMap s.memberAt).filter u.stuck
      if !waits.isEmpty then .next (State.retreat base s t l waits)
      else
        let l := l.filter (u.inChain t)
        if l.isEmpty then .next u else State.rounds base t n l u
    | o => o

/-- The members of the run in which a course stands, by their fibre numbers (R73, R79). -/
def State.runMembers (s : State) (p : Ply) (c : Course) : List (Nat × Nat) :=
  match s.packedRun p c.id with
  | some r => sortBy s.memberNumber r.members
  | none => [(p.handle, c.id)]

/-- The turn of a course: its run issues the chain that begins where it stands, in one cycle (R14, R73, R76): at most three
instructions, each with a prefix. -/
def State.courseTurn (s : State) (h cid delay : Nat) : Host.Outcome State Fault Refusal :=
  match s.memberAt (h, cid) with
  | none => .next s
  | some (p, c) =>
    if !s.mayIssue p c delay then .next s
    else State.rounds s (s.offerTime p c delay) 6 (s.runMembers p c) s

/-- A turn. -/
def State.turn (s : State) : Turn → Host.Outcome State Fault Refusal
  | .course h c d => s.courseTurn h c d
  | .event e => exec e { s with cur := none }
  | .strike u => .next { s.strike u with cur := none }

/-- The upkeep after a turn. -/
def tidied : Host.Outcome State Fault Refusal → Host.Outcome State Fault Refusal
  | .next s => .next s.sendHeld.sendNets.servePosts.tidySpecs.tidyLaunches.tidy.leaveThreads.settleLosses.tellErrors
  | o => o

/-- A course that may issue; the clock picks one. -/
def State.someCourse (s : State) : Option Turn :=
  let l := s.plies.flatMap fun p => (p.courses.filter fun c => s.mayIssue p c).map fun c => Turn.course p.handle c.id 0
  l[s.clock / 2 % l.length]?

/-- A free run slot of a partition that a course could enter. -/
def State.firstFill (s : State) : Option Turn :=
  s.plies.findSome? fun p =>
    if (s.candidates p.core p.part).isEmpty then none else some (.event (.runSlotFill p.core p.part))

/-- What an event does. -/
abbrev Event := State → Host.Outcome State Fault Refusal

/-- The events that can carry an operation on. -/
def Op.events (o : Op) : List Event :=
  match o.body with
  | .chartld .. => [execChartldCommit o.id]
  | .mem m _ => (m.items.filter fun i => o.left.contains i.fibre && i.state != .done).flatMap fun i =>
      [execMemoryReply o.id i.fibre .home, execMemorySideAtomic o.id i.fibre, execMemorySideReduce o.id i.fibre, execKick o.id i.fibre,
        execQbaseWrite o.id i.fibre, execQcfgWrite o.id i.fibre, execWaitvTimeout o.ply i.fibre, execNcqwTimeout o.ply o.course]
  | .copy .. | .copyl .. =>
    [execCopyEngineStart o.id, execEnginePageResume o.id, execEngineBarrierArrive o.id, execCopyComplete o.id]
  | .cmap .. => [execCmapComplete o.id]
  | .hubcopy .. => [execHubCopyComplete o.id]
  | .stgpost .. => [execStgpostSettle o.id]
  | .monitor .. => [execMonitorSettle o.id]
  | .rngset .. => [execRngsetUpdate o.id]
  | .atinv .. => [execAtinvDrop o.id]
  | .pgq .. => [execPgqReply o.id]
  | _ => []

/-- What a message that has arrived brings about (R377). -/
def Msg.events (m : Msg) : List Event :=
  [execFabricRead m.id, execFabricWrite m.id, execFabricAtomic m.id, execFabricArithmetic m.id, execFabricProbe m.id, execFabricWaitEnter m.id,
    execFabricWake m.id, execFabricReadResponse m.id, execFabricWriteAck m.id, execFabricAtomicResponse m.id, execFabricArithmeticAck m.id,
    execFabricProbeResponse m.id, execFabricWaitResponse m.id, execFabricFaultResponse m.id]

/-- The events of a cable pair. -/
def Pair.events (q : Pair) : List Event :=
  [execAccallocSettle q.core, execPairResetComplete q.core]
    ++ (q.queue.flatMap fun o => [execPairOpBegin q.core o, execAccTransferComplete q.core o, execPairOpRetire q.core o])
    ++ q.ending.map fun x => execPairOpRetire q.core x.op

/-- The events of a ply. -/
def Ply.events (p : Ply) : List Event :=
  [execHandlerTake p.handle, execGaugeOverrun p.handle, execPlySave p.handle, execForcedFullSave p.handle, execWfiTimeout p.handle]
    ++ (p.courses.filter Course.isParked).map fun c => execTrapRecordWrite p.handle c.id

/-- The skein that a launch could admit next, on a core that the clock picks. -/
def State.admitEvent (s : State) (l : Launch) : List Event :=
  let dies := (s.packagesOf l.part).flatMap fun pkg => match s.partition pkg l.part with
    | some x => x.dies.map fun d => pkg * 1024 + d * 144
    | none => []
  match dies with
  | [] => []
  | d :: r =>
    let core := (d :: r).getD (s.clock / 144 % (r.length + 1)) d + s.clock % 144
    match s.placesFor l core with
    | some pls => [execSkeinAdmit l.enc l.queue core pls]
    | none => []

/-- A saved ply or skein comes back to the core that it left, where it finds a place. -/
def State.restoreEvents (s : State) : List Event :=
  ((s.skeins.filter (·.residence != .resident)).map fun k => execSkeinRestore k.handle k.core)
    ++ (s.plies.filter (·.residence != .resident)).flatMap fun p =>
      match findPlaces p.core p.width p.window 1 (s.coreTaken p.core) with
      | some (pl :: _) => [execPlyRestore p.handle pl]
      | _ => []

/-- The store of a hub thread to a doorbell (R278). -/
def State.bellEvents (s : State) (o : Op) : List Event :=
  match o.body, s.ply o.ply with
  | .mem m _, some p => (m.items.filter fun i => p.bellAt i.va).map fun i =>
      execHubCopyDoorbell p.enc (i.va % 65536 / 8) i.granule.data.toNat
  | _, _ => []

/-- The events that the machine carries on by itself where the agenda names none. -/
def State.pendingEvents (s : State) : List Event :=
  s.ops.flatMap Op.events
    ++ s.ops.flatMap s.bellEvents
    ++ (s.flits.map fun f => if f.scaleup then execScaleupFlitReceive f.id true else execUcieFlitReceive f.id true)
    ++ (s.msgs.filter (·.arrived)).flatMap Msg.events
    ++ s.pairs.flatMap Pair.events
    ++ (s.skeins.flatMap fun k => (List.range 16).flatMap fun r => [execRingAcquireServe k.handle r, execRingTakeServe k.handle r])
    ++ s.plies.flatMap Ply.events
    ++ s.restoreEvents
    ++ s.recs.map (fun r => execTrapResponse r.id)
    ++ (s.enclaves.flatMap fun e => e.queues.flatMap fun q => [execLaunchStart e.enc q.1, execLaunchComplete e.enc q.1])
    ++ s.launches.flatMap s.admitEvent
    ++ (s.enclaves.flatMap fun e => e.hubQueues.map fun q => execHubCopyDescriptor e.enc q.1)
    ++ (s.promos.map fun m => execPromotion2mib m.die m.asid m.ia)
    ++ (s.nets.flatMap fun r => [execUeWrite r.id, execUeRead r.id, execUeWinset r.id, execUeKeyset r.id, execNetRequestEnd r.id])
    ++ (s.budgets.map (·.pkg)).eraseDups.map execBudgetPeriod

/-- The step where the agenda is empty (log 3): in odd cycles, or where no event is pending, a course that may issue or a
run slot that is filled; otherwise a cycle passes, in which one of the pending events takes its turn. -/
def State.idle (s : State) : Host.Outcome State Fault Refusal :=
  let l := s.pendingEvents
  match if l.isEmpty || s.clock % 2 == 1 then s.someCourse.or s.firstFill else none with
  | some t => tidied (s.turn t)
  | none =>
    let s' := { s with clock := s.clock + 1 }
    match l[s.clock / 2 % l.length]? with
    | some e => tidied (e { s' with cur := none })
    | none => .next s'

end Sys2Proof.Machine
end

