-- ==== Sys2Proof/Machine/Step.lean ====
section
/-! DEFINITION.  One step of the machine, and where it fetches its next instruction (log 3, log 5). -/

namespace Sys2Proof.Machine

/-- One step: the turn that the agenda names, or the one the machine takes by itself, or a cycle passes. -/
def step (s : State) : Host.Outcome State Fault Refusal :=
  match s.agenda with
  | t :: r => tidied (State.turn { s with agenda := r } t)
  | [] => s.idle

/-- The state whose next step fetches and runs the instruction of which `w` gives the `nbits` low bits. -/
def State.withFetchWord (s : State) (nbits w : Nat) : State := s.place (bytesLE 8 (w % 2 ^ nbits))

end Sys2Proof.Machine
end

