-- ==== Sys2Proof/Safety.lean ====
section
/-! DEFINITION.  The terms in which claims about the machine are stated: when an instruction issues and completes,
what a completed issue leaves behind, and the invariants of every state. -/

namespace Sys2Proof.Machine

/-- Instruction `i` issues in `s` as `x`: a ply and a course stand for it, its word raises no fault at decode (R10, R49,
`extra` being the decode faults of its own entry), no scoreboard slot is full and no interlock holds it (R36, R39), no
upset stands in the registers that its ports read (R110), and the checking scoreboard finds nothing (R37).  `adjust` gives
the beats of an instruction whose beats depend on its operands (R221). -/
structure Issues (s : State) (i : Instr) (extra : Issue → List FaultAt) (x : Issue) (adjust : Issue → Issue := id) : Prop where
  issue : (s.issue i).map adjust = some x
  word : s.wordFaults x (extra x) = []
  slot : ∀ n, x.sh.slot = some n → s.sbCount x.course n < 63
  free : x.interlock (s.longDests x.ply.handle x.course) = false
  clean : s.struck x = []
  check : x.stallBreach (s.longDests x.ply.handle x.course) = false

/-- An entry without decode faults of its own. -/
def noExtra (_ : Issue) : List FaultAt := []

/-- THE COMPLETION of an issue: every active fibre has its result on its way, none faults, and the course passes the
instruction. -/
def Issue.complete (x : Issue) (s : State) (r : Nat → LaneOut) : State :=
  let outs := x.active.map fun f => (f, r f)
  x.finish s (outs.foldl x.emitLane x.ply) outs []

/-- The completion of an instruction that acts once for its course: the ply with its effect, and the value of its
destination. -/
def Issue.completeOnce (x : Issue) (s : State) (p : Ply) (d : Option Reg) : State :=
  if x.active.isEmpty then x.finish s x.ply [] [] else x.finishOnce s p d

/-- What a source must be for an operand that is read in a format (R107 to R109, R23, R24). -/
def Holds (x : Issue) (g : Nat) (f : Fmt) (src : Src) : Prop :=
  match src with
  | .zero | .imm _ => True
  | .special k => k = 1 ∨ f = .i64
  | src => (x.reg g src).tag = f ∧ f ≠ .poison ∧ (x.reg g src).val &&& reservedBits f = 0

/-- What a source must be that is read whatever its tag (R109). -/
def Readable (x : Issue) (g : Nat) (src : Src) : Prop :=
  match src with
  | .zero | .imm _ | .special _ => True
  | src => (x.reg g src).tag ≠ .poison

/-- The machine's memory stands in its canonical form (log 1). -/
def State.Inv (s : State) : Prop := Memory.wf s.mem = true

end Sys2Proof.Machine
end

