-- ==== Sys2Proof/Certificates/Slice0/Obligations.lean ====
section
/-! DEFINITION.  The statements for the provers.  Each says which rules of the manual it formalises; a statement that
rests on a choice of the model names its log entry. -/

namespace Sys2Proof.Machine

/-! ### Terms of the statements -/

/-- Wherever `i` issues as `x` and the state and its operands stand as `ok` says, it answers the completed issue, in which
every active fibre has a result that `res` describes. -/
def CompletesAt (i : Instr) (ok : State → Issue → Prop) (res : Issue → Nat → LaneOut → Prop) : Prop :=
  ∀ s x, Issues s i noExtra x → ok s x →
    ∃ r : Nat → LaneOut, exec i s = .next (x.complete s r) ∧ ∀ g ∈ x.active, res x g (r g)

/-- The same of an instruction whose completion asks nothing of the rest of the state. -/
def CompletesLane (i : Instr) (ok : Issue → Prop) (res : Issue → Nat → LaneOut → Prop) : Prop :=
  CompletesAt i (fun _ => ok) res

/-- A way to read a table of results: of an instruction, the condition on its operands, and the results of its active fibres. -/
abbrev Reading : Type := Instr → (State → Issue → Prop) → (Issue → Nat → LaneOut → Prop) → Prop

/-- A result of one register and nothing else. -/
def OnlyReg (o : LaneOut) (v : Reg) : Prop := o = { d := some v }

/-- Sub-element `e` of the operand that a fibre reads in a format (R106). -/
def elem (x : Issue) (g : Nat) (f : Fmt) (src : Src) (e : Nat) : Nat := subAt f (x.lanes g f src) e

/-- Every active fibre's sources hold a format. -/
def AllHold (f : Fmt) (srcs : List Src) (x : Issue) : Prop := ∀ g ∈ x.active, ∀ a ∈ srcs, Holds x g f a

/-- Every active fibre's sources can be read. -/
def AllReadable (srcs : List Src) (x : Issue) : Prop := ∀ g ∈ x.active, ∀ a ∈ srcs, Readable x g a

/-- The sources of a base word can be read in one format that `allow` admits (R132). -/
def BaseHold (allow : Fmt → Bool) (srcs : List Src) (x : Issue) : Prop :=
  ∀ g ∈ x.active, allow (x.baseFmt g srcs) = true ∧ ∀ a ∈ srcs, Readable x g a ∧ Holds x g (x.baseFmt g srcs) a

/-- R136 and R26: an exact integer in `w` bits: it wraps, or SAT takes it to the range of the reading or of unsigned
numbers. -/
def Narrowed (sat : BitVec 2) (ui : Bool) (w : Nat) (z : Int) (v : Nat) : Prop :=
  v < 2 ^ w
  ∧ (sat = 0 → (2 ^ w : Int) ∣ z - v)
  ∧ (sat = 1 → readInt ui w v = max (intLo ui w) (min (intHi ui w) z))
  ∧ (sat = 2 → (v : Int) = max 0 (min (2 ^ w - 1) z))

/-- A result register whose every sub-element is described. -/
def SubResult (f : Fmt) (o : LaneOut) (p : Nat → Nat → Prop) : Prop :=
  ∃ v : Word, OnlyReg o ⟨v, f⟩ ∧ ∀ e < f.subs, p e (subAt f v.toNat e)

/-- The integer that a fibre reads in a sub-element (R112). -/
def intElem (x : Issue) (g : Nat) (f : Fmt) (ui : Bool) (src : Src) (e : Nat) : Int :=
  readInt ui f.width (elem x g f src e)

/-- A long integer instruction gives the exact value `z` of its sources, narrowed. -/
def IntegerLong (i : Instr) (f : Fmt) (ui : Bool) (srcs : List Src) (z : Issue → Nat → Nat → Int) : Prop :=
  CompletesLane i (AllHold f srcs) fun x g o => SubResult f o fun e v => Narrowed x.sat ui f.width (z x g e) v

/-- A base integer instruction does so in the format of its sources. -/
def IntegerBase (i : Instr) (ui : Bool) (a b : Src) (z : Nat → Int → Int → Int) : Prop :=
  CompletesLane i (BaseHold Fmt.isInt [a, b]) fun x g o =>
    let f := x.baseFmt g [a, b]
    SubResult f o fun e v => Narrowed x.sat ui f.width (z f.width (intElem x g f ui a e) (intElem x g f ui b e)) v

end Sys2Proof.Machine

open Sys2Proof Sys2Proof.Machine

/-! ### Integer and bit operations -/

/-- R136, R130, R112: every sub-element of the long integer instructions holds the exact result, wrapped or saturated. -/
def Sys2Proof.Machine.LongIntegerResultsAreExactThenNarrowed : Prop :=
  ∀ (h : Head) (d : Dst) (a b c : Src) (imm : BitVec 14) (f : Fmt) (ui : Bool), f.isInt = true →
    let A (x : Issue) (g e : Nat) : Int := intElem x g f ui a e
    let B (x : Issue) (g e : Nat) : Int := intElem x g f ui b e
    let C (x : Issue) (g e : Nat) : Int := intElem x g f ui c e
    let S (x : Issue) (g e : Nat) : Int := intElem x g f false a e
    IntegerLong (.add h d a b f ui) f ui [a, b] (fun x g e => A x g e + B x g e)
    ∧ IntegerLong (.sub h d a b f ui) f ui [a, b] (fun x g e => A x g e - B x g e)
    ∧ IntegerLong (.mul h d a b f ui) f ui [a, b] (fun x g e => A x g e * B x g e)
    ∧ IntegerLong (.mulhi h d a b f ui) f ui [a, b] (fun x g e => A x g e * B x g e / 2 ^ f.width)
    ∧ IntegerLong (.mad h d a b c f ui) f ui [a, b, c] (fun x g e => A x g e * B x g e + C x g e)
    ∧ IntegerLong (.min h d a b f ui) f ui [a, b] (fun x g e => min (A x g e) (B x g e))
    ∧ IntegerLong (.max h d a b f ui) f ui [a, b] (fun x g e => max (A x g e) (B x g e))
    ∧ IntegerLong (.abs h d a f) f false [a] (fun x g e => (S x g e).natAbs)
    ∧ IntegerLong (.neg h d a f) f false [a] (fun x g e => -S x g e)
    ∧ IntegerLong (.addi h d a imm f ui) f ui [a] (fun x g e => A x g e + imm.toInt)

/-- R132, R136: the base integer instructions, in the format of their sources. -/
def Sys2Proof.Machine.BaseIntegerResultsFollowTheirSources : Prop :=
  ∀ (h : Head) (d : BitVec 6) (a b : Src),
    IntegerBase (.addBase h d a b) false a b (fun _ x y => x + y)
    ∧ IntegerBase (.subBase h d a b) false a b (fun _ x y => x - y)
    ∧ IntegerBase (.mulBase h d a b) false a b (fun _ x y => x * y)
    ∧ IntegerBase (.mulhiIBase h d a b) false a b (fun w x y => x * y / 2 ^ w)
    ∧ IntegerBase (.mulhiUiBase h d a b) true a b (fun w x y => x * y / 2 ^ w)
    ∧ IntegerBase (.minIBase h d a b) false a b (fun _ x y => min x y)
    ∧ IntegerBase (.minUiBase h d a b) true a b (fun _ x y => min x y)
    ∧ IntegerBase (.maxIBase h d a b) false a b (fun _ x y => max x y)
    ∧ IntegerBase (.maxUiBase h d a b) true a b (fun _ x y => max x y)

/-- R137: DIV and REM truncate toward zero; the corners give the values of the rule and raise their flags, which stay
off for the other sub-elements.  With divtrap, only where no corner occurs (R138). -/
def Obligations.DivisionTruncatesAndItsCornersRaiseFlags : Prop :=
  ∀ (h : Head) (d : Dst) (a b : Src) (f : Fmt) (ui : Bool), f.isInt = true →
    let A (x : Issue) (g e : Nat) : Int := intElem x g f ui a e
    let B (x : Issue) (g e : Nat) : Int := intElem x g f ui b e
    let Corner (x : Issue) (g e : Nat) : Prop := ui = false ∧ A x g e = -(2 ^ (f.width - 1)) ∧ B x g e = -1
    let ok (x : Issue) : Prop := AllHold f [a, b] x ∧
      (x.ply.divtrap = true → ∀ g ∈ x.active, ∀ e < f.subs, B x g e ≠ 0 ∧ ¬ Corner x g e)
    let flags (x : Issue) (g : Nat) (o : LaneOut) : Prop :=
      (o.flags.getLsbD 1 = true ↔ ∃ e < f.subs, B x g e = 0)
      ∧ (o.flags.getLsbD 2 = true ↔ ∃ e < f.subs, Corner x g e)
      ∧ o.flags &&& 0x19 = 0
    CompletesLane (.div h d a b f ui) ok (fun x g o => flags x g o ∧ ∃ v : Word, o.d = some ⟨v, f⟩ ∧ ∀ e < f.subs,
      let q := subAt f v.toNat e
      (B x g e = 0 → q = 2 ^ f.width - 1) ∧ (Corner x g e → q = 2 ^ (f.width - 1))
      ∧ (B x g e ≠ 0 → ¬ Corner x g e → readInt ui f.width q = Int.tdiv (A x g e) (B x g e)))
    ∧ CompletesLane (.rem h d a b f ui) ok (fun x g o => flags x g o ∧ ∃ v : Word, o.d = some ⟨v, f⟩ ∧ ∀ e < f.subs,
      let q := subAt f v.toNat e
      (B x g e = 0 → readInt ui f.width q = A x g e) ∧ (Corner x g e → q = 0)
      ∧ (B x g e ≠ 0 → ¬ Corner x g e → readInt ui f.width q = Int.tmod (A x g e) (B x g e)))

/-- R138: under divtrap a division by zero or an overflow parks the fibre with cause 0x20, and its destination stays. -/
def Sys2Proof.Machine.DivisionTrapsUnderDivtrap : Prop :=
  ∀ (s : State) (x : Issue) (h : Head) (d : Dst) (a b : Src) (f : Fmt) (ui : Bool) (g : Nat) (i : Instr),
    f.isInt = true → (i = .div h d a b f ui ∨ i = .rem h d a b f ui) → Issues s i noExtra x →
    x.active = [g] → x.course.fibres = [g] → g < x.ply.fibres.length → AllHold f [a, b] x → x.hub = false →
    x.ply.divtrap = true →
    let zero : Prop := ∃ e < f.subs, intElem x g f ui b e = 0
    let corner : Prop := ∃ e < f.subs, ui = false ∧ intElem x g f ui a e = -(2 ^ (f.width - 1)) ∧ intElem x g f ui b e = -1
    zero ∨ corner →
    ∃ t q, exec i s = .next t ∧ t.ply x.ply.handle = some q
      ∧ (q.fibre g).v = (x.ply.fibre g).v ∧ q.s = x.ply.s ∧ q.flight = x.ply.flight
      ∧ (∃ k ∈ q.courses, k.fibres = [g] ∧ k.run = x.course.run ∧ ∃ n m l, k.phase = .parked 0x20 n m l)
      ∧ ((q.fibre g).eaux.getLsbD 0 = true ↔ zero) ∧ ((q.fibre g).eaux.getLsbD 1 = true ↔ corner)
      ∧ (q.fibre g).eaux >>> 2 = 0
      ∧ (zero → x.nox = false → (q.fibre g).flags.getLsbD 1 = true)
      ∧ (corner → x.nox = false → (q.fibre g).flags.getLsbD 2 = true)

/-- R139: every bit of the bitwise instructions; the tags of the sources need not agree. -/
def Sys2Proof.Machine.BitwiseResultsBitByBit : Prop :=
  ∀ (h : Head) (d : Dst) (e : BitVec 6) (a b : Src) (f : Fmt),
    let bit (x : Issue) (g : Nat) (f : Fmt) (src : Src) (k : Nat) : Bool := (BitVec.ofNat 64 (x.lanes g f.index src)).getLsbD k
    let long (i : Instr) (srcs : List Src) (op : Bool → Bool → Bool) : Prop :=
      CompletesLane i (AllReadable srcs) fun x g o => ∃ v : Word, OnlyReg o ⟨v, f⟩ ∧
        ∀ k < 64, v.getLsbD k = op (bit x g f a k) (bit x g f b k)
    let base (i : Instr) (op : Bool → Bool → Bool) : Prop :=
      CompletesLane i (AllReadable [a, b]) fun x g o => ∃ v : Word, OnlyReg o ⟨v, x.baseFmt g [a, b]⟩ ∧
        ∀ k < 64, v.getLsbD k = op (bit x g (x.baseFmt g [a, b]) a k) (bit x g (x.baseFmt g [a, b]) b k)
    long (.and h d a b f) [a, b] (fun p q => p && q)
    ∧ long (.or h d a b f) [a, b] (fun p q => p || q)
    ∧ long (.xor h d a b f) [a, b] (fun p q => p ^^ q)
    ∧ long (.andn h d a b f) [a, b] (fun p q => p && !q)
    ∧ long (.not h d a f) [a] (fun p _ => !p)
    ∧ base (.andBase h e a b) (fun p q => p && q)
    ∧ base (.orBase h e a b) (fun p q => p || q)
    ∧ base (.xorBase h e a b) (fun p q => p ^^ q)

/-- R140: shifts and the rotation, bit by bit in every sub-element; the count is taken modulo its width. -/
def Sys2Proof.Machine.ShiftsMoveTheBitsOfEachElement : Prop :=
  ∀ (h : Head) (d : Dst) (e : BitVec 6) (a b : Src) (f : Fmt), f.isInt = true →
    let Gives (x : Issue) (g : Nat) (f : Fmt) (o : LaneOut) (p : Nat → Nat → Nat → Nat → Prop) : Prop :=
      SubResult f o fun e v => p f.width (elem x g f b e % f.width) (elem x g f a e) v
    let long (i : Instr) (p : Nat → Nat → Nat → Nat → Prop) : Prop :=
      CompletesLane i (AllHold f [a, b]) fun x g o => Gives x g f o p
    let base (i : Instr) (p : Nat → Nat → Nat → Nat → Prop) : Prop :=
      CompletesLane i (BaseHold Fmt.isInt [a, b]) fun x g o => Gives x g (x.baseFmt g [a, b]) o p
    let shl (w n y v : Nat) : Prop := ∀ k < w, v.testBit k = (decide (n ≤ k) && y.testBit (k - n))
    let shr (w n y v : Nat) : Prop := ∀ k < w, v.testBit k = (decide (k + n < w) && y.testBit (k + n))
    let sar (w n y v : Nat) : Prop := ∀ k < w, v.testBit k = y.testBit (if k + n < w then k + n else w - 1)
    let rot (w n y v : Nat) : Prop := ∀ k < w, v.testBit ((k + n) % w) = y.testBit k
    long (.shl h d a b f) shl ∧ long (.shr h d a b f) shr ∧ long (.sar h d a b f) sar ∧ long (.rot h d a b f) rot
    ∧ base (.shlBase h e a b) shl ∧ base (.shrBase h e a b) shr ∧ base (.sarBase h e a b) sar
    ∧ base (.rotBase h e a b) rot

/-- R141, R142, R143: counts, comparisons with their predicate, and the selection. -/
def Sys2Proof.Machine.CountsComparisonsAndSelection : Prop :=
  ∀ (h : Head) (d : Dst) (a b c : Src) (f : Fmt) (ui : Bool) (cond : BitVec 3) (pn : BitVec 4) (any : Bool),
    f.isInt = true →
    let truth (x : Issue) (g e : Nat) : Bool :=
      let A := intElem x g f ui a e
      let B := intElem x g f ui b e
      if cond = 0 then A = B else if cond = 1 then A ≠ B else if cond = 2 then A < B else if cond = 3 then A ≤ B
      else if cond = 4 then A > B else A ≥ B
    CompletesLane (.clz h d a f) (AllHold f [a]) (fun x g o => SubResult f o fun e n =>
      n ≤ f.width ∧ (∀ k < f.width, f.width - n ≤ k → (elem x g f a e).testBit k = false)
        ∧ (n < f.width → (elem x g f a e).testBit (f.width - 1 - n) = true))
    ∧ CompletesLane (.popc h d a f) (AllHold f [a]) (fun x g o => SubResult f o fun e n =>
      n = ((List.range f.width).filter (elem x g f a e).testBit).length)
    ∧ CompletesLane (.cmp h d a b f ui cond pn any) (AllHold f [a, b]) (fun x g o =>
      ∃ v : Word, o.d = some ⟨v, f⟩ ∧ o.d1 = none ∧ o.preds = [] ∧ o.flags = 0
        ∧ (∀ e < f.subs, subAt f v.toNat e = if truth x g e then 2 ^ f.width - 1 else 0)
        ∧ (any = true → (o.pred = some true ↔ ∃ e < f.subs, truth x g e = true))
        ∧ (any = false → (o.pred = some true ↔ ∀ e < f.subs, truth x g e = true)) ∧ o.pred ≠ none)
    ∧ ∀ r : Fmt, r ≠ .poison →
      CompletesLane (.sel h d a b c r) (fun x => AllHold r [a, b] x ∧ AllHold r.index [c] x) (fun x g o =>
        SubResult r o fun e v => v = if elem x g r.index c e = 0 then elem x g r b e else elem x g r a e)

/-- R144, R145: the predicate instructions. -/
def Sys2Proof.Machine.PredicateOperations : Prop :=
  ∀ (h : Head) (d : BitVec 8) (a : Src) (mask : BitVec 15) (pd pa pb : BitVec 4) (na nb : Bool),
    let P (x : Issue) (g : Nat) : Bool := if na then !x.pred g pa.toNat else x.pred g pa.toNat
    let Q (x : Issue) (g : Nat) : Bool := if nb then !x.pred g pb.toNat else x.pred g pb.toNat
    let gives (i : Instr) (t : Issue → Nat → Bool) : Prop :=
      CompletesLane i (fun _ => True) fun x g o => o = { pred := some (t x g) }
    gives (.pand h pd pa pb na nb) (fun x g => P x g && Q x g)
    ∧ gives (.por h pd pa pb na nb) (fun x g => P x g || Q x g)
    ∧ gives (.pxor h pd pa pb na nb) (fun x g => P x g ^^ Q x g)
    ∧ gives (.pnot h pd pa na) (fun x g => !P x g)
    ∧ CompletesLane (.pget h d) (fun _ => True) (fun x g o =>
      ∃ v : Word, OnlyReg o ⟨v, .i64⟩ ∧ ∀ k < 16, v.getLsbD k = (x.view.fibre g).pred.getLsbD k)
    ∧ CompletesLane (.pset h a mask) (fun x => ∀ g ∈ x.active, Holds x g .i64 a ∨ Holds x g .raw a) (fun x g o =>
      o.d = none ∧ o.pred = none ∧ o.flags = 0
        ∧ ∀ n b, (n, b) ∈ o.preds ↔ 1 ≤ n ∧ n ≤ 15 ∧ mask.getLsbD (n - 1) = true ∧ b = (x.reg g a).val.getLsbD n)


/-! ### Moves and tags -/

/-- R123, R125, R126, R128: what the moves give a fibre: value and tag of MOV (poison too), the four modes of MOVI, the
tag that TAGSET names, the number of a tag. -/
def Sys2Proof.Machine.MovesCopyValueAndTag : Prop :=
  ∀ (h : Head) (d : Dst) (db : BitVec 6) (a : Src) (imm : BitVec 32) (tag : Fmt),
    let gives (i : Instr) (ok : Issue → Prop) (r : Issue → Nat → Reg) : Prop :=
      CompletesLane i ok fun x g o => OnlyReg o (r x g)
    let any (_ : Issue) : Prop := True
    gives (.mov h d a) any (fun x g => x.reg g a)
    ∧ gives (.movBase h db a) any (fun x g => x.reg g a)
    ∧ gives (.movi h d 0 imm) any (fun _ _ => ⟨imm.signExtend 64, .i64⟩)
    ∧ gives (.movi h d 1 imm) any (fun _ _ => ⟨imm ++ imm, .f32⟩)
    ∧ gives (.movi h d 2 imm) any (fun _ _ => ⟨imm.setWidth 64, .raw⟩)
    ∧ gives (.movi h d 3 imm) (fun x => ∀ g ∈ x.active, (x.oldDst g d).tag ≠ .poison)
        (fun x g => ⟨imm ++ (x.oldDst g d).val.extractLsb' 0 32, (x.oldDst g d).tag⟩)
    ∧ ((∀ n, d ≠ .s n) →
      gives (.tagset h d a tag) (AllReadable [a]) (fun x g => ⟨(x.reg g a).val, tag⟩)
      ∧ gives (.tagget h d a) any (fun x g => ⟨(x.reg g a).tag.code.setWidth 64, .i64⟩))
    ∧ gives (.tagsetBase h db a tag) (AllReadable [a]) (fun x g => ⟨(x.reg g a).val, tag⟩)
    ∧ gives (.taggetBase h db a) any (fun x g => ⟨(x.reg g a).tag.code.setWidth 64, .i64⟩)

/-- R124, R126, R127, R128: an s register is written once, from the lowest active fibre, and not at all without one;
TAGSET.FL puts the low five bits of its operand into the sticky flags, TAGGET.FL reads them (R134: once they have landed). -/
def Sys2Proof.Machine.ScalarMovesAndStickyFlags : Prop :=
  ∀ (s : State) (x : Issue) (h : Head) (n db : BitVec 6) (d : Dst) (a : Src) (tag : Fmt),
    let low := x.active.headD 0
    (Issues s (.movs h n a) noExtra x → exec (.movs h n a) s = .next (x.completeOnce s x.ply (some (x.reg low a))))
    ∧ (Issues s (.movsBase h db a) noExtra x →
        exec (.movsBase h db a) s = .next (x.completeOnce s x.ply (some (x.reg low a))))
    ∧ (Issues s (.tagset h (.s n) a tag) noExtra x → Readable x low a →
        exec (.tagset h (.s n) a tag) s = .next (x.completeOnce s x.ply (some ⟨(x.reg low a).val, tag⟩)))
    ∧ (Issues s (.tagget h (.s n) a) noExtra x →
        exec (.tagget h (.s n) a) s = .next (x.completeOnce s x.ply (some ⟨(x.reg low a).tag.code.setWidth 64, .i64⟩)))
    ∧ (Issues s (.tagsetFl h a) noExtra x → x.flagsPending = false →
        (∀ g ∈ x.active, Holds x g .i64 a ∨ Holds x g .raw a) →
        exec (.tagsetFl h a) s = .next (x.finish s (x.ply.modFibres x.active fun f y =>
          { y with flags := (x.reg f a).val.setWidth 5 }) [] []))
    ∧ (Issues s (.taggetFl h d) noExtra x → x.flagsPending = false → (∀ k, d ≠ .s k) →
        exec (.taggetFl h d) s = .next (x.complete s fun f =>
          { d := some ⟨(x.view.fibre f).flags.setWidth 64, .i64⟩ }))
    ∧ (Issues s (.taggetFl h (.s n)) noExtra x → x.flagsPending = false →
        exec (.taggetFl h (.s n)) s = .next (x.completeOnce s x.ply
          (some ⟨(x.view.fibre low).flags.setWidth 64, .i64⟩)))

/-! ### Floating point -/

namespace Sys2Proof.Machine

/-- `n · 2^e ≤ m · 2^f`, without fractions. -/
def leScaled (n : Nat) (e : Int) (m : Nat) (f : Int) : Prop :=
  n * 2 ^ (e - min e f).toNat ≤ m * 2 ^ (f - min e f).toNat

/-- The magnitude of pattern `k` of a format, as a significand; the pattern of infinity stands for the next power of
two.  Its exponent is `patExp`. -/
def patSig (b : Bin) (k : Nat) : Nat := if k / 2 ^ b.f = 0 then k else k % 2 ^ b.f + 2 ^ b.f
def patExp (b : Bin) (k : Nat) : Int := b.emin - b.f + ((k / 2 ^ b.f - 1 : Nat) : Int)

/-- The four binary formats (R113). -/
def IsBin (b : Bin) : Prop := b = bin64 ∨ b = bin32 ∨ b = bin16 ∨ b = binB16

/-- R119: `bits` is what a mode makes of a magnitude that stands at or above pattern `k` and below pattern `k + 1`;
`atK` says that it is that of `k`, `above` that it is above the middle, `mid` that it is the middle. -/
def ModeChoice (b : Bin) (mode : Rnd) (neg : Bool) (k : Nat) (atK above mid : Prop) (bits : Nat) : Prop :=
  let low := b.zero neg + k
  let high := b.zero neg + k + 1
  (atK → bits = low)
  ∧ (¬ atK → mode = .rz → bits = low)
  ∧ (¬ atK → mode = .ru → bits = if neg then low else high)
  ∧ (¬ atK → mode = .rd → bits = if neg then high else low)
  ∧ (above ∨ (mid ∧ k % 2 = 1) → mode = .rne → bits = high)
  ∧ (¬ atK → ¬ above → ¬ (mid ∧ k % 2 = 1) → mode = .rne → bits = low)
  ∧ (above ∨ mid → mode = .rna → bits = high)
  ∧ (¬ atK → ¬ above → ¬ mid → mode = .rna → bits = low)

/-- No trap is enabled that the flags of an instruction of pipe P1 could meet (R122). -/
def NoTraps (x : Issue) : Prop := x.ply.te = 0 ∨ x.nox = true

/-- The table gives what the instruction answers where no trap can be met. -/
def Completing : Reading := fun i ok res => CompletesAt i (fun s x => ok s x ∧ NoTraps x) res

/-- R122, of the same table: the fibres that raise a flag whose trap is enabled park with cause 0x21, with the OR of their flags
in eaux; their sticky flags take what each raised, and nothing of their results is on its way; the others complete. -/
def Trapping : Reading := fun i ok res =>
  ∀ s x, Issues s i noExtra x → ok s x → x.hub = false → x.nox = false → (∀ g ∈ x.active, g < x.ply.fibres.length) →
    ∃ r : Nat → LaneOut, (∀ g ∈ x.active, res x g (r g)) ∧
      let parks := x.active.filter fun g => (r g).flags &&& x.ply.te != 0
      let all := (parks.map fun g => (r g).flags).foldl (· ||| ·) 0
      ∃ t q, exec i s = .next t ∧ t.ply x.ply.handle = some q ∧ q.s = x.ply.s
        ∧ (∀ g, (q.fibre g).v = (x.ply.fibre g).v ∧ (q.fibre g).pred = (x.ply.fibre g).pred)
        ∧ q.flight = (((x.active.filter (!parks.contains ·)).map fun g => (g, r g)).foldl x.emitLane x.ply).flight
        ∧ (∀ g ∈ parks, (q.fibre g).flags = (x.ply.fibre g).flags ||| (r g).flags ∧ (q.fibre g).eaux = all.setWidth 64)
        ∧ (parks ≠ [] → ∃ k ∈ q.courses, k.fibres = x.course.fibres.filter (parks.contains ·) ∧ k.run = x.course.run
            ∧ ∃ n m l, k.phase = .parked 0x21 n m l)

/-- The number that a fibre reads in a sub-element, after FTZ (R113, R121). -/
def num (x : Issue) (g : Nat) (f : Fmt) (src : Src) (e : Nat) : Num := (binOf f).decodeFtz x.ftz (elem x g f src e)

/-- A part of a CF32 value as a fibre reads it (R116, R148): 0 real, 1 imaginary. -/
def part (x : Issue) (g : Nat) (src : Src) (k : Nat) : Num :=
  bin32.decodeFtz x.ftz (bitsOf (x.lanes g .cf32 src) (32 * k) 32)

/-- A result register and flags from the results of its sub-elements, SAT applied after rounding (R130, R120). -/
def FloatResult (x : Issue) (f : Fmt) (o : LaneOut) (r : Nat → Res) : Prop :=
  ∃ v : Word, o = { d := some ⟨v, f⟩, flags := o.flags }
    ∧ (∀ e < f.subs, subAt f v.toNat e = ((binOf f).saturate x.sat (r e)).bits % 2 ^ f.width)
    ∧ ∀ k < 5, o.flags.getLsbD k = true ↔ ∃ e < f.subs, ((binOf f).saturate x.sat (r e)).flags.getLsbD k = true

/-- A result of two parts (R148). -/
def ComplexResult (x : Issue) (o : LaneOut) (re im : Res) : Prop :=
  ∃ v : Word, o = { d := some ⟨v, .cf32⟩, flags := (bin32.saturate x.sat re).flags ||| (bin32.saturate x.sat im).flags }
    ∧ v = BitVec.ofNat 64 ((bin32.saturate x.sat re).bits + (bin32.saturate x.sat im).bits * 2 ^ 32)

end Sys2Proof.Machine

/-- R119, R120: a finite magnitude rounds to one of its two neighbours, the one that the mode names; past the last finite
pattern it overflows as the mode says.  (FTZ off.) -/
def Obligations.RoundingPicksTheNeighbourOfTheMode : Prop :=
  ∀ (b : Bin) (mode : Rnd) (neg : Bool) (m : Nat) (e : Int), IsBin b → mode ≠ .inherit → m ≠ 0 →
    (∀ k, k < b.top * 2 ^ b.f → leScaled (patSig b k) (patExp b k) m e →
      ¬ leScaled (patSig b (k + 1)) (patExp b (k + 1)) m e →
      ModeChoice b mode neg k (leScaled m e (patSig b k) (patExp b k))
        (¬ leScaled m e (patSig b k + patSig b (k + 1) * 2 ^ (patExp b (k + 1) - patExp b k).toNat) (patExp b k - 1))
        (leScaled m e (patSig b k + patSig b (k + 1) * 2 ^ (patExp b (k + 1) - patExp b k).toNat) (patExp b k - 1)
          ∧ leScaled (patSig b k + patSig b (k + 1) * 2 ^ (patExp b (k + 1) - patExp b k).toNat) (patExp b k - 1) m e)
        (b.round mode false neg m e false).bits)
    ∧ (leScaled (patSig b (b.top * 2 ^ b.f)) (patExp b (b.top * 2 ^ b.f)) m e →
      (b.round mode false neg m e false).bits = b.overflowed mode neg
      ∧ (b.round mode false neg m e false).flags = fOverflow ||| fInexact)

/-- The results of the arithmetic instructions: exact sums and products, quotient and root, rounded once (R147). -/
def Sys2Proof.Machine.FloatArithmetic (C : Reading) : Prop :=
  ∀ (h : Head) (d : Dst) (db : BitVec 6) (a b c : Src) (f : Fmt) (rnd : Rnd),
    let long (i : Instr) (f : Fmt) (srcs : List Src) (r : Issue → Nat → Nat → Res) : Prop :=
      C i (fun _ x => AllHold f srcs x) fun x g o => FloatResult x f o (r x g)
    let base (i : Instr) (allow : Fmt → Bool) (r : Issue → Fmt → Nat → Nat → Res) : Prop :=
      C i (fun _ x => BaseHold allow [a, b] x) fun x g o =>
        x.baseFmt g [a, b] ≠ .cf32 → FloatResult x (x.baseFmt g [a, b]) o (r x (x.baseFmt g [a, b]) g)
    let N (x : Issue) (f : Fmt) (g e : Nat) (q : Src) : Num := num x g f q e
    (f.isFlt4 = true →
      long (.fadd h d a b f rnd) f [a, b]
        (fun x g e => (binOf f).sum (x.rnd rnd) x.ftz [(N x f g e a).term, (N x f g e b).term])
      ∧ long (.fsub h d a b f rnd) f [a, b]
        (fun x g e => (binOf f).sum (x.rnd rnd) x.ftz [(N x f g e a).term, (N x f g e b).neg.term])
      ∧ long (.fmul h d a b f rnd) f [a, b] (fun x g e => (binOf f).sum (x.rnd rnd) x.ftz [(N x f g e a).times (N x f g e b)])
      ∧ long (.fma h d a b c f) f [a, b, c] (fun x g e =>
        (binOf f).sum (x.rnd .inherit) x.ftz [(N x f g e a).times (N x f g e b), (N x f g e c).term])
      ∧ long (.fdiv h d a b f rnd) f [a, b] (fun x g e => (binOf f).div (x.rnd rnd) x.ftz (N x f g e a) (N x f g e b))
      ∧ long (.fsqrt h d a f rnd) f [a] (fun x g e => (binOf f).sqrt (x.rnd rnd) x.ftz (N x f g e a)))
    ∧ base (.faddBase h db a b) Fmt.isFlt5
        (fun x f g e => (binOf f).sum (x.rnd .inherit) x.ftz [(N x f g e a).term, (N x f g e b).term])
    ∧ base (.fsubBase h db a b) Fmt.isFlt5
        (fun x f g e => (binOf f).sum (x.rnd .inherit) x.ftz [(N x f g e a).term, (N x f g e b).neg.term])
    ∧ base (.fmulBase h db a b) Fmt.isFlt5
        (fun x f g e => (binOf f).sum (x.rnd .inherit) x.ftz [(N x f g e a).times (N x f g e b)])

/-- R147: the results of the arithmetic instructions: exact sums and products, quotient and root, rounded once. -/
def Sys2Proof.Machine.FloatArithmeticRoundsOnce : Prop := FloatArithmetic Completing

/-- The results of the complex instructions: both parts rounded once (R148). -/
def Sys2Proof.Machine.ComplexArithmetic (C : Reading) : Prop :=
  ∀ (h : Head) (d : Dst) (a b c : Src) (rnd : Rnd),
    let R (x : Issue) (g : Nat) (q : Src) : Num := part x g q 0
    let I (x : Issue) (g : Nat) (q : Src) : Num := part x g q 1
    let gives (i : Instr) (srcs : List Src) (rnd : Rnd) (re im : Issue → Nat → List Term) : Prop :=
      C i (fun _ x => AllHold .cf32 srcs x) fun x g o =>
        ComplexResult x o (bin32.sum (x.rnd rnd) x.ftz (re x g)) (bin32.sum (x.rnd rnd) x.ftz (im x g))
    gives (.fadd h d a b .cf32 rnd) [a, b] rnd (fun x g => [(R x g a).term, (R x g b).term])
        (fun x g => [(I x g a).term, (I x g b).term])
    ∧ gives (.fsub h d a b .cf32 rnd) [a, b] rnd (fun x g => [(R x g a).term, (R x g b).neg.term])
        (fun x g => [(I x g a).term, (I x g b).neg.term])
    ∧ gives (.fmul h d a b .cf32 rnd) [a, b] rnd
        (fun x g => [(R x g a).times (R x g b), (I x g a).neg.times (I x g b)])
        (fun x g => [(R x g a).times (I x g b), (I x g a).times (R x g b)])
    ∧ gives (.fma h d a b c .cf32) [a, b, c] .inherit
        (fun x g => [(R x g a).times (R x g b), (I x g a).neg.times (I x g b), (R x g c).term])
        (fun x g => [(R x g a).times (I x g b), (I x g a).times (R x g b), (I x g c).term])

/-- R148, R150: the complex instructions give both parts rounded once; FNEG inverts both signs. -/
def Sys2Proof.Machine.ComplexArithmeticRoundsEachPart : Prop :=
  ComplexArithmetic Completing
    ∧ ∀ (h : Head) (d : Dst) (a : Src), CompletesLane (.fneg h d a .cf32) (AllHold .cf32 [a]) (fun x g o => ∃ v : Word, OnlyReg o ⟨v, .cf32⟩ ∧ ∀ k < 64,
        v.getLsbD k = ((BitVec.ofNat 64 (x.lanes g .cf32 a)).getLsbD k ^^ (k == 31 || k == 63)))

/-- The results of FMIN and FMAX, their base forms, and FCMP (R149, R151). -/
def Sys2Proof.Machine.FloatSelection (C : Reading) : Prop :=
  ∀ (h : Head) (d : Dst) (db : BitVec 6) (a b : Src) (f : Fmt) (cond : BitVec 3) (pn : BitVec 4) (any : Bool),
    let pick (lesser : Bool) (x : Issue) (f : Fmt) (g e : Nat) (v : Nat) : Prop :=
      let A := num x g f a e
      let B := num x g f b e
      (A.isNan = true → B.isNan = true → v = (binOf f).nan)
      ∧ (x.ftz = false → A.isNan = false → B.isNan = true → v = elem x g f a e)
      ∧ (x.ftz = false → A.isNan = true → B.isNan = false → v = elem x g f b e)
      ∧ (x.ftz = false → A.isNan = false → B.isNan = false → A.cmp B = -1 →
          v = if lesser then elem x g f a e else elem x g f b e)
      ∧ (x.ftz = false → A.isNan = false → B.isNan = false → A.cmp B = 1 →
          v = if lesser then elem x g f b e else elem x g f a e)
    let invalid (x : Issue) (f : Fmt) (g : Nat) (o : LaneOut) : Prop :=
      (o.flags = 1 ↔ ∃ e < f.subs, (num x g f a e).isSnan = true ∨ (num x g f b e).isSnan = true) ∧ (o.flags = 1 ∨ o.flags = 0)
    let long (i : Instr) (lesser : Bool) : Prop :=
      C i (fun _ x => AllHold f [a, b] x) fun x g o => invalid x f g o ∧
        ∃ v : Word, o.d = some ⟨v, f⟩ ∧ ∀ e < f.subs, pick lesser x f g e (subAt f v.toNat e)
    let base (i : Instr) (lesser : Bool) : Prop :=
      C i (fun _ x => BaseHold Fmt.isFlt4 [a, b] x) fun x g o =>
        let f := x.baseFmt g [a, b]
        invalid x f g o ∧ ∃ v : Word, o.d = some ⟨v, f⟩ ∧ ∀ e < f.subs, pick lesser x f g e (subAt f v.toNat e)
    f.isFlt4 = true →
    long (.fmin h d a b f) true ∧ long (.fmax h d a b f) false
    ∧ base (.fminBase h db a b) true ∧ base (.fmaxBase h db a b) false
    ∧ C (.fcmp h d a b f cond pn any) (fun _ x => AllHold f [a, b] x) (fun x g o =>
        let nan (e : Nat) : Prop := (num x g f a e).isNan = true ∨ (num x g f b e).isNan = true
        let snan (e : Nat) : Prop := (num x g f a e).isSnan = true ∨ (num x g f b e).isSnan = true
        let c (e : Nat) : Int := (num x g f a e).cmp (num x g f b e)
        let truth (e : Nat) : Prop :=
          if cond = 0 then ¬ nan e ∧ c e = 0 else if cond = 1 then nan e ∨ c e ≠ 0 else if cond = 2 then ¬ nan e ∧ c e < 0
          else if cond = 3 then ¬ nan e ∧ c e ≤ 0 else if cond = 4 then ¬ nan e ∧ 0 < c e
          else if cond = 5 then ¬ nan e ∧ 0 ≤ c e else if cond = 6 then nan e else ¬ nan e
        (o.flags = 1 ↔ ∃ e < f.subs, snan e ∨ (2 ≤ cond.toNat ∧ cond.toNat ≤ 5 ∧ nan e)) ∧ (o.flags = 1 ∨ o.flags = 0)
        ∧ ∃ v : Word, o.d = some ⟨v, f.index⟩
          ∧ (∀ e < f.subs, (truth e → subAt f v.toNat e = 2 ^ f.width - 1) ∧ (¬ truth e → subAt f v.toNat e = 0))
          ∧ (any = true → (o.pred = some true ↔ ∃ e < f.subs, truth e))
          ∧ (any = false → (o.pred = some true ↔ ∀ e < f.subs, truth e)))

/-- R149, R150, R151: FMIN and FMAX, their base forms, FABS, FNEG and FCMP. -/
def Obligations.FloatSelectionSignsAndComparison : Prop :=
  FloatSelection Completing ∧ ∀ (h : Head) (d : Dst) (a : Src) (f : Fmt), f.isFlt4 = true →
    CompletesLane (.fabs h d a f) (AllHold f [a]) (fun x g o => SubResult f o fun e v =>
        v = elem x g f a e % 2 ^ (f.width - 1))
    ∧ CompletesLane (.fneg h d a f) (AllHold f [a]) (fun x g o => SubResult f o fun e v =>
        v = elem x g f a e ^^^ 2 ^ (f.width - 1))

/-- The results of FDOT, the special functions and the conversions of floating-point numbers (R152, R154, R156 to R158). -/
def Sys2Proof.Machine.FloatConversions (C : Reading) : Prop :=
  ∀ (h : Head) (d : Dst) (a b c : Src) (f sf : Fmt) (ui hi : Bool) (rnd : Rnd),
    let special (i : Instr) (fn : SpecFn) : Prop :=
      C i (fun _ x => AllHold f [a] x) fun x g o =>
        FloatResult x f o fun e => fn.eval (binOf f) x.ftz (num x g f a e)
    (f.isHalf = true → C (.fdot h d a b c f) (fun _ x => AllHold f [a, b] x ∧ AllHold .f32 [c] x)
      fun x g o => FloatResult x .f32 o fun j => bin32.sum (x.rnd .inherit) x.ftz
        [(num x g .f32 c j).term, (num x g f a (2 * j)).times (num x g f b (2 * j)),
          (num x g f a (2 * j + 1)).times (num x g f b (2 * j + 1))])
    ∧ (f.isFlt4 = true →
      special (.rcp h d a f) .rcp ∧ special (.rsqrt h d a f) .rsqrt ∧ special (.exp2 h d a f) .exp2
      ∧ special (.log2 h d a f) .log2 ∧ special (.sin h d a f) .sin ∧ special (.cos h d a f) .cos
      ∧ special (.tanh h d a f) .tanh)
    ∧ (f.isFlt4 = true → sf.isInt = true → f.width = sf.width →
      C (.cvt h d a f ui rnd sf) (fun _ x => AllHold sf [a] x) fun x g o =>
        FloatResult x f o fun e => (binOf f).convert (x.rnd rnd) x.ftz (numOfInt (intElem x g sf ui a e)))
    ∧ (f.isFlt4 = true → sf.isFlt4 = true → f.width = sf.width →
      C (.cvt h d a f ui rnd sf) (fun _ x => AllHold sf [a] x) fun x g o =>
        FloatResult x f o fun e => if f = sf then (binOf f).toIntegral (x.rnd rnd) (num x g sf a e)
          else (binOf f).convert (x.rnd rnd) x.ftz (num x g sf a e))
    ∧ (f.isInt = true → sf.isFlt4 = true → f.width = sf.width →
      C (.cvt h d a f ui rnd sf) (fun _ x => AllHold sf [a] x) fun x g o =>
        let r (e : Nat) : Int × FlagBits := toInteger (x.rnd rnd) (intLo ui f.width) (intHi ui f.width) (num x g sf a e)
        (∀ k < 5, o.flags.getLsbD k = true ↔ ∃ e < f.subs, (r e).2.getLsbD k = true)
        ∧ ∃ v : Word, o.d = some ⟨v, f⟩ ∧ ∀ e < f.subs, readInt ui f.width (subAt f v.toNat e) = (r e).1)
    ∧ (f.isFlt4 = true → f ≠ .f64 →
      C (.pack h d a b f ui rnd) (fun _ x => AllHold f.packSrc [a, b] x) fun x g o =>
        FloatResult x f o fun e => (binOf f).convert (x.rnd rnd) x.ftz
          (if e < f.packSrc.subs then num x g f.packSrc a e else num x g f.packSrc b (e - f.packSrc.subs)))
    ∧ (f.isFlt4 = true → f ≠ .f64 →
      C (.unpack h d a f ui hi) (fun _ x => AllHold f [a] x) fun x g o =>
        let r (e : Nat) : Res := (binOf (unpackDst f)).convert .rne false (num x g f a (if hi then e + f.subs / 2 else e))
        (∀ k < 5, o.flags.getLsbD k = true ↔ ∃ e < (unpackDst f).subs, (r e).flags.getLsbD k = true)
        ∧ ∃ v : Word, o.d = some ⟨v, unpackDst f⟩ ∧ ∀ e < (unpackDst f).subs,
          subAt (unpackDst f) v.toNat e = (r e).bits % 2 ^ (unpackDst f).width)

/-- R152, R154, R156, R157, R158: FDOT, the special functions and the conversions. -/
def Sys2Proof.Machine.DotSpecialFunctionsAndConversions : Prop :=
  FloatConversions Completing ∧ ∀ (h : Head) (d : Dst) (a b : Src) (f : Fmt) (ui hi : Bool) (rnd : Rnd),
    (f.isInt = true → f ≠ .i64 → CompletesLane (.pack h d a b f ui rnd) (AllHold f.packSrc [a, b]) fun x g o =>
        SubResult f o fun e v => Narrowed x.sat ui f.width
          (if e < f.packSrc.subs then intElem x g f.packSrc ui a e else intElem x g f.packSrc ui b (e - f.packSrc.subs)) v)
    ∧ (f.isInt = true → f ≠ .i64 → CompletesLane (.unpack h d a f ui hi) (AllHold f [a]) fun x g o =>
        SubResult (unpackDst f) o fun e v =>
          readInt ui (unpackDst f).width v = intElem x g f ui a (if hi then e + f.subs / 2 else e))
    ∧ (f = .gq8 ∨ f = .gq4 → CompletesLane (.unpack h d a f ui hi) (AllHold f [a]) fun x g o =>
        SubResult (unpackDst f) o fun e v => v = elem x g f a (if hi then e + f.subs / 2 else e))

/-- R154: the special values of the special functions. -/
def Sys2Proof.Machine.SpecialFunctionsHaveTheirSpecialValues : Prop :=
  ∀ (b : Bin) (ftz neg sig : Bool) (e : Int) (m : Nat), IsBin b → 0 < m →
    (∀ fn : SpecFn, fn.eval b ftz (.nan sig) = ⟨b.nan, if sig then fInvalid else 0⟩)
    ∧ SpecFn.rcp.eval b ftz (.fin neg 0 e) = ⟨b.inf neg, fDivZero⟩ ∧ SpecFn.rcp.eval b ftz (.inf neg) = ⟨b.zero neg, 0⟩
    ∧ SpecFn.rsqrt.eval b ftz (.fin neg 0 e) = ⟨b.inf neg, fDivZero⟩
    ∧ SpecFn.rsqrt.eval b ftz (.inf false) = ⟨b.zero false, 0⟩
    ∧ SpecFn.exp2.eval b ftz (.inf true) = ⟨b.zero false, 0⟩ ∧ SpecFn.exp2.eval b ftz (.inf false) = ⟨b.inf false, 0⟩
    ∧ SpecFn.exp2.eval b ftz (.fin neg 0 e) = ⟨b.one, 0⟩
    ∧ SpecFn.log2.eval b ftz (.fin neg 0 e) = ⟨b.inf true, fDivZero⟩
    ∧ SpecFn.log2.eval b ftz (.fin true m e) = ⟨b.nan, fInvalid⟩
    ∧ SpecFn.log2.eval b ftz (.inf false) = ⟨b.inf false, 0⟩
    ∧ SpecFn.log2.eval b ftz (.fin false 1 0) = ⟨b.zero false, 0⟩
    ∧ SpecFn.sin.eval b ftz (.inf neg) = ⟨b.nan, fInvalid⟩ ∧ SpecFn.cos.eval b ftz (.inf neg) = ⟨b.nan, fInvalid⟩
    ∧ SpecFn.sin.eval b ftz (.fin neg 0 e) = ⟨b.zero neg, 0⟩ ∧ SpecFn.cos.eval b ftz (.fin neg 0 e) = ⟨b.one, 0⟩
    ∧ SpecFn.tanh.eval b ftz (.fin neg 0 e) = ⟨b.zero neg, 0⟩
    ∧ SpecFn.tanh.eval b ftz (.inf neg) = ⟨b.zero neg + b.one, 0⟩

/-! ### Cross-lane and modular operations -/

namespace Sys2Proof.Machine

/-- R159: the segment length. -/
def segment (x : Issue) (f : Fmt) (seg : Nat) : Nat :=
  if seg = 0 ∨ x.ply.width * f.subs ≤ 2 ^ seg then x.ply.width * f.subs else 2 ^ seg

/-- R160: element `j` of the ply, where its fibre is active. -/
def available (x : Issue) (j : Nat) (f : Fmt) : Bool := x.active.contains (j / f.subs)

/-- R160: an element as SHFL, BCAST, SWIZ and HPERM read it. -/
def laneElem (x : Issue) (f : Fmt) (src : Src) (j : Nat) : Nat :=
  if available x j f then elem x (j / f.subs) f src (j % f.subs) else 0

/-- R160, R164: the elements of positions `lo` to below `hi` that are available. -/
def availElems (x : Issue) (f : Fmt) (src : Src) (lo hi : Nat) : List Nat :=
  ((List.range (hi - lo)).map (lo + ·)).filter (available x · f) |>.map fun j => elem x (j / f.subs) f src (j % f.subs)

/-- A uniform source (R161). -/
def UniformCtl (x : Issue) (src : Src) : Prop :=
  x.active ≠ [] → (Holds x (x.active.headD 0) .i64 src ∨ Holds x (x.active.headD 0) .raw src)

/-- The modulus register that a QSET of a legal modulus loads, of a format's width (R169, R176). -/
def ModOk (x : Issue) (n : Nat) (f : Fmt) : Prop :=
  ∃ q, qsetValue f q = some (x.modulus n)

/-- The modulus. -/
def modQ (x : Issue) (n : Nat) : Nat := (x.modulus n).q.toNat

/-- R170: a residue as an operation takes it, and whether it raises invalid. -/
def taken (x : Issue) (n : Nat) (g : Nat) (f : Fmt) (src : Src) (e : Nat) : Nat := elem x g f src e % modQ x n

end Sys2Proof.Machine

/-- R162, R163, R166, R182, R159, R160: which element every lane receives; of HPERM, where the two computations agree
(R180). -/
def Obligations.PermutationsDeliverTheNamedElement : Prop :=
  ∀ (h : Head) (d : Dst) (a b : Src) (f : Fmt) (seg : BitVec 4) (seg3 : BitVec 3) (pat : BitVec 8),
    let hold (x : Issue) : Prop := AllHold f [a] x
    let givesAt (i : Instr) (ok : State → Issue → Prop) (from_ : Issue → Nat → Nat → Nat) : Prop :=
      CompletesAt i (fun s x => hold x ∧ ok s x) fun x g o =>
        SubResult f o fun e v => v = laneElem x f a (from_ x g (f.subs * g + e))
    let gives (i : Instr) (ok : Issue → Prop) (from_ : Issue → Nat → Nat → Nat) : Prop := givesAt i (fun _ => ok) from_
    let G (x : Issue) : Nat := segment x f seg.toNat
    let base (x : Issue) (y : Nat) : Nat := y / G x * G x
    let B (x : Issue) : Nat := (x.uniform b).toNat
    let uni (x : Issue) : Prop := UniformCtl x b
    f ≠ .poison →
    gives (.shfl h d a b f 0 seg) (AllHold f.index [b])
      (fun x g y => base x y + elem x g f.index b (y % f.subs) % G x)
    ∧ gives (.shfl h d a b f 1 seg) uni (fun x _ y => if base x y + B x ≤ y then y - B x else y)
    ∧ gives (.shfl h d a b f 2 seg) uni (fun x _ y => if y + B x < base x y + G x then y + B x else y)
    ∧ gives (.shfl h d a b f 3 seg) uni (fun x _ y => y ^^^ (B x % G x))
    ∧ gives (.bcast h d a b f seg) uni (fun x _ y => base x y + B x % G x)
    ∧ gives (.swiz h d a f pat) (fun _ => True) (fun _ _ y => y / 4 * 4 + (pat.toNat >>> (2 * (y % 4))) % 4)
    ∧ givesAt (.hperm h d a b f seg3) (fun s x => AllHold f.index [b] x ∧ x.strayed s = false)
      (fun x g y => let n := segment x f seg3.toNat
        y / n * n + elem x g f.index b (y % f.subs) % n)

/-- The results of LREDUCE and LSCAN (R164, R165). -/
def Sys2Proof.Machine.ReductionsAndScans (C : Reading) : Prop :=
  ∀ (h : Head) (d : Dst) (a : Src) (f : Fmt) (ui excl : Bool) (op : BitVec 3) (seg : BitVec 4) (rnd : Rnd),
    let G (x : Issue) : Nat := segment x f seg.toNat
    let gives (i : Instr) (lo hi : Issue → Nat → Nat) : Prop :=
      C i (fun _ x => AllHold f [a] x) fun x g o =>
        let r (e : Nat) : Res := combine f ui op (x.rnd rnd) x.sat x.ftz
          (availElems x f a (lo x (f.subs * g + e)) (hi x (f.subs * g + e)))
        (∀ k < 5, o.flags.getLsbD k = true ↔ ∃ e < f.subs, (r e).flags.getLsbD k = true)
        ∧ ∃ v : Word, o.d = some ⟨v, f⟩ ∧ ∀ e < f.subs, subAt f v.toNat e = (r e).bits % 2 ^ f.width
    gives (.lreduce h d a f ui op seg rnd) (fun x y => y / G x * G x) (fun x y => y / G x * G x + G x)
    ∧ gives (.lscan h d a f ui op seg excl rnd) (fun x y => y / G x * G x) (fun _ y => if excl then y else y + 1)

/-- R164, R165, R160: LREDUCE and LSCAN combine the available elements of the segment, or of its part up to the
element. -/
def Sys2Proof.Machine.ReductionsAndScansCombineSegments : Prop := ReductionsAndScans Completing

/-- R164, R165: the combination of integer elements, and of none. -/
def Sys2Proof.Machine.IntegerCombinationIsExact : Prop :=
  ∀ (f : Fmt) (ui : Bool) (mode : Rnd) (sat : BitVec 2) (ftz : Bool) (l : List Nat), f.isInt = true →
    (∀ y ∈ l, y < 2 ^ f.width) →
    let r (op : BitVec 3) : Nat := (combine f ui op mode sat ftz l).bits
    let rd (y : Nat) : Int := readInt ui f.width y
    (l ≠ [] → Narrowed sat ui f.width ((l.map rd).foldl (· + ·) 0) (r 0))
    ∧ (l ≠ [] → r 1 ∈ l ∧ ∀ y ∈ l, rd (r 1) ≤ rd y) ∧ (l ≠ [] → r 2 ∈ l ∧ ∀ y ∈ l, rd y ≤ rd (r 2))
    ∧ (∀ k < f.width, (r 3).testBit k = l.all (Nat.testBit · k))
    ∧ (∀ k < f.width, (r 4).testBit k = l.any (Nat.testBit · k))
    ∧ (∀ k < f.width, (r 5).testBit k = (l.map (Nat.testBit · k)).foldl (· ^^ ·) false)
    ∧ (l = [] → r 0 = 0 ∧ rd (r 1) = intHi ui f.width ∧ rd (r 2) = intLo ui f.width)

/-- The results of the modular instructions with a modulus that QSET loaded: the residue of the exact result, below the
modulus; an operand that is not below it raises invalid (R170, R177, R179). -/
def Sys2Proof.Machine.ModularResults (T : Reading) : Prop :=
  ∀ (h : Head) (d : Dst) (dv : BitVec 8) (db : BitVec 6) (a b c : Src) (f : Fmt) (ui : Bool) (qm : BitVec 2),
    let n := qm.toNat
    let A (x : Issue) (g e : Nat) : Nat := taken x n g f a e
    let B (x : Issue) (g e : Nat) : Nat := taken x n g f b e
    let C (x : Issue) (g e : Nat) : Nat := taken x n g f c e
    let Q (x : Issue) : Nat := modQ x n
    let reg (o : Option Reg) (f : Fmt) (val : Nat → Nat) : Prop :=
      ∃ v : Word, o = some ⟨v, f⟩ ∧ ∀ e < f.subs, subAt f v.toNat e = val e
    let big (x : Issue) (g : Nat) (n : Nat) (f : Fmt) (l : List Src) : Prop :=
      ∃ e < f.subs, ∃ q ∈ l, modQ x n ≤ elem x g f q e
    let gives (i : Instr) (srcs : List Src) (val val1 : Issue → Nat → Nat → Nat) (two : Bool) : Prop :=
      T i (fun _ x => AllHold f srcs x ∧ ModOk x n f) fun x g o =>
        reg o.d f (val x g) ∧ (two = true → reg o.d1 f (val1 x g)) ∧ (two = false → o.d1 = none)
          ∧ (big x g n f srcs → o.flags = 1) ∧ (¬ big x g n f srcs → o.flags = 0)
    let base (i : Instr) (op : Nat → Nat → Nat → Nat) : Prop :=
      T i (fun _ x => BaseHold (· == f) [a, b] x ∧ ModOk x 0 f) fun x g o =>
        (big x g 0 f [a, b] → o.flags = 1) ∧ (¬ big x g 0 f [a, b] → o.flags = 0)
          ∧ reg o.d f fun e => op (modQ x 0) (taken x 0 g f a e) (taken x 0 g f b e)
    f.isQ = true →
    gives (.qadd h d a b f qm) [a, b] (fun x g e => (A x g e + B x g e) % Q x) (fun _ _ _ => 0) false
    ∧ gives (.qsub h d a b f qm) [a, b] (fun x g e => (A x g e + Q x - B x g e) % Q x) (fun _ _ _ => 0) false
    ∧ gives (.qmul h d a b f qm) [a, b] (fun x g e => A x g e * B x g e % Q x) (fun _ _ _ => 0) false
    ∧ gives (.qmac h d a b c f qm) [a, b, c] (fun x g e => (A x g e * B x g e + C x g e) % Q x) (fun _ _ _ => 0) false
    ∧ gives (.qbfly h dv a b c f qm) [a, b, c] (fun x g e => (A x g e + C x g e * B x g e) % Q x)
      (fun x g e => (A x g e + Q x * Q x - C x g e * B x g e) % Q x) true
    ∧ gives (.qibfly h dv a b c f qm) [a, b, c] (fun x g e => (A x g e + B x g e) % Q x)
      (fun x g e => C x g e * (A x g e + Q x - B x g e) % Q x) true
    ∧ base (.qaddBase h db a b) (fun q y z => (y + z) % q)
    ∧ base (.qsubBase h db a b) (fun q y z => (y + q - z) % q)
    ∧ base (.qmulBase h db a b) (fun q y z => y * z % q)

/-- R171, R176, R177, R178, R179, R170: with a modulus that QSET loaded, the modular instructions give the residue of the
exact result, below the modulus. -/
def Obligations.ModularResultsAreExactResidues : Prop :=
  ModularResults Completing ∧ ∀ (h : Head) (d : Dst) (a : Src) (f : Fmt) (ui : Bool) (qm : BitVec 2),
    let n := qm.toNat
    let Q (x : Issue) : Nat := modQ x n
    f.isQ = true →
    CompletesLane (.qred h d a f ui qm) (fun x => AllHold f.qint [a] x ∧ ModOk x n f) (fun x g o =>
        SubResult f o fun e v => (v : Int) = readInt ui f.width (elem x g f.qint a e) % (Q x : Int))
    ∧ CompletesLane (.qred h d a f ui qm) (fun x => a.isReg = true ∧ AllHold f [a] x ∧ ModOk x n f) (fun x g o =>
        SubResult f o fun e v => v = elem x g f.qint a e % Q x)

/-- The results of HAUTO (R183): the automorphism of every segment; an even number of it gives zeros, and that or an operand that
is not below the modulus raises invalid (in the fibre that holds it: the model's choice, log 67). -/
def Sys2Proof.Machine.Automorphisms (C : Reading) : Prop :=
  ∀ (h : Head) (d : Dst) (a b : Src) (f : Fmt) (qm : BitVec 2) (seg : BitVec 4), f.isQ = true →
    C (.hauto h d a b f qm seg)
      (fun s x => AllHold f [a] x ∧ UniformCtl x b ∧ ModOk x qm.toNat f ∧ x.strayed s = false
        ∧ ∃ k, segment x f seg.toNat = 2 ^ k) fun x g o =>
      let n := segment x f seg.toNat
      let kk := (x.uniform b).toNat % (2 * n)
      let q := modQ x qm.toNat
      (o.flags = 1 ↔ kk % 2 = 0 ∨ ∃ e < f.subs, q ≤ elem x g f a e) ∧ (o.flags = 1 ∨ o.flags = 0)
      ∧ ∃ v : Word, o.d = some ⟨v, f⟩
        ∧ (kk % 2 = 0 → v = 0)
        ∧ (kk % 2 = 1 → ∀ e < f.subs, ∀ i < n,
          let y := f.subs * g + e
          let coef := laneElem x f a (y / n * n + i) % q
          (i * kk % (2 * n) = y % n → subAt f v.toNat e = coef)
          ∧ (i * kk % (2 * n) = y % n + n → subAt f v.toNat e = if coef = 0 then 0 else q - coef))

/-- R183, R180: HAUTO applies the automorphism to every segment; an even number of it gives zeros and raises invalid.
Where the two computations of a permutation differ, every active fibre parks with cause 0x15, nothing is written, and the
mismatch is counted. -/
def Sys2Proof.Machine.AutomorphismMovesCoefficients : Prop :=
  ∀ (h : Head) (d : Dst) (a b : Src) (f : Fmt) (qm : BitVec 2) (seg : BitVec 4), f.isQ = true →
    let strays (i : Instr) (op : Nat) (ok : Issue → Prop) : Prop := ∀ s x, Issues s i noExtra x → ok x → x.active ≠ [] →
      x.strayed s = true → exec i s = .next (x.finish (s.caughtStray x.ply) x.ply []
        (x.active.map fun g => (g, ⟨0x15, BitVec.ofNat 64 (2 ^ 63 + op)⟩)))
    (∀ b' seg', f ≠ .poison → strays (.hperm h d a b' f seg') 0xC8 fun x => AllHold f [a] x ∧ AllHold f.index [b'] x)
    ∧ strays (.hauto h d a b f qm seg) 0xC9 (fun x => AllHold f [a] x ∧ UniformCtl x b ∧ ModOk x qm.toNat f)
    ∧ Automorphisms Completing

/-- R176: QSET loads Q, BITS, MU, WIDE and V of a legal modulus four cycles after its last beat; of another value it
clears the register and raises invalid in every active fibre; without an active fibre it does nothing. -/
def Sys2Proof.Machine.QsetLoadsTheBarrettConstant : Prop :=
  ∀ (s : State) (x : Issue) (h : Head) (a : Src) (f : Fmt) (qm : BitVec 2), f.isQ = true →
    Issues s (.qset h a f qm) noExtra x → UniformCtl x a →
    let q := (x.uniform a).toNat
    let legal : Prop := 2 ≤ q ∧ q < (if f = .q64 then 2 ^ 62 else 2 ^ 31)
    (x.active = [] → exec (.qset h a f qm) s = .next (x.finish s x.ply [] []))
    ∧ (x.active ≠ [] → legal → ∃ m : QMod, m.q.toNat = q ∧ 2 ^ (m.bits - 1) ≤ q ∧ q < 2 ^ m.bits
        ∧ m.mu.toNat = 2 ^ (2 * m.bits) / q ∧ m.wide = decide (f = .q64) ∧ m.valid = true
        ∧ exec (.qset h a f qm) s = .next (x.finish s (x.emit (x.last + 4) (.qm qm.toNat m) Reg.zero x.ply) [] []))
    ∧ (x.active ≠ [] → ¬ legal → NoTraps x →
        exec (.qset h a f qm) s = .next (x.finish s
          ((x.active.map fun g => (g, ({ flags := 1 } : LaneOut))).foldl x.emitLane
            (x.emit (x.last + 4) (.qm qm.toNat QMod.empty) Reg.zero x.ply))
          (x.active.map fun g => (g, ({ flags := 1 } : LaneOut))) []))

/-- R122, R176: where an instruction of pipe P1 raises flags whose traps are enabled, the fibres that raise them park with
cause 0x21 and the OR of their flags in eaux, keep their flags, and write no result; the others complete.  A QSET of no modulus
parks every active fibre, and leaves the modulus register as it was (the model's choice, log 68). -/
def Sys2Proof.Machine.EnabledTrapParksTheFibre : Prop :=
  FloatArithmetic Trapping ∧ ComplexArithmetic Trapping ∧ FloatSelection Trapping ∧ FloatConversions Trapping
    ∧ ReductionsAndScans Trapping ∧ ModularResults Trapping ∧ Automorphisms Trapping
    ∧ ∀ (h : Head) (a : Src) (f : Fmt) (qm : BitVec 2), f.isQ = true →
      Trapping (.qset h a f qm)
        (fun _ x => UniformCtl x a ∧ x.ply.te.getLsbD 0 = true ∧ qsetValue f (x.uniform a).toNat = none)
        fun _ _ o => o = { flags := 1 }

/-! ### The instruction stream, binds, fibres -/

namespace Sys2Proof.Machine

/-- The ply that an issue concerns, after it. -/
def After (t : State) (x : Issue) (p : Ply → Prop) : Prop := ∃ q, t.ply x.ply.handle = some q ∧ p q

/-- Wherever `i` issues as `x`, with beats that depend on its operands, and `ok` holds, it answers a next state that `res`
describes. -/
def CompletesAs (i : Instr) (adjust : State → Issue → Issue) (extra : Issue → List FaultAt) (ok : State → Issue → Prop)
    (res : State → Issue → State → Prop) : Prop :=
  ∀ s x, Issues s i extra x (adjust s) → ok s x → ∃ t, exec i s = .next t ∧ res s x t

/-- The same of an instruction whose entry fixes its beats. -/
def Completes (i : Instr) (extra : Issue → List FaultAt) (ok : State → Issue → Prop) (res : State → Issue → State → Prop) :
    Prop :=
  CompletesAs i (fun _ => id) extra ok res

/-- A course of the ply holds exactly these fibres, at `run`, in phase `ph`. -/
def Stands (q : Ply) (fs : List Nat) (run : Run) (ph : Phase) : Prop :=
  ∃ k ∈ q.courses, k.fibres = fs ∧ k.run = run ∧ k.phase = ph

/-- Fibres are parked in one course with a cause, at the run state of the issuing course, each with its eaux (R69, R49). -/
def Parked (x : Issue) (q : Ply) (fs : List Nat) (cause : Nat) (eaux : Nat → Word) : Prop :=
  (∃ k ∈ q.courses, k.fibres = fs ∧ k.run = x.course.run ∧ ∃ n m l, k.phase = .parked cause n m l)
    ∧ ∀ f ∈ fs, f < x.ply.fibres.length → (q.fibre f).eaux = eaux f

/-- Every fibre of the course starts a new run at its next address, held by the WAIT set (R66, R84). -/
def NewRuns (x : Issue) (q : Ply) (wait : BitVec 8) (next : Nat → Nat) : Prop :=
  ∀ f ∈ x.course.fibres, ∃ k ∈ q.courses, f ∈ k.fibres ∧ k.run = Run.start (next f)
    ∧ k.phase = if wait = 0 then .ready else .waitSet wait x.time

/-- No pending fault concerns the ply (R424). -/
def NoDeferred (x : Issue) : Prop := x.ply.deferred = []

/-- The registers of a ply are those it had when the instruction issued. -/
def SameRegisters (x : Issue) (q : Ply) : Prop :=
  q.s = x.ply.s ∧ q.qm = x.ply.qm ∧ q.flight = x.ply.flight ∧ q.plyCtl = x.ply.plyCtl ∧ q.tvec = x.ply.tvec
    ∧ ∀ f, (q.fibre f).v = (x.ply.fibre f).v ∧ (q.fibre f).pred = (x.ply.fibre f).pred
      ∧ (q.fibre f).flags = (x.ply.fibre f).flags ∧ (q.fibre f).tokens = (x.ply.fibre f).tokens

/-- An instruction that issues: it is a word or two of the stream, and neither a prefix nor a chart word (R12, R25, R43). -/
def Executes (i : Instr) : Prop :=
  encode i ≠ [] ∧ (∀ rnd sat ftz nox go gv, i ≠ .pfx rnd sat ftz nox go gv) ∧ ∀ ch st ix f, i ≠ .chartWord ch st ix f

/-- The beats of the data commands of the scratchpad follow their addresses (R221), those of the others their entry. -/
def ownBeats (i : Instr) (s : State) (x : Issue) : Issue :=
  match dataAddr i with
  | some ad => x.withBeats (match s.cur with | some c => c.mates | none => []) fun f => (x.addr64 f ad).toNat
  | none => x

/-- Fibres have taken a fault at the instruction: on a compute core each stands parked with its cause and eaux, at the run state of
the issuing course (R69, R49); on a hub core whose level has a handler, and on which no thread runs, the core has taken the trap
in the bank of its level (R425).  No result of the instruction is on its way to them. -/
def Faulted (x : Issue) (q : Ply) (fs : List Nat) (cause : Nat) (eaux : Word) : Prop :=
  (x.ply.hub = none → ∀ f ∈ fs,
    (∃ k ∈ q.courses, f ∈ k.fibres ∧ k.run = x.course.run ∧ ∃ n m l, k.phase = .parked cause n m l)
    ∧ (f < x.ply.fibres.length → (q.fibre f).eaux = eaux) ∧ ∀ l ∈ q.flight, l ∈ x.ply.flight ∨ l.target.fibre ≠ some f)
  ∧ ∀ hub, x.ply.hub = some hub → hub.thread = none → hub.level < 3 → (hub.bank hub.level).tvec ≠ 0 → fs = [0] →
    x.course.fibres = [0] → x.ply.courses = [x.course] →
    ∃ k, q.hub = some k ∧ k.level = hub.level ∧ (k.bank hub.level).cause = BitVec.ofNat 64 cause ∧ (k.bank hub.level).eaux = eaux
      ∧ (k.bank hub.level).epc = BitVec.ofNat 64 x.course.run.pc ∧ (k.bank hub.level).taken = true
      ∧ ∃ c, q.courses = [c] ∧ c.run = Run.start (hub.bank hub.level).tvec.toNat ∧ c.phase = .ready

/-- An operand: whether the course reads it as a whole, its source, and the values that it accepts. -/
structure Operand where
  whole : Bool
  src : Src
  ok : Reg → Bool

/-- A value in a format (R107, R108); the tag of a control operand; any tag (R109 alone judges it). -/
def inFmt (f : Fmt) (r : Reg) : Bool := r.tag == f && (r.val &&& reservedBits f) == 0
def asControl (r : Reg) : Bool := r.tag == .i64 || r.tag == .raw
def anyTag (_ : Reg) : Bool := true

/-- Sources that each fibre reads for itself, and sources that a course reads as a whole. -/
def each (ok : Reg → Bool) (l : List Src) : List Operand := l.map fun src => ⟨false, src, ok⟩
def whole (ok : Reg → Bool) (l : List Src) : List Operand := l.map fun src => ⟨true, src, ok⟩

/-- The sources of a base word: the first that is not poisoned gives the format; none is judged while one is poisoned (R132). -/
def ofBase (x : Issue) (g : Nat) (allow : Fmt → Bool) (l : List Src) : List Operand :=
  each (fun r => (l.any fun a => a.isReg && (x.reg g a).tag == .poison)
    || (r.tag == x.baseFmt g l && allow r.tag && (r.val &&& reservedBits r.tag) == 0)) l

/-- The operands that an instruction reads, in the order D, A, B, C, and what each accepts, for a fibre `g`. -/
def operands (i : Instr) (x : Issue) (g : Nat) : List Operand :=
  match i with
  | .addBase _ _ a b | .subBase _ _ a b | .mulBase _ _ a b | .mulhiIBase _ _ a b | .mulhiUiBase _ _ a b | .minIBase _ _ a b
  | .minUiBase _ _ a b | .maxIBase _ _ a b | .maxUiBase _ _ a b | .shlBase _ _ a b | .shrBase _ _ a b | .sarBase _ _ a b
  | .rotBase _ _ a b => ofBase x g Fmt.isInt [a, b]
  | .faddBase _ _ a b | .fsubBase _ _ a b | .fmulBase _ _ a b => ofBase x g Fmt.isFlt5 [a, b]
  | .fminBase _ _ a b | .fmaxBase _ _ a b => ofBase x g Fmt.isFlt4 [a, b]
  | .qaddBase _ _ a b | .qsubBase _ _ a b | .qmulBase _ _ a b => ofBase x g Fmt.isQ [a, b]
  | .andBase _ _ a b | .orBase _ _ a b | .xorBase _ _ a b => each anyTag [a, b]
  | .and _ _ a b _ | .or _ _ a b _ | .xor _ _ a b _ | .andn _ _ a b _ => each anyTag [a, b]
  | .not _ _ a _ => each anyTag [a]
  | .tagsetBase _ _ a _ => each anyTag [a]
  | .tagset _ d a _ => (match d with | .s _ => whole | _ => each) anyTag [a]
  | .movi _ d mode _ => if mode = 3 then each anyTag [dstSrc d] else []
  | .tagsetFl _ a | .pset _ a _ => each asControl [a]
  | .add _ _ a b f _ | .sub _ _ a b f _ | .mul _ _ a b f _ | .mulhi _ _ a b f _ | .div _ _ a b f _ | .rem _ _ a b f _
  | .min _ _ a b f _ | .max _ _ a b f _ => each (inFmt f) [a, b]
  | .mad _ _ a b c f _ | .fma _ _ a b c f => each (inFmt f) [a, b, c]
  | .abs _ _ a f | .neg _ _ a f | .clz _ _ a f | .popc _ _ a f | .fabs _ _ a f | .fneg _ _ a f | .rcp _ _ a f | .rsqrt _ _ a f
  | .exp2 _ _ a f | .log2 _ _ a f | .sin _ _ a f | .cos _ _ a f | .tanh _ _ a f => each (inFmt f) [a]
  | .addi _ _ a _ f _ | .fsqrt _ _ a f _ | .unpack _ _ a f _ _ | .cvt _ _ a _ _ _ f => each (inFmt f) [a]
  | .shl _ _ a b f | .shr _ _ a b f | .sar _ _ a b f | .rot _ _ a b f | .fmin _ _ a b f | .fmax _ _ a b f => each (inFmt f) [a, b]
  | .cmp _ _ a b f _ _ _ _ | .fcmp _ _ a b f _ _ _ | .fadd _ _ a b f _ | .fsub _ _ a b f _ | .fmul _ _ a b f _
  | .fdiv _ _ a b f _ => each (inFmt f) [a, b]
  | .sel _ _ a b c f => each (inFmt f) [a, b] ++ each (inFmt f.index) [c]
  | .fdot _ _ a b c f => each (inFmt f) [a, b] ++ each (inFmt .f32) [c]
  | .pack _ _ a b f _ _ => each (inFmt f.packSrc) [a, b]
  | .shfl _ _ a b f mode _ => whole (inFmt f) [a] ++ if mode = 0 then each (inFmt f.index) [b] else whole asControl [b]
  | .bcast _ _ a b f _ => whole (inFmt f) [a] ++ whole asControl [b]
  | .swiz _ _ a f _ | .lreduce _ _ a f _ _ _ _ | .lscan _ _ a f _ _ _ _ _ => whole (inFmt f) [a]
  | .hperm _ _ a b f _ => whole (inFmt f) [a] ++ whole (inFmt f.index) [b]
  | .hauto _ _ a b f _ _ => whole (inFmt f) [a] ++ whole asControl [b]
  | .qset _ a _ _ => whole asControl [a]
  | .qadd _ _ a b f _ | .qsub _ _ a b f _ | .qmul _ _ a b f _ => each (inFmt f) [a, b]
  | .qmac _ _ a b c f _ | .qbfly _ _ a b c f _ | .qibfly _ _ a b c f _ => each (inFmt f) [a, b, c]
  | .qred _ _ a f _ _ => each (fun r => (r.tag == f.qint || r.tag == f) && (r.val &&& reservedBits r.tag) == 0) [a]
  | .ldsBase _ _ a b | .stsBase _ _ a b | .ldBase _ _ a b | .stBase _ _ a b | .tset _ a b _ => each asControl [a, b]
  | .lds _ _ a _ _ | .sts _ _ a _ | .ldsfe _ _ a _ _ | .stsfe _ _ a _ | .sfe _ a _ _ | .tlook _ _ a _ _ => each asControl [a]
  | .tinv _ b _ => each asControl [b]
  | .mma _ d _ b _ _ _ | .mmai _ d _ b _ _ _ _ | .mmag _ d _ b _ _ _ _ | .mmac _ d _ b _ _ => whole asControl [d, b]
  | .ld _ _ a _ _ _ _ _ | .st _ _ a _ _ _ _ => each asControl [a]
  | .atom _ _ a b c _ op => each asControl [a] ++ each (fun r => atomBytes op.toNat r.tag != 0) [b]
      ++ if op = 10 then each (fun r => (x.reg g b).tag == .poison || r.tag == (x.reg g b).tag) [c] else []
  | .redms _ a b f _ _ => each asControl [a] ++ each (inFmt f) [b]
  | .waitv _ _ a b c _ => each asControl [a] ++ each anyTag [b] ++ each (·.tag == .i64) [c]
  | .wakev _ _ a b _ _ => each asControl [a] ++ each (·.tag == .i64) [b]
  | .racq _ _ a _ | .rtake _ _ a _ | .fork _ _ a _ | .chartrd _ _ a _ => whole asControl [a]
  | .rpub _ a b | .rrel _ a b | .barinit _ a b | .bararr _ _ a b | .barwait _ a b | .stgpost _ _ a b _ | .stgadv _ a b _
  | .npost _ _ a b _ | .ncqw _ _ a b _ _ | .launch _ _ a b _ | .atinv _ a b _ _ | .eenter _ _ a b | .ereport _ _ a b _ =>
      whole asControl [a, b]
  | .ecreate _ _ a _ | .eadd _ _ a _ | .eaddDev _ _ a _ | .einit _ _ a _
  | .edestroy _ _ a _ | .csrw _ a _ | .csrx _ _ a _ _ => whole asControl [a]
  | .eseal _ _ a _ => whole asControl ((List.range 4).map fun k => .s (a + BitVec.ofNat 6 k))
  | .eunseal _ _ a _ => whole asControl ((List.range 3).map fun k => .s (a + BitVec.ofNat 6 k))
  | .eret _ a mode => if mode = 2 then whole asControl [a] else []
  | .bindBc _ n _ _ => whole (·.tag == .i64) [.s n]
  | .bindRet _ r _ | .bindJmp _ r _ _ => each asControl [dstSrc r]
  | .accfree _ d _ | .acczero _ d _ | .mread _ _ d _ _ _ => whole asControl [d]
  | .accld _ d a _ _ _ | .accst _ d a _ _ => whole asControl [d, .s a]
  | .chartld _ a _ _ _ | .cmap _ a _ _ _ => whole asControl [.s a]
  | .copy _ d a b _ _ _ _ _ bar =>
      whole asControl (d :: (List.range 14).map fun k => .s (a + BitVec.ofNat 6 k)) ++ whole asControl (if bar then [b] else [])
  | .copyl _ d a b c _ _ bar => whole asControl [d, a, b] ++ whole asControl (if bar then [c] else [])
  | .rngset _ a b _ _ => whole asControl ((List.range 3).map fun k => .s (a + BitVec.ofNat 6 k)) ++ whole asControl [b]
  | .pgq _ _ a b _ => each asControl [a] ++ whole asControl (if b = .zero then [] else [b])
  | _ => []

/-- An operand holds, in a fibre, a value that its instruction does not accept (R107, R108); or it is poisoned (R109). -/
def Operand.Rejected (o : Operand) (x : Issue) (f : Nat) : Prop :=
  (o.src.isReg = true ∨ ∃ k, o.src = .special k ∧ k ≠ 1) ∧ (x.reg f o.src).tag ≠ .poison ∧ o.ok (x.reg f o.src) = false
def Operand.Poisoned (o : Operand) (x : Issue) (f : Nat) : Prop := o.src.isReg = true ∧ (x.reg f o.src).tag = .poison

/-- The registers of the A operand of a matrix instruction (R189). -/
def aOperand : Instr → Option (BitVec 8)
  | .mma _ _ a _ _ _ _ | .mmai _ _ a _ _ _ _ _ | .mmag _ _ a _ _ _ _ _ | .mmac _ _ a _ _ _ => some a
  | _ => none

/-- Nothing keeps the instruction at its issue, and none of the rules that judge the same stage beside its operands finds a fault:
the targets of binds and of ERET are aligned (R35, R364), a control register takes the value (R365), the block and the A registers
of a matrix instruction have the tags that it takes (R194, R198). -/
def ReadsOperands (s : State) (i : Instr) (x : Issue) : Prop :=
  (∀ q b, s.bound x.ply = some (q, b) → q.holds = false) ∧ x.flagsPending = false
  ∧ SMap.get none (s.core x.ply.core).latches x.ply.part = none
  ∧ (∀ va acc, s.xlateFor x.ply va acc ≠ .ok none) ∧ s.specOf x.ply = none
  ∧ (∀ a, aOperand i = some a → x.breachA s a.toNat (matrixForm i).n = false
    ∧ s.struck { x with sh := { x.sh with srcs := (List.range (matrixForm i).n).map fun k => .v (a + BitVec.ofNat 8 k) } } = []
    ∧ (∀ r ∈ x.readA a.toNat (matrixForm i).n, r.tag = (matrixForm i).tag)
    ∧ ∀ q w k d, x.blockOf s d = .ok (q, w, k) → s.tagAhead q k ∈ (matrixForm i).blocks ∧ s.tagAhead q k ≠ .poison)
  ∧ match i with
    | .bindRet _ r _ => ∀ f ∈ x.active, (x.reg f (dstSrc r)).val.toNat % 8 = 0
    | .bindJmp _ r _ ofs => ∀ f ∈ x.active, ((x.reg f (dstSrc r)).val + 4 * ofs.signExtend 64).toNat % 8 = 0
    | .eret _ a _ => (x.uniform a).toNat % 8 = 0 ∧ (x.ply.hub = none → ∀ f ∈ x.active, (x.ply.fibre f).handling = true)
        ∧ ∀ k, x.ply.hub = some k → (k.bank k.level).taken = true
    | .csrw _ a n => (s.csrWrite x.ply n.toNat (x.uniform a)).isSome = true
    | .csrx _ _ a n op =>
        (s.csrWrite x.ply n.toNat (csrxValue op (s.csr x.ply (x.active.headD 0) n.toNat) (x.uniform a))).isSome = true
    | _ => True

/-- No other rule finds a fault of cause 0x09 beside the registers read: the modulus register serves (R169), and a constant as the
data of an ATOM, whose tag is I64 (R254). -/
def OthersServe (i : Instr) (x : Issue) : Prop :=
  match i with
    | .qadd _ _ _ _ f m | .qsub _ _ _ _ f m | .qmul _ _ _ _ f m | .qred _ _ _ f _ m | .hauto _ _ _ _ f m _ =>
        x.needMod m.toNat [f] = []
    | .qmac _ _ _ _ _ f m | .qbfly _ _ _ _ _ f m | .qibfly _ _ _ _ _ f m => x.needMod m.toNat [f] = []
    | .qaddBase _ _ a b | .qsubBase _ _ a b | .qmulBase _ _ a b => x.needMod 0 (x.baseFmts [a, b]) = []
    | .atom _ _ _ b _ _ op => b.isReg = true ∨ atomBytes op.toNat .i64 ≠ 0
    | _ => True

/-- A bit of W1, or of W2, lies in a hole (R42, R44): in the low bits of the field that the hole names, as many as its width, or in
the whole immediate, into which the filler is sign-extended. -/
def InHole (l : Layout) (h : Hole) (second : Bool) (k : Nat) : Prop :=
  ∃ lo n, holeField l h.tgt = some (second, lo, n) ∧ lo ≤ k ∧ k < lo + if h.tgt = 5 then n else Nat.min h.wid n

/-- The target of a branch with a word offset (R35, R85). -/
def wordTarget (x : Issue) (ofs : BitVec 64) : Nat := (BitVec.ofNat 64 x.addr + 4 * ofs).toNat

end Sys2Proof.Machine

/-- R51, R58, R44: NOP passes; IFENCE clears the stale marks of a ply none of whose CHARTLDs is outstanding, once the own
stores of its fibres have performed; a chart word acts as the long instruction that its entry and its fillers make. -/
def Sys2Proof.Machine.PlainWordsOfTheStream : Prop :=
  ∀ (h : Head) (ch : Bool) (st : BitVec 2) (ix : BitVec 8) (f : BitVec 19),
    Completes (.nop h) noExtra (fun _ _ => True) (fun s x t => t = x.finish s x.ply [] [])
    ∧ Completes (.ifence h) noExtra (fun s x => s.chartldBusy x.ply.handle = false
        ∧ s.owing x.ply.handle s.nextId x.course.fibres true = false) (fun _ x t => After t x fun q =>
        q.stale = 0 ∧ SameRegisters x q)
    ∧ ∀ s x i w1 w2, s.issue (.chartWord ch st ix f) = some x →
        let e := ChartSlot.entry (s.chartOf x.ply) ix.toNat
        chartValid e = true → x.ply.stale.getLsbD (ix.toNat / 32) = false → expandEntry e ch st f.toNat = some (w1, w2) →
        decodeWords w1 w2 = .ok i → exec (.chartWord ch st ix f) s = execLong i s

/-- R44: bit by bit, what a chart word makes of its entry: inside a hole stands the bit of the filler that the hole takes there,
sign-extended in the immediate, of the last hole where several cover it; outside every hole stands the entry's bit, but for CH and
ST, which are the chart word's.  A filler bit that no hole takes is no expansion; every entry that R45 lets load has one when there
is none. -/
def Sys2Proof.Machine.ChartWordsFillOnlyTheirHoles : Prop :=
  ∀ (e : ChartEntry) (ch : Bool) (st : BitVec 2) (f : Nat),
    let taken (k : Nat) : Prop := ∃ h ∈ holesOf e, h.pos ≤ k ∧ k < h.pos + h.wid
    (∀ (l : Layout) (w1 w2 : IWord), expandEntry e ch st f = some (w1, w2) → opLayout ((chartW1 e).extractLsb' 18 9).toNat = some l →
      (∀ k, f.testBit k = true → taken k)
      ∧ ∀ second k, k < 32 →
        let bit := (if second then w2 else w1).getLsbD k
        ((∀ h ∈ holesOf e, ¬ InHole l h second k) →
          bit = if second then (chartW2 e).getLsbD k
            else if k = 29 then ch else if k = 27 then st.getLsbD 0 else if k = 28 then st.getLsbD 1 else (chartW1 e).getLsbD k)
        ∧ ∀ (pre post : List Hole) (h : Hole) (lo n : Nat), holesOf e = pre ++ h :: post → holeField l h.tgt = some (second, lo, n) →
          InHole l h second k → (∀ h' ∈ post, ¬ InHole l h' second k) → bit = f.testBit (h.pos + Nat.min (k - lo) (h.wid - 1)))
    ∧ (chartValid e = true → entryLoads e = true → ((∀ k, f.testBit k = true → taken k) ↔ (expandEntry e ch st f).isSome = true))

/-- R25, R26, R44: a prefix that its next instruction can use, given by its words or by a chart word, joins the run state
and changes nothing else. -/
def Sys2Proof.Machine.PrefixJoinsTheRunState : Prop :=
  ∀ (s : State) (cur : Cursor) (p : Ply) (c : Course) (w i : Instr) (n : Nat) (rnd : Rnd) (sat : BitVec 2) (ftz nox : Bool)
    (go : BitVec 5) (gv : Bool),
    s.cur = some cur → s.ply cur.ply = some p → p.course cur.course = some c → s.look p (cur.addr + 4) = .found w n →
    (∀ rnd sat ftz nox go gv, w ≠ .pfx rnd sat ftz nox go gv) → s.standsFor p w = some i →
    orphanBefore ⟨rnd, sat, ftz, nox, go, gv, cur.addr⟩ (shapeOf i) = false →
    ∃ t q k, exec (.pfx rnd sat ftz nox go gv) s = .next t ∧ t.ply cur.ply = some q ∧ q.course cur.course = some k
      ∧ k.run = { c.run with pc := cur.addr + 4, pfx := some ⟨rnd, sat, ftz, nox, go, gv, cur.addr⟩ }
      ∧ k.fibres = c.fibres ∧ q.fibres = p.fibres ∧ q.s = p.s ∧ q.flight = p.flight ∧ t.mem = s.mem ∧ t.clock = s.clock

/-- R66, R84 to R87: a bind ends the run: every fibre starts a new one at its next address, held by the WAIT set; the
counted bind writes its count back, the call its return address. -/
def Obligations.BindsStartNewRunsAtTheirTargets : Prop :=
  ∀ (h : Head) (wait : BitVec 8) (ofs : BitVec 24) (n : BitVec 6) (d r : Dst),
    let any (_ : State) (x : Issue) : Prop := NoDeferred x
    let o64 := ofs.signExtend 64
    let choose (x : Issue) (t : Nat → Nat) (f : Nat) : Nat := if f ∈ x.active then t f else x.addr + 8
    let tgt (x : Issue) (r : Dst) (o : BitVec 64) (f : Nat) : Nat := ((x.reg f (dstSrc r)).val + 4 * o).toNat
    let good (r : Dst) (o : BitVec 64) (_ : State) (x : Issue) : Prop := NoDeferred x ∧ ∀ f ∈ x.active,
      (Holds x f .i64 (dstSrc r) ∨ Holds x f .raw (dstSrc r)) ∧ tgt x r o f % 8 = 0
    Completes (.bind h wait) noExtra any (fun _ x t => After t x fun q =>
        NewRuns x q wait (fun _ => x.addr + x.len) ∧ SameRegisters x q)
    ∧ Completes (.bindBr h wait ofs) (misaligned · ofs) any (fun _ x t => After t x fun q =>
        NewRuns x q wait (choose x fun _ => wordTarget x o64) ∧ SameRegisters x q)
    ∧ Completes (.bindBc h n wait ofs) (misaligned · ofs)
        (fun _ x => NoDeferred x ∧ x.course.fibres ≠ [] ∧ (x.reg 0 (.s n)).tag = .i64)
        (fun _ x t => After t x fun q =>
          let k := (x.reg 0 (.s n)).val - 1
          NewRuns x q wait (fun _ => if k = 0 then x.addr + 8 else wordTarget x o64)
          ∧ SMap.get Reg.zero q.s n.toNat = ⟨k, .i64⟩ ∧ q.flight = x.ply.flight ∧ ∀ f, (q.fibre f).v = (x.ply.fibre f).v)
    ∧ Completes (.bindCall h d wait ofs) (misaligned · ofs) any (fun _ x t => After t x fun q =>
        NewRuns x q wait (choose x fun _ => wordTarget x o64) ∧ q.flight = x.ply.flight
        ∧ (∀ k, d = .s k → x.active ≠ [] → SMap.get Reg.zero q.s k.toNat = ⟨BitVec.ofNat 64 (x.addr + 8), .i64⟩)
        ∧ (∀ k f, d = .v k → f ∈ x.active → f < x.ply.fibres.length →
            SMap.get Reg.zero (q.fibre f).v k.toNat = ⟨BitVec.ofNat 64 (x.addr + 8), .i64⟩)
        ∧ (d = .none → SameRegisters x q))
    ∧ Completes (.bindRet h r wait) noExtra (good r 0) (fun _ x t => After t x fun q =>
        NewRuns x q wait (choose x (tgt x r 0)) ∧ SameRegisters x q)
    ∧ Completes (.bindJmp h r wait ofs) noExtra (good r o64) (fun _ x t => After t x fun q =>
        NewRuns x q wait (choose x (tgt x r o64)) ∧ SameRegisters x q)

/-- R424: a pending fault is raised at the bind: the fibres it concerns park with its cause and eaux at the bind's run
state. -/
def Sys2Proof.Machine.BindRaisesPendingFaults : Prop :=
  ∀ (h : Head) (wait : BitVec 8) (d : Deferred) (f : Nat),
    Completes (.bind h wait) noExtra (fun _ x => x.hub = false ∧ x.course.fibres = [f] ∧ x.ply.deferred = [d] ∧ d.fibres = [f])
      (fun _ x t => After t x fun q => Parked x q [f] d.cause (fun _ => d.eaux) ∧ q.deferred = [])

/-- R53, R54: CHARTLD joins the ply's outstanding operations on its slot; R54, R46: its commit puts the entries of a good
image into the chart and marks their blocks stale for every resident ply that uses the slot; R57: CHARTRD reads an entry. -/
def Obligations.ChartLoadsCommitAndRead : Prop :=
  ∀ (h : Head) (a d : BitVec 6) (b : Src) (off : BitVec 14) (slot : BitVec 3) (blk : BitVec 4) (op : Nat),
    Completes (.chartld h a off slot blk) noExtra
      (fun s x => x.active ≠ [] ∧ (Holds x (x.active.headD 0) .i64 (.s a) ∨ Holds x (x.active.headD 0) .raw (.s a))
        ∧ let va := ((x.uniform (.s a)) + off.signExtend 64).toNat
          va % 64 = 0 ∧ s.rangeFaults x.ply va (chartldBytes blk.toNat) .read = [])
      (fun s x t => (∃ o ∈ t.ops, o.id = s.nextId ∧ o.ply = x.ply.handle ∧ o.course = x.course.id ∧ o.left = x.active
          ∧ o.body = .chartld ((x.uniform (.s a)) + off.signExtend 64).toNat blk.toNat x.ply.chart)
        ∧ t.nextId = s.nextId + 1 ∧ t.mem = s.mem)
    ∧ (∀ s o p va blk slot ws, s.op op = some o → o.body = .chartld va blk slot → s.issuer o = some p → blk < 9 →
        (∀ q ∈ s.ops, q.id < o.id → q.ply = o.ply → ∀ v b k, q.body ≠ .chartld v b k) →
        s.owing o.ply o.id (o.left.take 1) true = false →
        let n := if blk = 8 then 256 else 32
        let first := if blk = 8 then 0 else 32 * blk
        let es := imageEntries n (granuleBytes ws)
        (s.readFor p va (12 * n / 8) o.pages).2 = ([], ws) → (∀ e ∈ es, entryLoads e = true) →
        ∃ t, exec (.chartldCommit op) s = .next t ∧ t.op op = none ∧ t.mem = s.mem
          ∧ (SMap.wf none (s.core p.core).charts = true →
              (∀ c, SMap.get none (s.core p.core).charts slot = some c → SMap.wf 0 c.entries = true) →
              ∃ c, SMap.get none (t.core p.core).charts slot = some c ∧ ∀ k < n,
                ChartSlot.entry (some c) (first + k) = es.getD k 0)
          ∧ (∀ q ∈ t.plies, q.core = p.core → q.chart = slot → q.residence = .resident →
              ∀ k < 8, (blk = 8 ∨ blk = k) → q.stale.getLsbD k = true))
    ∧ Completes (.chartrd h d b off) noExtra
        (fun _ x => x.hub = false ∧ x.active ≠ [] ∧ UniformCtl x b)
        (fun s x t => After t x fun q =>
          let ix := (x.uniform b).toInt + off.toInt
          let e := if 0 ≤ ix ∧ ix ≤ 255 then ChartSlot.entry (s.chartOf x.ply) ix.toNat else 0
          (∃ l ∈ q.flight, l.target = .s d.toNat ∧ l.reg = ⟨e.extractLsb' 0 64, .raw⟩)
          ∧ ∃ l ∈ q.flight, l.target = .s (d.toNat + 1) ∧ l.reg = ⟨(chartHoles e).setWidth 64, .raw⟩)

/-- R88, R70, R91, R92, R93, R90: what the instructions of fibres do on a compute core. -/
def Sys2Proof.Machine.FibreInstructions : Prop :=
  ∀ (h : Head) (d : Dst) (a : Src) (off : BitVec 14),
    let live (x : Issue) : Prop := x.hub = false ∧ x.active ≠ []
    -- a fibre that is live and waits nowhere holds the release back
    Completes (.rcv h) noExtra
        (fun _ x => live x ∧ ∃ f < x.ply.width, (x.ply.fibre f).live = true ∧ f ∉ x.course.fibres
          ∧ ∀ k ∈ x.ply.courses, k.phase = .rcv → f ∉ k.fibres)
        (fun _ x t => After t x fun q => Stands q x.course.fibres x.course.run .rcv ∧ SameRegisters x q)
    -- a ply of one course, whose fibres all stand at the RCV, goes on past it
    ∧ Completes (.rcv h) noExtra
        (fun _ x => live x ∧ x.ply.courses = [x.course] ∧ x.ply.saveAsked = none ∧ x.course.fibres = x.ply.liveFibres
          ∧ ∀ f ∈ x.course.fibres, (x.ply.fibre f).handling = false)
        (fun _ x t => After t x fun q => ∃ k, q.courses = [k] ∧ k.fibres = x.course.fibres ∧ k.phase = .ready
          ∧ k.run.pc = x.course.run.pc + 4 ∧ k.run.pos = x.course.run.pos + 1)
    ∧ Completes (.fend h) noExtra (fun _ x => live x) (fun _ x t => After t x fun q =>
        (∀ f ∈ x.active, (q.fibre f).live = false)
        ∧ (∀ f, f ∉ x.active → (q.fibre f).live = (x.ply.fibre f).live) ∧ ∀ k ∈ q.courses, ∀ f ∈ x.active, f ∉ k.fibres)
    ∧ Completes (.exit h) noExtra
        (fun s x => live x ∧ x.ply.exitFree x.course x.active = true ∧ s.plyBusy x.ply.handle = false ∧ NoDeferred x)
        (fun s x t => t.ply x.ply.handle = none ∧ t.mem = s.mem)
    ∧ Completes (.yield h) noExtra (fun _ x => live x) (fun _ x t =>
        t.inRun x.ply x.course.id = false ∧ (t.core x.ply.core).rotation.getLast? = some x.ply.handle)
    ∧ Completes (.fork h d a off) (fun x => if wordTarget x (off.signExtend 64) % 8 = 0 then [] else [⟨0x08, 0⟩])
        (fun s x => live x ∧ UniformCtl x a ∧ x.course.id ≠ s.nextId
          ∧ s.writePending x.ply ((membersOf x.ply.width (x.uniform a).toNat).filter fun f => !(x.ply.fibre f).live) = false)
        (fun _ x t => After t x fun q =>
          let go := (membersOf x.ply.width (x.uniform a).toNat).filter fun f => !(x.ply.fibre f).live
          (go ≠ [] → Stands q go (Run.start (wordTarget x (off.signExtend 64))) .ready)
          ∧ (∀ f ∈ go, f < x.ply.fibres.length →
              (q.fibre f).live = true ∧ (q.fibre f).pred = 1 ∧ (q.fibre f).flags = 0 ∧ (q.fibre f).v = (x.ply.fibre f).v)
          ∧ (∀ k, d = .s k → ∃ l ∈ q.flight, l.target = .s k.toNat ∧ l.reg = ⟨BitVec.ofNat 64 (maskOf go), .i64⟩))

/-- R94, R95, R96: ELECT names the lowest active fibre, VOTE combines a predicate over the active fibres, PHASE loads the
gauge of the ply from its launch. -/
def Sys2Proof.Machine.ElectVoteAndPhase : Prop :=
  ∀ (h : Head) (d : Dst) (pk pn : BitVec 4) (mode : BitVec 2) (n : BitVec 14),
    let P (x : Issue) (f : Nat) : Prop := x.pred f pk.toNat = true
    CompletesLane (.elect h d pn) (fun _ => True) (fun x g o =>
      let e := x.active.headD 0
      o = { d := some ⟨BitVec.ofNat 64 e, .i64⟩, pred := some (decide (g = e)) })
    ∧ CompletesLane (.vote h d pk mode pn) (fun _ => True) (fun x _ o => ∃ v : Nat,
      o = { d := some ⟨BitVec.ofNat 64 v, .i64⟩, pred := some (decide (v = 1)) }
      ∧ (mode = 0 → v = if ∃ f ∈ x.active, x.pred f pk.toNat = true then 1 else 0)
      ∧ (mode = 1 → v = if ∀ f ∈ x.active, x.pred f pk.toNat = true then 1 else 0)
      ∧ (mode = 2 → ∀ f, v.testBit f = true ↔ f ∈ x.active ∧ P x f)
      ∧ (mode = 3 → v = if (∀ f ∈ x.active, x.pred f pk.toNat = true) ∨ ∀ f ∈ x.active, x.pred f pk.toNat = false then 1 else 0))
    ∧ Completes (.phase h n) noExtra
      (fun s x => x.hub = false ∧ x.active ≠ [] ∧ n ≠ 0 ∧ ∃ l ∈ s.launches, l.id = x.ply.launch
        ∧ s.launches.find? (·.id == x.ply.launch) = some l
        ∧ bitsOf (l.gauge.getD n.toNat 0).toNat 0 32 + bitsOf (l.gauge.getD n.toNat 0).toNat 32 32 ≠ 0)
      (fun s x t => After t x fun q => ∃ l ∈ s.launches, l.id = x.ply.launch ∧ q.gauge = some ⟨n.toNat,
        bitsOf (l.gauge.getD n.toNat 0).toNat 0 32 + bitsOf (l.gauge.getD n.toNat 0).toNat 32 32, some x.time⟩)

/-! ### Exceptions -/

/-- R98, R365, R69, R32: SYSC and TRAP park the active fibres of a compute core with their cause and number, and the
others go on past the instruction. -/
def Sys2Proof.Machine.SystemCallsAndTrapsPark : Prop :=
  ∀ (h : Head) (n : BitVec 14) (i : Instr) (cause : Nat), (i = .sysc h n ∧ cause = 0x38 ∨ i = .trap h n ∧ cause = 0x39) →
    Completes i noExtra (fun _ x => x.hub = false ∧ x.active ≠ []) (fun _ x t => After t x fun q =>
      Parked x q x.active cause (fun _ => n.setWidth 64) ∧ SameRegisters x q
      ∧ (∀ f ∈ x.course.fibres, f ∉ x.active → ∃ k ∈ q.courses, f ∈ k.fibres ∧ k.run.pc = x.addr + x.len ∧ k.phase = x.course.phase))

/-- R49, R10, R69, R425: of the faults of a word at decode, whatever the instruction, the one of least cause is raised in every
fibre of the course, whatever its guard: on a compute core the course parks at the word, registers and memory as they were, and
on a hub core the trap is taken. -/
def Sys2Proof.Machine.WordFaultsParkTheWholeCourse : Prop :=
  ∀ (s : State) (i : Instr) (x : Issue) (e : FaultAt),
    Executes i → (s.issue i).map (ownBeats i s) = some x → x.course.fibres ≠ [] →
    let faults := s.wordFaults x (entryFaults i x)
    e ∈ faults → (∀ e' ∈ faults, e.cause ≤ e'.cause) → (∀ e' ∈ faults, e'.cause = e.cause → e' = e) →
    ∃ t, exec i s = .next t ∧ t.mem = s.mem ∧ After t x fun q => Faulted x q x.course.fibres e.cause e.eaux
      ∧ (x.hub = false → Parked x q x.course.fibres e.cause (fun _ => e.eaux) ∧ SameRegisters x q)

/-- R107, R108, R109, R10: of the operands of an instruction, whatever it is, the first that holds a value it does not accept
raises cause 0x09 with the operand and its tag in eaux; where none does, the first poisoned one that it consumes raises cause 0x17
with the operand in eaux.  The fibre that holds it parks, or each active fibre where the course reads the operand as a whole, and
no result comes to them. -/
def Sys2Proof.Machine.OperandFaultsParkTheFibre : Prop :=
  ∀ (s : State) (i : Instr) (x : Issue) (g : Nat) (pre post : List Operand) (o : Operand),
    Executes i → Issues s i (entryFaults i) x (ownBeats i s) → ReadsOperands s i x → g ∈ x.active →
    operands i x g = pre ++ o :: post → (o.whole = true → g = x.active.headD 0) →
    let who := if o.whole then x.active else [g]
    let clear (l : List Operand) (bad : Operand → Issue → Nat → Prop) : Prop :=
      ∀ o' ∈ l, ∀ f ∈ x.active, o'.whole = true ∨ f ∈ who → ¬ bad o' x f
    let raised (cause : Nat) (eaux : Word) : Prop := ∃ t, exec i s = .next t ∧ After t x fun q => Faulted x q who cause eaux
    (o.Rejected x g → clear pre Operand.Rejected →
      raised 0x09 (o.src.code.setWidth 64 ||| ((x.reg g o.src).tag.code.setWidth 64 <<< 9)))
    ∧ (o.Poisoned x g → OthersServe i x → (∀ f ∈ x.active, ∀ o' ∈ operands i x f, ¬ o'.Rejected x f) →
      clear pre Operand.Poisoned → raised 0x17 (o.src.code.setWidth 64))

/-- R359: taking a parked course: cause, epc and H are set, the run state, cause and eaux are saved, the course starts a
run at tvec with its age; registers, predicates, flags and tokens stay. -/
def Sys2Proof.Machine.HandlerTakesTheCourseParkedFirst : Prop :=
  ∀ (s : State) (h : Nat) (p : Ply) (c : Course) (cause seq : Nat) (rep : Bool),
    s.ply h = some p → p.residence = .resident → p.h = false → p.tvec ≠ 0 →
    p.exiting = none → p.stops = false → c ∈ p.courses →
    p.courses.Pairwise (fun a b => a.id ≠ b.id) →
    c.phase = .parked cause seq false rep → cause ≠ 0x31 → userDirected false cause (p.fibre (c.fibres.headD 0)).eaux = true →
    (∀ k ∈ p.courses, k.takeable p = true → k = c ∨ seq < k.parkSeq) →
    ∃ t q, exec (.handlerTake h) s = .next t ∧ t.ply h = some q ∧ t.mem = s.mem
      ∧ q.h = true ∧ q.cause = BitVec.ofNat 64 cause ∧ q.epc = BitVec.ofNat 64 c.run.pc
      ∧ (∃ v, q.handler = some v ∧ v.course = c.id ∧ v.run = c.run ∧ v.cause = cause ∧ v.fibres = c.fibres
          ∧ v.eaux = c.fibres.map fun f => (f, (p.fibre f).eaux))
      ∧ (∃ k ∈ q.courses, k.id = c.id ∧ k.age = c.age ∧ k.fibres = c.fibres ∧ k.run = Run.start p.tvec.toNat ∧ k.phase = .ready)
      ∧ (∀ f ∈ c.fibres, f < p.fibres.length → (q.fibre f).handling = true)
      ∧ ∀ f, (q.fibre f).v = (p.fibre f).v ∧ (q.fibre f).pred = (p.fibre f).pred ∧ (q.fibre f).flags = (p.fibre f).flags
        ∧ (q.fibre f).tokens = (p.fibre f).tokens ∧ (q.fibre f).eaux = (p.fibre f).eaux

/-- R364: ERET on a compute core: the fibres in their handler leave it, in one course that goes on at the saved point, past
it, or at the target, or they end. -/
def Sys2Proof.Machine.EretLeavesTheHandler : Prop :=
  ∀ (h : Head) (a : Src) (save : HandlerSave),
    let ok (x : Issue) : Prop := x.hub = false ∧ x.active ≠ [] ∧ x.ply.handler = some save
      ∧ ∀ f ∈ x.active, f < x.ply.fibres.length ∧ (x.ply.fibre f).handling = true
    let left (x : Issue) (q : Ply) : Prop := (∀ f ∈ x.active, (q.fibre f).handling = false)
      ∧ ((∀ f, f ∉ x.active → (x.ply.fibre f).handling = false) → q.h = false ∧ q.handler = none)
    Completes (.eret h a 0) noExtra (fun _ x => ok x) (fun _ x t => After t x fun q =>
        left x q ∧ Stands q x.active save.run .ready)
    ∧ Completes (.eret h a 1) noExtra (fun _ x => ok x) (fun s x t => After t x fun q => left x q
        ∧ ∃ k ∈ q.courses, k.fibres = x.active ∧ k.phase = .ready ∧ k.run.pos = save.run.pos + 1 ∧ k.run.pfx = none
          ∧ ∀ w, s.fetchFor x.ply save.run.pc = .ok w →
              k.run.pc = save.run.pc + if isLong w then 8 else 4)
    ∧ Completes (.eret h a 2) noExtra (fun _ x => ok x ∧ UniformCtl x a ∧ (x.uniform a).toNat % 8 = 0)
        (fun _ x t => After t x fun q => left x q ∧ Stands q x.active (Run.start (x.uniform a).toNat) .ready)
    ∧ Completes (.eret h a 3) noExtra (fun _ x => ok x) (fun _ x t => After t x fun q =>
        left x q ∧ ∀ f ∈ x.active, (q.fibre f).live = false)

/-- R425: on a hub core a trap is taken at once: cause, epc, eaux and the level go into the bank, and the core runs at its
tvec; R364: ERET then returns to the level PL at the bank's epc. -/
def Sys2Proof.Machine.HubTrapsAreTakenOnTheCore : Prop :=
  ∀ (h : Head) (n : BitVec 14) (hub : Hub) (a : Src),
    Completes (.trap h n) noExtra
      (fun _ x => x.ply.hub = some hub ∧ x.active = [0] ∧ x.course.fibres = [0] ∧ x.ply.courses = [x.course]
        ∧ hub.thread = none ∧ hub.level < 3 ∧ (hub.bank hub.level).tvec ≠ 0)
      (fun _ x t => After t x fun q => ∃ k, q.hub = some k ∧ k.level = hub.level
        ∧ (k.bank hub.level).cause = 0x39 ∧ (k.bank hub.level).eaux = n.setWidth 64
        ∧ (k.bank hub.level).epc = BitVec.ofNat 64 x.course.run.pc ∧ (k.bank hub.level).taken = true
        ∧ ((k.bank hub.level).status.extractLsb' 3 2).toNat = hub.level
        ∧ (k.bank hub.level).tvec = (hub.bank hub.level).tvec
        ∧ (∀ j, j ≠ hub.level → j < 3 → k.bank j = hub.bank j)
        ∧ ∃ c, q.courses = [c] ∧ c.run = Run.start (hub.bank hub.level).tvec.toNat ∧ c.phase = .ready)
    ∧ Completes (.eret h a 0) noExtra
      (fun _ x => x.ply.hub = some hub ∧ x.active = [0] ∧ x.ply.courses = [x.course] ∧ hub.level < 3
        ∧ (hub.bank hub.level).taken = true)
      (fun _ x t => After t x fun q => ∃ k, q.hub = some k ∧ k.level = ((hub.bank hub.level).status.extractLsb' 3 2).toNat
        ∧ (k.bank hub.level).taken = false
        ∧ ∃ c, q.courses = [c] ∧ c.phase = .ready ∧ c.run.pc = (hub.bank hub.level).epc.toNat)

/-! ### Control registers, HALT and WFI -/

/-- R365, R356, R357: CSRR reads a control register; CSRW and CSRX write it once for the course, CSRX giving the old value
and setting or clearing bits. -/
def Sys2Proof.Machine.ControlRegistersReadAndWrite : Prop :=
  ∀ (h : Head) (d : Dst) (a : Src) (csr : BitVec 14) (op : BitVec 2) (n : BitVec 8),
    let value (s : State) (x : Issue) (g : Nat) : Word := s.csr x.ply g csr.toNat
    let ok (f : Word → Word → Word) (s : State) (x : Issue) : Prop := x.active ≠ [] ∧ UniformCtl x a
      ∧ (s.csrWrite x.ply csr.toNat (f (value s x (x.active.headD 0)) (x.uniform a))).isSome = true
    let res (f : Word → Word → Word) (gives : Bool) (s : State) (x : Issue) (t : State) : Prop :=
      ∃ s' p, s.csrWrite x.ply csr.toNat (f (value s x (x.active.headD 0)) (x.uniform a)) = some (s', p)
        ∧ t = x.finishOnce s' p (if gives then some ⟨value s x (x.active.headD 0), .i64⟩ else none)
    (∀ s x, Issues s (.csrr h (.v n) csr) (csrBreach · csr false) x →
        exec (.csrr h (.v n) csr) s = .next (x.complete s fun g => { d := some ⟨value s x g, .i64⟩ }))
    ∧ (∀ s x, Issues s (.csrr h d csr) (csrBreach · csr false) x → (∀ k, d ≠ .v k) →
        exec (.csrr h d csr) s = .next (x.complete s fun _ => { d := some ⟨value s x (x.active.headD 0), .i64⟩ }))
    ∧ Completes (.csrw h a csr) (csrBreach · csr true) (ok fun _ v => v) (res (fun _ v => v) false)
    ∧ (op = 0 → Completes (.csrx h d a csr op) (csrBreach · csr true) (ok fun _ v => v) (res (fun _ v => v) true))
    ∧ (op = 1 → Completes (.csrx h d a csr op) (csrBreach · csr true) (ok fun o v => o ||| v) (res (fun o v => o ||| v) true))
    ∧ (op = 2 → Completes (.csrx h d a csr op) (csrBreach · csr true) (ok fun o v => o &&& ~~~ v)
        (res (fun o v => o &&& ~~~ v) true))

/-- R356, R105, R357, R358, R359, R47: which control registers each level may read and write, what each reads as, what a write
changes, and which values it rejects.  On a hub core status, cause, epc, eaux and tvec are those of the bank of the level.  The
model's readings of R6, of no rule's words (log 31): a PART that names no partition and a PL that names no level are rejected, and
bit 28 of slice_ctl, which reads as zero, is ignored in a write. -/
def Sys2Proof.Machine.ControlRegisterWritesAreChecked : Prop :=
  ∀ (s : State) (p : Ply) (f : Nat) (v : Word),
    let plyCtl : Option (State × Ply) :=
      if 1 ≤ (v.extractLsb' 2 3).toNat ∧ (v.extractLsb' 2 3).toNat ≤ 5 then some (s, { p with plyCtl := v &&& 0x7FF }) else none
    let plain (n : Nat) : Word :=
      if n = 5 then p.plyCtl else if n = 7 then p.chartBase else if n = 8 then p.gaugeBase else if n = 9 then BitVec.ofNat 64 p.asid
      else if n = 10 then BitVec.ofNat 64 p.enc else p.tensionBase
    -- the rights
    (∀ n, csrRights false 0 n = (decide (n < 13), decide (n = 4 ∨ n = 5)))
    ∧ (∀ n, csrRights true 0 n = (decide (n < 13), decide (n = 4 ∨ n = 5)))
    ∧ (∀ n level, 1 ≤ level → level ≤ 2 → csrRights true level n = (decide (n < 13),
        decide (n < 13 ∧ n ≠ 6 ∧ (n = 9 ∨ n = 10 → level = 2))))
    -- what they read as
    ∧ (∀ n ∈ [5, 7, 8, 9, 10, 12], s.csr p f n = plain n)
    ∧ s.csr p f 6 = BitVec.ofNat 64 ((if p.hub = none then p.chart else 0) + 2 ^ 8 * p.stale.toNat)
    ∧ (∀ part q, s.contextPart p = part → s.partition (p.core / 1024) part = some q → part < 256 →
        let least := 2 * q.times.foldl Nat.max 0
        Nat.max q.slice least < 2 ^ 20 →
        s.csr p f 11 = BitVec.ofNat 64 (Nat.max q.slice least + 2 ^ 20 * part + if q.slice < least then 2 ^ 29 else 0))
    ∧ (p.hub = none → s.csr p f 0 = BitVec.ofNat 64 ((if p.h then 1 else 0) + if p.fs then 2 ^ 5 else 0)
        ∧ s.csr p f 1 = p.cause ∧ s.csr p f 2 = p.epc ∧ s.csr p f 3 = (p.fibre f).eaux ∧ s.csr p f 4 = p.tvec)
    -- what a write changes
    ∧ s.csrWrite p 5 v = plyCtl
    ∧ (p.hub = none → s.csrWrite p 4 v = if v.extractLsb' 0 3 = 0 then some (s, { p with tvec := v }) else none)
    ∧ s.csrWrite p 6 v = none
    ∧ s.csrWrite p 7 v = some (s, { p with chartBase := v }) ∧ s.csrWrite p 8 v = some (s, { p with gaugeBase := v })
    ∧ s.csrWrite p 9 v = some (s, { p with asid := v.toNat % 2 ^ 11 })
    ∧ s.csrWrite p 10 v = some (s, { p with enc := v.toNat % 2 ^ 16 })
    ∧ s.csrWrite p 12 v = some (s, { p with tensionBase := v })
    ∧ (let slice := v.toNat % 2 ^ 20
       let part := v.toNat / 2 ^ 20 % 2 ^ 8
       (v.toNat / 2 ^ 30 = 0 ∧ 1000 ≤ slice ∧ slice ≤ 1000000 ∧ part ≤ 5 →
         ∃ t, s.csrWrite p 11 v = some (t, p)
           ∧ t.partitions = s.partitions.map fun q => if q.id = p.core / 1024 * 8 + part then { q with slice } else q)
       ∧ (¬ (v.toNat / 2 ^ 30 = 0 ∧ 1000 ≤ slice ∧ slice ≤ 1000000 ∧ part ≤ 5) → s.csrWrite p 11 v = none))
    -- the banks of a hub core
    ∧ ∀ h, p.hub = some h →
      let b := h.bank h.level
      let put (b' : Bank) : Option (State × Ply) := some (s, { p with hub := some (h.setBank h.level b') })
      (s.csr p f 0 = (b.status &&& 0x38) ||| BitVec.ofNat 64 (2 * h.level) ∧ s.csr p f 1 = b.cause ∧ s.csr p f 2 = b.epc
        ∧ s.csr p f 3 = b.eaux ∧ s.csr p f 4 = b.tvec)
      ∧ (s.csrWrite p 0 v = if v.extractLsb' 3 2 = 3 then none else put { b with status := v &&& 0x38 })
      ∧ s.csrWrite p 1 v = put { b with cause := v &&& 0xFF } ∧ s.csrWrite p 2 v = put { b with epc := v }
      ∧ s.csrWrite p 3 v = put { b with eaux := v }
      ∧ s.csrWrite p 4 v = if v.extractLsb' 0 3 = 0 then put { b with tvec := v } else none

/-- R366: HALT stops a hub core on which nothing is outstanding, WFI lets it sleep, with its timeout; and the events of
R366: the timeout ends it, Moafer starts a core, and a slice that has run out takes the thread out of its enclave (R320).  That a
core is started at monitor level, with ASID 1, is the model's choice (log 6). -/
def Obligations.HubCoresHaltSleepAndStart : Prop :=
  ∀ (h : Head) (a : Src) (k : Hub) (n pkg core : Nat),
    Completes (.halt h) noExtra (fun s x => x.active ≠ [] ∧ x.ply.hub = some k ∧ s.plyBusy x.ply.handle = false)
      (fun _ x t => After t x fun q => q.hub = some { k with halted := true })
    ∧ Completes (.wfi h .zero) noExtra (fun _ x => x.active ≠ [] ∧ x.ply.hub = some k)
      (fun _ x t => After t x fun q => q.hub = some { k with wfi := some none })
    ∧ Completes (.wfi h a) noExtra
      (fun _ x => a ≠ .zero ∧ x.active ≠ [] ∧ x.ply.hub = some k ∧ Holds x (x.active.headD 0) .i64 a)
      (fun _ x t => After t x fun q =>
        q.hub = some { k with wfi := some (some (x.time + ((x.uniform a).toNat + 3) / 4)) })
    ∧ (∀ s p t, s.ply n = some p → p.hub = some k → k.wfi = some (some t) → t ≤ s.clock →
        ∃ u q, exec (.wfiTimeout n) s = .next u ∧ u.ply n = some q ∧ q.hub = some { k with wfi := none })
    ∧ (∀ s : State, core < 48 → (∀ p ∈ s.plies, p.isHub = true → p.core ≠ pkg * 1024 + 864 + core) →
        ∃ t p, exec (.hubCoreStart pkg core) s = .next t ∧ t.plies = s.plies ++ [p] ∧ p.core = pkg * 1024 + 864 + core
          ∧ p.level3 = 2 ∧ p.asid = 1 ∧ p.width = 1)
    ∧ (∀ s p, s.ply n = some p → p.hub = some k → k.thread ≠ none → k.leaving = none → k.sliceEnd ≤ s.clock →
        ∃ t q j, exec (.hubThreadSliceExpiry n) s = .next t ∧ t.ply n = some q ∧ q.hub = some j ∧ j.leaving = some (0x3A, 0)
          ∧ j.wfi = none)

/-- R105, R357, R358, R356: the events that write a control register are the execution of the write at which a course
stands, with the value it writes, and nothing otherwise. -/
def Sys2Proof.Machine.ControlWriteEventsExecuteTheWrite : Prop :=
  ∀ (s : State) (h cid : Nat) (p : Ply) (c : Course) (hd : Head) (k : BitVec 7) (csr : BitVec 14) (len : Nat),
    s.ply h = some p → p.course cid = some c → s.mayIssue p c = true → c.chain = [] → s.packedRun p cid = none →
    hd.ch = false → s.look p c.run.pc = .found (.csrw hd (.imm k) csr) len →
    let v : Word := k.signExtend 64
    let run := exec (.csrw hd (.imm k) csr) (s.ready p c (.csrw hd (.imm k) csr) len)
    (csr = 5 → exec (.plyCtlWrite h cid v) s = run) ∧ (csr = 4 → exec (.tvecWrite h cid v) s = run)
    ∧ (csr = 11 → exec (.sliceCtlWrite (.ply h) cid v) s = run)
    ∧ (csr ≠ 4 → csr ≠ 5 → csr ≠ 11 → exec (.controlRegisterWrite h cid csr.toNat v) s = run)
    ∧ (∀ w, w ≠ v → exec (.controlRegisterWrite h cid csr.toNat w) s = .next s)

/-! ### The scheduler -/

/-- R78: a free run slot of a partition takes a run of the oldest course of the ply of highest level that was chosen
longest ago, but a ply that has been eligible for 4,096 cycles without issuing comes first. -/
def Sys2Proof.Machine.RunSlotsAreFilledByLevelAndRotation : Prop :=
  ∀ (s : State) (core part : Nat) (p : Ply) (c : Course), p ∈ s.candidates core part →
    oldestCourse (s.offers p) = some c → 16 < p.width →
    let runs (t : State) : List RunSlot := (t.core core).runs
    let filled (t : State) : Prop := ∃ r, runs t = runs s ++ [r] ∧ r.part = part ∧ r.members = [(p.handle, c.id)]
    ((∀ q ∈ s.candidates core part, s.clock - q.eligibleSince < 4096 ∧ (q = p ∨ q.level < p.level)) →
      ∃ t, exec (.runSlotFill core part) s = .next t ∧ filled t)
    ∧ (4096 ≤ s.clock - p.eligibleSince → (∀ q ∈ s.candidates core part, q = p ∨ p.eligibleSince < q.eligibleSince) →
      ∃ t, exec (.starvationPromote core part) s = .next t ∧ filled t)

/-- R68: 32 cycles after a course reached its WAIT set, its fibres that have every completion go on without the others,
which stay as a course of their own. -/
def Sys2Proof.Machine.WaitSetSplitsLateFibres : Prop :=
  ∀ (s : State) (h cid : Nat) (p : Ply) (c : Course) (mask : BitVec 8) (since : Nat),
    s.ply h = some p → p.course cid = some c → c.phase = .waitSet mask since → since + 32 ≤ s.clock →
    let early := c.fibres.filter (s.completed (s.awaited c mask))
    let late := c.fibres.filter fun f => !(s.completed (s.awaited c mask) f)
    early ≠ [] → late ≠ [] →
    ∃ t q, exec (.waitSetLateSplit h cid) s = .next t ∧ t.ply h = some q ∧ Stands q early c.run .ready
      ∧ Stands q late c.run c.phase ∧ q.fibres = p.fibres ∧ t.mem = s.mem

/-! ### The scratchpad, stage rings and barriers -/

namespace Sys2Proof.Machine

/-- The offset or address that a fibre computes: registers and a signed offset (R226, R250). -/
def fibreAddr (x : Issue) (f : Nat) (a b : Src) (off : BitVec 14) : Nat :=
  ((x.reg f a).val + (x.reg f b).val + off.signExtend 64).toNat

/-- The beats of a data command, by the banks of its offsets, with those that the others of a packed run address (R221, R76). -/
def beatsAt (a b : Src) (off : BitVec 14) (s : State) (x : Issue) : Issue :=
  x.withBeats (match s.cur with | some c => c.mates | none => []) fun f => fibreAddr x f a b off

/-- A source may serve as an address or control operand (R107). -/
def CtlOk (x : Issue) (f : Nat) (src : Src) : Prop := Holds x f .i64 src ∨ Holds x f .raw src

/-- Every active fibre's offset is a granule of a data region of the skein (R220). -/
def ScratchOk (s : State) (x : Issue) (a b : Src) (off : BitVec 14) (feOnly : Bool) : Prop :=
  ∀ f ∈ x.active, CtlOk x f a ∧ CtlOk x f b ∧ fibreAddr x f a b off % 8 = 0
    ∧ ∃ r, (s.carve x.ply.skein).regionAt (fibreAddr x f a b off) = some r ∧ (feOnly = true → r.kind = 2)

/-- R109, R227: what a load makes of a granule that stands at `y`. -/
def Loaded (g : Granule) (y : Nat) (fmt : Fmt) (r : Reg) : Prop :=
  (g.judge y = .valid r.val ∧ r.tag = fmt) ∨ (g.judge y = .poison ∧ r = ⟨0, .poison⟩)

/-- A value is on its way to a fibre's destination. -/
def Lands (q : Ply) (f : Nat) (d : Dst) (r : Reg) : Prop :=
  ∀ n, d = .v n → ∃ l ∈ q.flight, l.target = .v f n.toNat ∧ l.reg = r

end Sys2Proof.Machine

/-- R227, R219: LDS and its base form bring the granule's value with the format's tag, or poison, to every active fibre;
scratchpad and memory stay. -/
def Sys2Proof.Machine.ScratchLoadsBringTheGranule : Prop :=
  ∀ (h : Head) (d : Dst) (db : BitVec 6) (a b : Src) (off : BitVec 14) (fmt : Fmt),
    let loads (i : Instr) (d : Dst) (b : Src) (off : BitVec 14) (fmt : Fmt) : Prop :=
      CompletesAs i (beatsAt a b off) noExtra
        (fun s x => x.hub = false ∧ ScratchOk s x a b off false ∧ ∀ f ∈ x.active,
          ∃ r, Loaded ((s.carve x.ply.skein).granule (fibreAddr x f a b off)) (fibreAddr x f a b off) fmt r)
        (fun s x t => t.skeins = s.skeins ∧ t.mem = s.mem ∧ After t x fun q =>
          ∀ f ∈ x.active, ∃ r, Loaded ((s.carve x.ply.skein).granule (fibreAddr x f a b off)) (fibreAddr x f a b off) fmt r
            ∧ Lands q f d r)
    loads (.lds h d a off fmt) d .zero off fmt ∧ loads (.ldsBase h db a b) (.v (db.setWidth 8)) b 0 .raw

/-- R227, R219, R109: STS and its base form put every active fibre's register into its granule with a valid code, or the
poison pattern, in ascending order of fibres; nothing else of the skein changes. -/
def Sys2Proof.Machine.ScratchStoresPutTheRegister : Prop :=
  ∀ (h : Head) (d a b : Src) (db : BitVec 6) (off : BitVec 14),
    let stores (i : Instr) (d b : Src) (off : BitVec 14) : Prop :=
      CompletesAs i (beatsAt a b off) noExtra (fun s x => x.hub = false ∧ ScratchOk s x a b off false)
        (fun s x t => t.mem = s.mem ∧ (After t x fun q => SameRegisters x q)
          ∧ t.skeins = (s.putCarve x.ply.skein (x.active.foldl (fun c f =>
              c.put (fibreAddr x f a b off) (if (x.reg f d).tag = .poison then ⟨0, poisonCode (fibreAddr x f a b off)⟩
                else ⟨(x.reg f d).val, selv (x.reg f d).val (fibreAddr x f a b off)⟩)) (s.carve x.ply.skein))).skeins)
    stores (.sts h d a off) d .zero off ∧ stores (.stsBase h db a b) (.v (db.setWidth 8)) b 0

/-- R219: a granule of a skein's scratchpad reads as it was written, every other one as before, and the list of cells keeps
its canonical form. -/
def Sys2Proof.Machine.ScratchGranulesReadBack : Prop :=
  ∀ (c : Carve) (y z : Nat) (g : Granule), SMap.wf none c.cells = true →
    SMap.wf none (c.put y g).cells = true ∧ (z / 8 = y / 8 → (c.put y g).granule z = g)
    ∧ (z / 8 ≠ y / 8 → (c.put y g).granule z = c.granule z)

/-- R228, R229: LDSFE on a full word takes its value and leaves it empty, STSFE on an empty one stores and leaves it full;
otherwise the fibre's course blocks and its request waits; SFE sets the state of a word for which nobody waits. -/
def Sys2Proof.Machine.FullEmptyAccessesWaitForTheirState : Prop :=
  ∀ (h : Head) (d : Dst) (v a : Src) (off : BitVec 14) (fmt : Fmt) (mark : Bool) (f : Nat),
    let beats := beatsAt a .zero off
    let y (x : Issue) : Nat := fibreAddr x f a .zero off
    let full (s : State) (x : Issue) : SMap Bool := (s.carve x.ply.skein).full
    let word (s : State) (x : Issue) : Bool := SMap.get false (s.carve x.ply.skein).full (y x / 8)
    let ok (s : State) (x : Issue) : Prop := x.hub = false ∧ x.active = [f] ∧ x.course.fibres = [f]
      ∧ ScratchOk s x a .zero off true ∧ (∀ r ∈ (s.carve x.ply.skein).waits, r.off / 8 ≠ y x / 8)
      ∧ ∀ o ∈ s.ops, o.id < s.nextId
    let goesOn (x : Issue) (q : Ply) : Prop := ∃ k ∈ q.courses, k.fibres = [f] ∧ k.phase = .ready
      ∧ k.run.pc = x.course.run.pc + x.len ∧ k.run.pos = x.course.run.pos + 1
    let waits (x : Issue) (t : State) (val : Option Reg) : Prop :=
      (∃ r ∈ (t.carve x.ply.skein).waits, r.off = y x ∧ r.fibre = f ∧ r.val = val)
      ∧ After t x fun q => Stands q [f] x.course.run (.blocked [f])
    CompletesAs (.ldsfe h d a off fmt) beats noExtra
      (fun s x => ok s x ∧ word s x = true ∧ ∃ r, Loaded ((s.carve x.ply.skein).granule (y x)) (y x) fmt r)
      (fun s x t => t.mem = s.mem ∧ full t x = SMap.set false (full s x) (y x / 8) false ∧ After t x fun q => goesOn x q
        ∧ ∃ r, Loaded ((s.carve x.ply.skein).granule (y x)) (y x) fmt r ∧ Lands q f d r)
    ∧ CompletesAs (.ldsfe h d a off fmt) beats noExtra (fun s x => ok s x ∧ word s x = false)
      (fun _ x t => waits x t none)
    ∧ CompletesAs (.stsfe h v a off) beats noExtra (fun s x => ok s x ∧ word s x = false)
      (fun s x t => t.mem = s.mem ∧ full t x = SMap.set false (full s x) (y x / 8) true ∧ After t x (goesOn x)
        ∧ (t.carve x.ply.skein).cells = ((s.carve x.ply.skein).putReg (y x) (x.reg f v)).cells)
    ∧ CompletesAs (.stsfe h v a off) beats noExtra (fun s x => ok s x ∧ word s x = true)
      (fun _ x t => waits x t (some (x.reg f v)))
    ∧ CompletesAs (.sfe h a off mark) beats noExtra ok
      (fun s x t => t.mem = s.mem ∧ full t x = SMap.set false (full s x) (y x / 8) mark
        ∧ (t.carve x.ply.skein).cells = (s.carve x.ply.skein).cells)

/-- R231: TLOOK gives the offset of the line that holds the key, with its predicate, or with bit 63 set the line to
replace; TSET puts the key's tag into a line of its set, TINV empties a line. -/
def Sys2Proof.Machine.CacheTagsAreLookedUpSetAndCleared : Prop :=
  ∀ (h : Head) (d : Dst) (a b : Src) (region pn : BitVec 4) (k : Cache),
    let n := region.toNat
    let has (s : State) (x : Issue) : Prop := x.hub = false ∧ (s.carve x.ply.skein).cache n = some k
    let key (x : Issue) (f : Nat) (src : Src) : Nat := (x.reg f src).val.toNat
    (∀ s x, Issues s (.tlook h d a region pn) noExtra x → has s x → (∀ f ∈ x.active, CtlOk x f a) →
      exec (.tlook h d a region pn) s = .next (x.complete s fun f =>
        let r := (s.carve x.ply.skein).tlook n k (key x f a)
        { d := some ⟨BitVec.ofNat 64 r.1, .i64⟩, pred := some r.2 }))
    ∧ (∀ (c : Carve) (y w : Nat), w < k.ways → c.tagOf n (k.set y * k.ways + w) = some (k.tag y) →
        (∀ v < w, c.tagOf n (k.set y * k.ways + v) ≠ some (k.tag y)) → c.tlook n k y = (k.offset (k.set y) w, true))
    ∧ (∀ (c : Carve) (y : Nat), (∀ w < k.ways, c.tagOf n (k.set y * k.ways + w) ≠ some (k.tag y)) →
        (c.tlook n k y).2 = false ∧ 2 ^ 63 ≤ (c.tlook n k y).1)
    ∧ Completes (.tset h a b region) noExtra
      (fun s x => ∃ f c, x.active = [f] ∧ has s x ∧ CtlOk x f a ∧ CtlOk x f b
        ∧ (s.carve x.ply.skein).tset n k (key x f a) (key x f b) = some c)
      (fun s x t => ∃ f c, x.active = [f] ∧ (s.carve x.ply.skein).tset n k (key x f a) (key x f b) = some c
        ∧ t.skeins = (s.putCarve x.ply.skein c).skeins ∧ t.mem = s.mem)
    ∧ Completes (.tinv h b region) noExtra
      (fun s x => ∃ f c, x.active = [f] ∧ has s x ∧ CtlOk x f b ∧ (s.carve x.ply.skein).tinv n k (key x f b) = some c)
      (fun s x t => ∃ f c, x.active = [f] ∧ (s.carve x.ply.skein).tinv n k (key x f b) = some c
        ∧ t.skeins = (s.putCarve x.ply.skein c).skeins ∧ t.mem = s.mem)

/-- R232, R234: RACQ takes the slot at the acquire pointer of a ring with a free slot, RTAKE that at the take pointer of
one with a filled slot, each where nobody waits before it: offset and phase are given to every active fibre.  RPUB and RREL
move a slot on, and a served request goes on with its slot. -/
def Sys2Proof.Machine.RingCommandsHandOutSlotsInOrder : Prop :=
  ∀ (h : Head) (d : BitVec 6) (a b : Src) (pn : BitVec 4) (r : Ring),
    let ring (s : State) (x : Issue) : Prop := x.hub = false ∧ x.active ≠ [] ∧ UniformCtl x a
      ∧ (s.carve x.ply.skein).ring (x.uniform a).toNat = some r
    let put (s : State) (x : Issue) (r' : Ring) : State :=
      s.putCarve x.ply.skein ((s.carve x.ply.skein).setRing (x.uniform a).toNat r')
    let gives (s : State) (x : Issue) (p : Nat) (r' : Ring) : State := (x.complete (put s x r') fun _ =>
      { d := some ⟨BitVec.ofNat 64 (r.base + p % r.slots * 2 ^ r.log), .i64⟩, pred := some (p / r.slots == 1) })
    Completes (.racq h d a pn) noExtra (fun s x => ring s x ∧ r.acquirers = [] ∧ r.freeCount ≠ 0)
      (fun s x t => t = gives s x r.ai { r with states := r.states.set (r.ai % r.slots) .acquired, ai := (r.ai + 1) % (2 * r.slots) })
    ∧ Completes (.rtake h d a pn) noExtra (fun s x => ring s x ∧ r.takers = [] ∧ r.filledCount ≠ 0)
      (fun s x t => t = gives s x r.ti { r with states := r.states.set (r.ti % r.slots) .taken, ti := (r.ti + 1) % (2 * r.slots) })
    ∧ Completes (.rpub h a b) noExtra
      (fun s x => ring s x ∧ UniformCtl x b ∧ ∃ n, r.slotAt (x.uniform b).toNat = some n ∧ r.stateOf n = .acquired)
      (fun s x t => ∃ n, r.slotAt (x.uniform b).toNat = some n
        ∧ t = x.finish (put s x (Ring.advanceFill r.slots (r.setState n .published))) x.ply [] [])
    ∧ Completes (.rrel h a b) noExtra
      (fun s x => ring s x ∧ UniformCtl x b ∧ ∃ n, r.slotAt (x.uniform b).toNat = some n ∧ r.stateOf n = .taken)
      (fun s x t => ∃ n, r.slotAt (x.uniform b).toNat = some n
        ∧ t = x.finish (put s x (Ring.advanceFree r.slots (r.setState n .released))) x.ply [] [])

/-- R232, R234, R274: the events of a ring serve the request at the head of its queue: a course that waits goes on past its
instruction, a copy of the engine has its slot. -/
def Sys2Proof.Machine.RingEventsServeTheHeadOfTheQueue : Prop :=
  ∀ (s : State) (h n : Nat) (r : Ring) (o : Op) (rest : List Nat) (k : Skein),
    s.skein h = some k → k.carve.ring n = some r → s.op o.id = some o →
    (∀ p c len dst pn, o.body = .ring false n dst pn len → r.acquirers = o.id :: rest → r.freeCount ≠ 0 →
      s.ply o.ply = some p → p.course o.course = some c →
      ∃ t q, exec (.ringAcquireServe h n) s = .next t ∧ t.op o.id = none ∧ t.ply o.ply = some q
        ∧ (∃ l ∈ q.flight, l.target = .s dst ∧ l.reg = ⟨BitVec.ofNat 64 (r.base + r.ai % r.slots * 2 ^ r.log), .i64⟩)
        ∧ ∃ j ∈ q.courses, j.fibres = c.fibres ∧ j.phase = .ready ∧ j.run.pc = c.run.pc + len)
    ∧ (∀ p c len dst pn, o.body = .ring true n dst pn len → r.takers = o.id :: rest → r.filledCount ≠ 0 →
      s.ply o.ply = some p → p.course o.course = some c →
      ∃ t q, exec (.ringTakeServe h n) s = .next t ∧ t.op o.id = none ∧ t.ply o.ply = some q
        ∧ (∃ l ∈ q.flight, l.target = .s dst ∧ l.reg = ⟨BitVec.ofNat 64 (r.base + r.ti % r.slots * 2 ^ r.log), .i64⟩)
        ∧ ∃ j ∈ q.courses, j.fibres = c.fibres ∧ j.phase = .ready ∧ j.run.pc = c.run.pc + len)
    ∧ (∀ i d b cs m st map, o.body = .copy i d b cs m st (.slotWait map) → r.acquirers = o.id :: rest → r.freeCount ≠ 0 →
      ∃ t o', exec (.ringAcquireServe h n) s = .next t ∧ t.op o.id = some o'
        ∧ o'.body = .copy i d b cs m st (.slotReady (r.base + r.ai % r.slots * 2 ^ r.log) map))

/-- R235, R236: BARINIT sets the expected count and clears the arrivals, BARARR gives the phase and adds its arrivals, BARWAIT
goes on when the phase differs from that named and blocks otherwise; the arrival that completes a phase flips it. -/
def Obligations.BarriersCountArrivalsAndFlip : Prop :=
  ∀ (h : Head) (d : Dst) (a b : Src) (v : Barrier),
    let n (x : Issue) : Nat := (x.uniform a).toNat
    let k (x : Issue) : Nat := bitsOf (x.uniform b).toNat 0 32
    let bar (s : State) (x : Issue) : Prop := x.hub = false ∧ x.active ≠ [] ∧ UniformCtl x a ∧ UniformCtl x b
      ∧ (s.carve x.ply.skein).bars[n x]? = some v
    Completes (.barinit h a b) noExtra bar (fun s x t => t = x.finish (s.putCarve x.ply.skein
        ((s.carve x.ply.skein).setBar (n x) { v with e := k x, a := 0, ovr := false })) x.ply [] [])
    ∧ Completes (.bararr h d a b) noExtra (fun s x => bar s x ∧ v.e ≠ 0) (fun s x t =>
        t = (x.finishOnce s x.ply (some ⟨BitVec.ofNat 64 (b2n v.ph), .i64⟩)).arrive x.ply.skein (n x) (k x))
    ∧ Completes (.barwait h a b) noExtra (fun s x => bar s x ∧ v.e ≠ 0 ∧ v.ph ≠ (x.uniform b).getLsbD 0)
        (fun s x t => t = x.finish s x.ply [] [])
    ∧ Completes (.barwait h a b) noExtra (fun s x => bar s x ∧ v.e ≠ 0 ∧ v.ph = (x.uniform b).getLsbD 0)
        (fun _ x t => After t x fun q => Stands q x.course.fibres x.course.run (.blocked x.active))
    ∧ (∀ m, v.a + m < v.e → v.arrive m = { v with a := v.a + m })
    ∧ (∀ m, v.e ≤ v.a + m → v.a + m < 2 * v.e → v.arrive m = { v with a := v.a + m - v.e, ph := !v.ph })
    ∧ (∀ m, 0 < v.e → 2 * v.e ≤ v.a + m → v.arrive m = { v with a := v.e - 1, ph := !v.ph, ovr := true })

/-! ### Cable pairs -/

namespace Sys2Proof.Machine

/-- A uniform source names a held block of the ply's skein pair, and the pair queue has room (R187, R198). -/
def NamesBlock (s : State) (x : Issue) (src : Src) (q : Pair) (b : PairBind) (k : AccBlock) : Prop :=
  x.active ≠ [] ∧ UniformCtl x src ∧ s.bound x.ply = some (q, b) ∧ (x.uniform src).toNat < 32
    ∧ b.named (x.uniform src).toNat = some k ∧ q.holds = false

/-- The instruction has entered the queue of pair `q` as an operation with this body (R187, R36). -/
def Entered (s : State) (x : Issue) (t : State) (q : Pair) (body : OpBody → Prop) : Prop :=
  t.mem = s.mem ∧ t.nextId = s.nextId + 1
    ∧ (∃ o ∈ t.ops, o.id = s.nextId ∧ o.ply = x.ply.handle ∧ o.course = x.course.id ∧ o.left = x.active ∧ body o.body)
    ∧ (∃ q', t.pair q.core = some q' ∧ q'.queue = q.queue ++ [s.nextId] ∧ q'.taken = x.ply.core)
    ∧ After t x fun p => SameRegisters x p

/-- A request of the follower core that was made in cycle `now` (R196). -/
def FollowersNow (s : State) (q : Pair) (now id : Nat) : Prop :=
  ∃ o p, s.op id = some o ∧ o.time = now ∧ s.ply o.ply = some p ∧ p.core ≠ q.core

/-- Operation `o` is begun in the queue of a pair. -/
def Begun (s : State) (core : Nat) (q : Pair) (o : Op) (at_ : Nat) : Prop :=
  s.pair core = some q ∧ s.op o.id = some o ∧ q.begun.find? (·.1 == o.id) = some (o.id, at_)
    ∧ q.ending.find? (·.op == o.id) = none ∧ o.id ∉ q.struck

/-- The array cycles of operation `o` have ended, which frees its block and the arrays; its slot is cleared at `time`. -/
def Ends (t : State) (core : Nat) (o : Op) (time : Nat) (p : Pair → PairEnd → Prop) : Prop :=
  ∃ q e, t.pair core = some q ∧ o.id ∉ q.queue ∧ (∀ b ∈ q.begun, b.1 ≠ o.id) ∧ t.op o.id = some o
    ∧ q.ending.find? (·.op == o.id) = some e ∧ e.time = time ∧ p q e

/-- A request of the allocator's queue that waits: an ACCALLOC whose reservation has no block left, or no name (R196). -/
def AllocWaits (s : State) (q : Pair) (id : Nat) : Prop :=
  ∃ o d, s.op id = some o ∧ o.body = .accalloc d ∧ ∀ p q0 b, s.ply o.ply = some p → s.bound p = some (q0, b) →
    q.allocate b false = none

/-- Blocks that a skein pair holds of its own reservation (R195). -/
def ownBlocks (b : PairBind) : Nat := (b.blocks.filter (!·.borrowed)).length

/-- Operation `o` has left the pair queue. -/
def LeftQueue (t : State) (core : Nat) (o : Op) : Prop :=
  t.op o.id = none ∧ ∃ q, t.pair core = some q ∧ o.id ∉ q.queue

end Sys2Proof.Machine

/-- R189, R190, R194, R198, R199: a matrix operation whose A registers hold its tag, whose block exists with a tag it
accepts and whose tile lies in the carve enters the pair queue with the values of A. -/
def Sys2Proof.Machine.MatrixOperationsEnterThePairQueue : Prop :=
  ∀ (h : Head) (d b : Src) (a : BitVec 8) (slot : BitVec 3) (keep f16 ua ub gq8 : Bool) (grp : BitVec 2) (i : Instr)
    (q : Pair) (w : PairBind) (k : AccBlock),
    (i = .mma h d a b slot keep f16 ∨ i = .mmai h d a b slot keep ua ub ∨ i = .mmag h d a b slot keep gq8 grp
      ∨ i = .mmac h d a b slot keep) →
    let m := matrixForm i
    Completes i (fun x => if a.toNat + m.n ≤ x.ply.window then [] else [⟨0x01, 0⟩])
      (fun s x => NamesBlock s x d q w k ∧ UniformCtl x b
        ∧ SMap.get none (s.core x.ply.core).latches x.ply.part = none ∧ x.breachA s a.toNat m.n = false
        ∧ s.struck { x with sh := { x.sh with srcs := (List.range m.n).map fun i => .v (a + BitVec.ofNat 8 i) } } = []
        ∧ (∀ r ∈ x.readA a.toNat m.n, r.tag = m.tag) ∧ s.tagAhead q k ∈ m.blocks
        ∧ tileInCarve (s.carve x.ply.skein) (x.uniform b).toNat m.tile = true)
      (fun s x t => Entered s x t q fun body => ∃ mode tiles,
        body = .mma i k.phys (x.uniform b).toNat ((x.readA a.toNat m.n).map (·.val.toNat)) mode x.sat tiles)

/-- R201: an element of MMAI is the accumulator plus the exact sum of the 64 products, wrapped or saturated. -/
def Sys2Proof.Machine.IntegerMatrixElementsAreExactSums : Prop :=
  ∀ (ua ub : Bool) (a t : Array Nat) (m c acc : Nat),
    let x : Int := signed 32 acc + ((List.range 64).map fun k =>
      readInt ua 8 (elemA a 8 8 m k) * readInt ub 8 (tileBytes t (128 * k + c) 1)).foldl (· + ·) 0
    Narrowed 0 false 32 x (mmaiElem ua ub 0 a t m c acc) ∧ Narrowed 1 false 32 x (mmaiElem ua ub 1 a t m c acc)
    ∧ (mmaiElem ua ub 2 a t m c acc : Int) = max 0 (min (2 ^ 31 - 1) x)

/-- R193, R200 to R204: a matrix operation gives its block the tag of its form and rewrites every word of the image in its
sixteenth array cycle, and clears its slot four cycles later; a granule of a tile with a bad code poisons the block and
leaves its fault for the bind (R211). -/
def Sys2Proof.Machine.MatrixOperationsRetireIntoTheBlock : Prop :=
  ∀ (s : State) (core at_ : Nat) (q : Pair) (o : Op) (i : Instr) (k : AccBlock) (w : PairBind) (off : Nat) (a : List Nat)
    (mode : Rnd) (sat : BitVec 2) (tiles : SMap (Option Granule) × SMap (Option Granule)),
    Begun s core q o at_ → o.body = .mma i k.phys off a mode sat tiles → q.block k.phys = some k → q.owner k.phys = some w →
    k.tag ≠ .poison →
    let t0 := tileRead tiles.1 (s.carve w.leader) s.freeCtr off (matrixForm i).tile
    let t1 := tileRead tiles.2 (s.carve w.follower) (s.freeCtr + 2 ^ 20) off (matrixForm i).tile
    let data (l : List (Granule × Nat)) : Array Nat := (l.map (·.1.data.toNat)).toArray
    (badHeader i (data t0) = false → badHeader i (data t1) = false → tileCauses (t0 ++ t1) = [] →
      ∃ t, exec (.pairOpRetire core o.id) s = .next t ∧ t.mem = s.mem ∧ at_ + 16 ≤ t.clock
        ∧ Ends t core o (at_ + 20) fun q' e => e.causes = [] ∧ e.regs = [] ∧ ∃ k', q'.block k.phys = some k'
          ∧ k'.tag = o.body.tagAfter k.tag ∧ k'.held = k.held
          ∧ k'.words = remap (matrixElem i mode sat a.toArray fun c => if c = 0 then data t0 else data t1) 16384 0 k.words)
    ∧ (tileCauses (t0 ++ t1) ≠ [] → ∃ t, exec (.pairOpRetire core o.id) s = .next t
        ∧ Ends t core o (at_ + 20) fun q' e => (∀ c ∈ tileCauses (t0 ++ t1), c ∈ e.causes)
          ∧ ∃ k', q'.block k.phys = some k' ∧ k'.tag = .poison)

/-- R205, R206, R208, R209: the accumulator instructions: the requests for a block join the allocator's queue, and those that
name a block enter the pair queue; ACCFREE unholds its name at once. -/
def Sys2Proof.Machine.AccumulatorInstructionsEnterTheirQueues : Prop :=
  ∀ (h : Head) (db a : BitVec 6) (dv : BitVec 8) (d : Src) (off : BitVec 14) (slot g : BitVec 3) (pn : BitVec 4) (tag : Fmt)
    (half : Bool) (q : Pair) (w : PairBind) (k : AccBlock),
    let va (x : Issue) : Nat := ((x.reg 0 (.s a)).val + off.signExtend 64).toNat
    let asks (i : Instr) (body : OpBody) : Prop :=
      Completes i noExtra (fun s x => x.active ≠ [] ∧ s.bound x.ply = some (q, w)) (fun s x t => t.mem = s.mem
        ∧ (∃ o ∈ t.ops, o.id = s.nextId ∧ o.ply = x.ply.handle ∧ o.left = x.active ∧ o.body = body)
        ∧ ∃ q', t.pair q.core = some q' ∧ (x.ply.core ≠ q.core → q'.allocs = q.allocs ++ [s.nextId])
          -- the leader's request stands before those that the follower made in the same cycle
          ∧ ∀ l r, x.ply.core = q.core → q.allocs = l ++ r → (∀ n ∈ q.allocs, n < s.nextId) → (∀ n ∈ l, ¬ FollowersNow s q x.time n) →
            (∀ n ∈ r, FollowersNow s q x.time n) → q'.allocs = l ++ s.nextId :: r)
    let enters (i : Instr) (src : Src) (ok : State → Issue → Prop) (body : Issue → OpBody) : Prop :=
      Completes i noExtra (fun s x => NamesBlock s x src q w k ∧ ok s x)
        (fun s x t => Entered s x t q (· = body x))
    let address (acc : Access) (s : State) (x : Issue) : Prop := CtlOk x 0 (.s a) ∧ va x % 256 = 0
      ∧ s.rangeFaults x.ply (va x) 65536 acc = []
    asks (.accalloc h db slot) (.accalloc db.toNat) ∧ asks (.acctry h db slot pn) (.acctry db.toNat pn.toNat)
    ∧ enters (.acczero h d slot) d (fun _ _ => True) (fun _ => .acczero k.phys)
    ∧ Completes (.accfree h d slot) noExtra (fun s x => NamesBlock s x d q w k) (fun s x t =>
        Entered s x t q (· = .accfree k.phys)
        ∧ ∃ q', t.pair q.core = some q' ∧ ∀ k' ∈ q'.blocks, k'.phys = k.phys → k'.held = false)
    ∧ enters (.accld h d a off slot tag) d (address .read) (fun x => .accld k.phys (va x) tag)
    ∧ enters (.accst h d a off slot) d (address .write) (fun x => .accst k.phys (va x))
    ∧ (dv.toNat + 16 ≤ 256 → Completes (.mread h dv d slot half g)
        (fun x => if dv.toNat + 16 ≤ x.ply.window then [] else [⟨0x01, 0⟩])
        (fun s x => NamesBlock s x d q w k ∧ x.ply.sbcheck = false)
        (fun s x t => Entered s x t q (· = .mread k.phys dv.toNat half g.toNat)))

/-- R195, R196, R205: of the requests in the allocator's queue the first that need not wait is served: ACCALLOC takes a block of the
reservation, ACCTRY one of the reservation or else of the pool, each under the lowest name that the skein pair does not hold,
zeroed and with tag Raw; ACCTRY that finds none gives −1, clears its predicate and leaves the pool as it was. -/
def Sys2Proof.Machine.AllocatorServesTheFirstRequestItCan : Prop :=
  ∀ (s : State) (core dst : Nat) (q : Pair) (o : Op) (p : Ply) (b : PairBind) (pre post : List Nat),
    s.pair core = some q → q.resetting = false → q.allocs = pre ++ o.id :: post → (∀ id ∈ pre, AllocWaits s q id) →
    s.op o.id = some o → s.ply o.ply = some p → s.bound p = some (q, b) →
    let lowest (n : Nat) : Prop := n < 32 ∧ b.named n = none ∧ ∀ m < n, b.named m ≠ none
    let room : Prop := ∃ n < 32, q.block n = none
    let settled (t : State) (r : Ply) (v : Word) : Prop := t.op o.id = none ∧ t.ply o.ply = some r ∧ t.mem = s.mem
      ∧ SMap.get Reg.zero r.s dst = ⟨v, .i64⟩ ∧ o.time + 4 ≤ t.clock
    let given (t : State) (n : Nat) (borrowed : Bool) : Prop := ∃ q' b' k, t.pair core = some q' ∧ o.id ∉ q'.allocs
      ∧ b' ∈ q'.binds ∧ b'.leader = b.leader ∧ b'.named n = some k ∧ q.block k.phys = none ∧ k.phys < 32
      ∧ k.tag = .raw ∧ k.words = [] ∧ k.borrowed = borrowed
    let predicate (r : Ply) (pn : Nat) (v : Bool) : Prop :=
      ∀ f ∈ o.left, f < p.fibres.length → (r.fibre f).pred.getLsbD pn = v
    (∀ n, o.body = .accalloc dst → ownBlocks b < b.reserve → lowest n → room →
      ∃ t r, exec (.accallocSettle core) s = .next t ∧ settled t r (BitVec.ofNat 64 n) ∧ given t n false)
    ∧ (∀ n pn, o.body = .acctry dst pn → pn < 16 → pn ≠ 0 → lowest n → room → ownBlocks b < b.reserve ∨ 0 < q.pool →
      ∃ t r, exec (.accallocSettle core) s = .next t ∧ settled t r (BitVec.ofNat 64 n) ∧ predicate r pn true
        ∧ given t n (decide (b.reserve ≤ ownBlocks b)))
    ∧ (∀ pn, o.body = .acctry dst pn → pn < 16 → pn ≠ 0 → (b.reserve ≤ ownBlocks b ∧ q.pool = 0 ∨ ∀ n < 32, b.named n ≠ none) →
      ∃ t r, exec (.accallocSettle core) s = .next t ∧ settled t r (-1) ∧ predicate r pn false
        ∧ ∃ q', t.pair core = some q' ∧ q'.binds = q.binds ∧ q'.pool = q.pool)
    ∧ (o.body = .accalloc dst → b.reserve ≤ ownBlocks b → AllocWaits s q o.id)
    ∧ ((∀ id ∈ q.allocs, AllocWaits s q id) → exec (.accallocSettle core) s = .next s)

/-- R187: an entry joins the end of the queue, and a core offers none while the other core of the pair offers one in an earlier
cycle, or in the same cycle where its own was the one taken last.  R187, R204: an operation begins when no earlier one on its
block stands in the queue and, if it uses the array, no other array operation is begun. -/
def Sys2Proof.Machine.PairOperationsBeginInBlockOrder : Prop :=
  ∀ (s : State) (core op : Nat) (q : Pair), s.pair core = some q →
    (∀ own, (q.enter op own).queue = q.queue ++ [op] ∧ (q.enter op own).taken = own)
    ∧ (∀ p c b i, s.bound p = some (q, b) → p.hub = none → i ∈ s.chainAt p c → entersPair (shapeOf i) = true →
        (∃ r ∈ s.rivals (2 * q.core + 1 - p.core) entersPair, r.2 < s.offerTime p c ∨ r.2 = s.offerTime p c ∧ q.taken = p.core) →
        s.mayIssue p c = false)
    ∧ (s.pairMayBegin q op = true → ∃ t, exec (.pairOpBegin core op) s = .next t ∧
      t.pair core = some { q with begun := q.begun ++ [(op, s.clock)] } ∧ t.mem = s.mem)
    ∧ (s.pairMayBegin q op = false → exec (.pairOpBegin core op) s = .next s)
    ∧ (s.pairMayBegin q op = true → q.resetting = false ∧ op ∈ q.queue ∧ ∃ o, s.op op = some o
      ∧ (∀ e ∈ q.queue.takeWhile (· != op), ∀ o', s.op e = some o' → o'.body.accBlock ≠ o.body.accBlock)
      ∧ (o.body.arrayCycles ≠ none → ∀ b ∈ q.begun, ∀ o', s.op b.1 = some o' → o'.body.arrayCycles = none))

/-- R206, R204, R209: ACCZERO clears its block and takes its tag off, ACCFREE gives it back, MREAD reads sixteen registers
of every waiting fibre from the rows and columns of the block; once the slot of an operation is cleared, it has left the
queue and its registers hold what it read. -/
def Sys2Proof.Machine.AccumulatorOperationsRetire : Prop :=
  ∀ (s : State) (core at_ : Nat) (q : Pair) (o : Op) (k : AccBlock),
    (Begun s core q o at_ → q.block k.phys = some k →
      (o.body = .acczero k.phys → ∃ t, exec (.pairOpRetire core o.id) s = .next t ∧ t.mem = s.mem ∧ at_ + 8 ≤ t.clock
        ∧ Ends t core o (at_ + 12) fun q' _ => ∃ k', q'.block k.phys = some k' ∧ k'.tag = .raw ∧ k'.words = [])
      ∧ (o.body = .accfree k.phys → ∃ t, exec (.pairOpRetire core o.id) s = .next t ∧ t.mem = s.mem
        ∧ Ends t core o (at_ + 12) fun q' _ => q'.block k.phys = none)
      ∧ (∀ d half g f i, o.body = .mread k.phys d half g → f ∈ o.left → i < 16 → k.tag ≠ .poison →
        let m := f + if half then 32 else 0
        let w (j : Nat) : Nat := SMap.get 0 k.words (8192 * (j / 128) + 128 * m + j % 128)
        ∃ t, exec (.pairOpRetire core o.id) s = .next t ∧ t.mem = s.mem ∧ Ends t core o (at_ + 12) fun _ e =>
          (f, d + i, ⟨BitVec.ofNat 64 (w (32 * g + 2 * i) + w (32 * g + 2 * i + 1) * 2 ^ 32), k.tag⟩) ∈ e.regs))
    ∧ (∀ e p, s.pair core = some q → s.op o.id = some o → q.ending.find? (·.op == o.id) = some e → s.ply o.ply = some p →
      ∃ t r, exec (.pairOpRetire core o.id) s = .next t ∧ LeftQueue t core o ∧ t.mem = s.mem ∧ e.time ≤ t.clock
        ∧ t.ply o.ply = some r
        ∧ (e.causes = [] → r.deferred = p.deferred)
        ∧ (∀ f n v, (f, n, v) ∈ e.regs → f < p.fibres.length → v.tag ≠ .raw →
            (∀ x ∈ e.regs, x.1 = f → x.2.1 = n → x.2.2 = v) → SMap.get Reg.zero (r.fibre f).v n = v))

/-- R208, R294, R284, R302: ACCLD brings an image that is good in memory into its block with the tag named; one that is not, or
one that the home refuses, poisons the block; ACCST leaves the queue once every granule of the image has gone to memory, the
faults of the pages that the home refuses pending.  Each uses the pages that were checked at its issue.  That its bytes are
charged to the stacks' budget first, and that it waits while they are not within it, is the model's reading (log 83). -/
def Sys2Proof.Machine.AccumulatorTransfersMoveTheImage : Prop :=
  ∀ (s : State) (core at_ va : Nat) (tag : Fmt) (q : Pair) (o : Op) (p : Ply) (k : AccBlock) (acc : Access),
    Begun s core q o at_ → s.issuer o = some p → q.block k.phys = some k → s.forkReady o = true →
    let paid := s.spendAcc o p va acc
    let u := paid.1
    let l := (u.accPlaces p va acc o.pages).map fun x => judged (u.granuleFor p x.1 x.2) x.2
    (o.body = .accld k.phys va tag → acc = .read → paid.2 = true → u.accFails p.core p.asid va acc o.pages = [] →
      (∀ d ∈ l, ∃ w, d = .valid w) →
      ∃ t q' k', exec (.accTransferComplete core o.id) s = .next t ∧ LeftQueue t core o ∧ t.mem = s.mem
        ∧ t.pair core = some q' ∧ q'.block k.phys = some k' ∧ k'.tag = tag
        ∧ k'.words = imageWords (l.map fun d => match d with | .valid w => w | _ => 0))
    ∧ (o.body = .accld k.phys va tag → acc = .read → paid.2 = true →
      .badCode ∈ l ∨ u.accFails p.core p.asid va acc o.pages ≠ [] →
      ∃ t q' k', exec (.accTransferComplete core o.id) s = .next t ∧ LeftQueue t core o ∧ t.mem = s.mem
        ∧ t.pair core = some q' ∧ q'.block k.phys = some k' ∧ k'.tag = .poison)
    ∧ (o.body = .accst k.phys va → acc = .write → paid.2 = true →
      let t := (List.range 8192).foldl (fun s i => s.accStore p va o.pages k i) u
      exec (.accTransferComplete core o.id) s
        = .next ((t.pairDefer o (t.accFails p.core p.asid va acc o.pages)).pairDone core o.id))
    ∧ (o.body = .accld k.phys va tag ∧ acc = .read ∨ o.body = .accst k.phys va ∧ acc = .write → paid.2 = false →
      exec (.accTransferComplete core o.id) s = .next u)

/-- R213: an array operation that has not retired 4,096 cycles after it began, or a request of Moafer, resets the pair: every
queued operation is cancelled and the pair takes no more until the reset is complete. -/
def Sys2Proof.Machine.PairResetCancelsTheQueue : Prop :=
  ∀ (s : State) (core : Nat) (q : Pair), s.pair core = some q →
    (exec (.pairReset core) s = .next (s.pairReset core))
    ∧ (∀ o t, (o, t) ∈ q.begun → t + 4096 ≤ s.clock → (∃ k, s.op o = some k ∧ k.body.arrayCycles ≠ none) →
        exec (.pairOpTimeout core) s = .next (s.pairReset core))
    ∧ (∃ q', (s.pairReset core).pair core = some q' ∧ q'.resetting = true
        ∧ ∀ o ∈ q.queue, (s.op o).isSome = true → o ∉ q'.queue ∧ (s.pairReset core).op o = none)
    ∧ ∃ t, exec (.pairResetComplete core) s = .next t ∧ t.pair core = some { q with resetting := false }

/-! ### Device memory -/

namespace Sys2Proof.Machine

/-- R250, R251, R254, R256, R260, R261: a memory instruction whose operands and addresses pass their checks in every active
fibre leaves one operation with an access for each of them, at the intermediate address, the home and the kind that the
translation `tr` gives; registers and memory stay. -/
def Accesses (i : Instr) (acc : Access) (kick : Bool) (shell : Issue → MemOp) (va : Issue → Nat → Nat)
    (ok : Issue → Nat → Prop) (val cmp : Issue → Nat → Reg) (deadline : Issue → Nat → Option Nat) (blocks : Bool) : Prop :=
  ∀ s x (tr : Nat → Trans), Issues s i noExtra x → x.active ≠ [] → s.specOf x.ply = none →
    (∀ f ∈ x.active, ok x f ∧ s.xlateFor x.ply (va x f) acc = .ok (some (tr f))
      ∧ (kick = false → s.isKick x.ply.asid (tr f).ia = false)) →
    ∃ t, exec i s = .next t ∧ t.mem = s.mem ∧ s.nextId < t.nextId
      ∧ (∃ o ∈ t.ops, o.id = s.nextId ∧ o.ply = x.ply.handle ∧ o.course = x.course.id ∧ o.left = x.active
          ∧ o.body = .mem { shell x with items := x.active.map fun f =>
              ⟨f, va x f, (tr f).ia, (tr f).attr.aper, (tr f).attr.kind, val x f, cmp x f, deadline x f, .waiting⟩ } x.len)
      ∧ After t x fun q => SameRegisters x q ∧ (blocks = true → Stands q x.course.fibres x.course.run (.blocked x.active))

/-- No value goes with the access. -/
def noReg (_ : Issue) (_ : Nat) : Reg := Reg.zero
def never (_ : Issue) (_ : Nat) : Option Nat := none

/-- The address that a register holds. -/
def regAddr (a : Src) (x : Issue) (f : Nat) : Nat := (x.reg f a).val.toNat

/-- The access of fibre `f` of operation `o` may perform now (R242 to R245), and the frame of its granule, on the die of its
core, stands at `a`. -/
structure Performs (s : State) (o : Op) (f : Nat) (p : Ply) (m : MemOp) (i : MItem) (k : MemClass) (a : Nat) : Prop where
  access : s.access o.id f = some (o, p, m, i)
  cls : m.cls = k
  home : i.home = coreAper p.core
  kick : s.isKick p.asid i.ia = false
  bell : p.bellAt i.va = false
  real : s.specOf p = none
  place : s.resolve i.home p.asid i.ia k.access false = .ok a

/-- The access of a fibre is over. -/
def Over (t : State) (o : Op) (f : Nat) : Prop := ∀ o' ∈ t.ops, o'.id = o.id → f ∉ o'.left

/-- A fibre's v register has been written. -/
def Written (t : State) (o : Op) (p : Ply) (f : Nat) (d : Dst) (r : Reg) : Prop :=
  ∀ n, d = .v n → f < p.fibres.length → ∃ q, t.ply o.ply = some q
    ∧ (q.fibre f).v = SMap.set Reg.zero (p.fibre f).v n.toNat r

/-- A deferred fault of a cause is pending for a fibre that is live (R424). -/
def Pends (t : State) (o : Op) (p : Ply) (f cause : Nat) : Prop :=
  (p.fibre f).live = true → ∃ q, t.ply o.ply = some q ∧ ∃ d ∈ q.deferred, d.cause = cause ∧ f ∈ d.fibres

/-- R254, R255: what an 8-byte ATOM of an operation stores for the old value and the operand. -/
def atomWord (code : Nat) (w b : Word) : Word :=
  if code = 0 then w + b else if code = 2 then (if b.slt w then b else w) else if code = 3 then (if b.ult w then b else w)
  else if code = 4 then (if w.slt b then b else w) else if code = 5 then (if w.ult b then b else w)
  else if code = 6 then w &&& b else if code = 7 then w ||| b else if code = 8 then w ^^^ b else b

/-- Memory with one granule overwritten. -/
def granuleSet (s : State) (a : Nat) (w : Word) : List Host.Cell := memWrite s.mem (a / 8 * 8) (bytesLE 8 w.toNat)

/-- The course of an operation stands past its instruction. -/
def GoesOn (t : State) (o : Op) (c : Course) (len : Nat) : Prop :=
  ∃ q, t.ply o.ply = some q ∧ ∃ k ∈ q.courses, k.fibres = c.fibres ∧ k.phase = .ready ∧ k.run.pc = c.run.pc + len

end Sys2Proof.Machine

/-- R250, R251, R254, R256, R260, R261: loads, stores, atomics, memory-side reductions, WAITV and WAKEV at issue.  That
the timeout of WAITV is one deadline, counted from its issue, is the model's reading (log 49). -/
def Sys2Proof.Machine.MemoryInstructionsLeaveAnAccessPerFibre : Prop :=
  ∀ (h : Head) (d : Dst) (dn : BitVec 6) (a b c v : Src) (off : BitVec 14) (slot scope : BitVec 3) (f : Fmt) (sync ui : Bool)
    (op : BitVec 4) (op2 : BitVec 2),
    let load (i : Instr) (d : Dst) (f : Fmt) (b : Src) (off : BitVec 14) (sync : Bool) (sc : Nat) : Prop :=
      Accesses i .read true (fun _ => ⟨.load, d, f, 0, sync, sc, []⟩) (fun x g => fibreAddr x g a b off)
        (fun x g => CtlOk x g a ∧ CtlOk x g b ∧ fibreAddr x g a b off % 8 = 0) noReg noReg never false
    let store (i : Instr) (v b : Src) (off : BitVec 14) (sync : Bool) (sc : Nat) : Prop :=
      Accesses i .write true (fun _ => ⟨.store, .none, .raw, 0, sync, sc, []⟩) (fun x g => fibreAddr x g a b off)
        (fun x g => CtlOk x g a ∧ CtlOk x g b ∧ fibreAddr x g a b off % 8 = 0) (fun x g => x.reg g v) noReg never false
    load (.ld h d a off slot f sync scope) d f .zero off sync scope.toNat
    ∧ load (.ldBase h dn a b) (.v (dn.setWidth 8)) .raw b 0 false 0
    ∧ store (.st h v a off slot sync scope) v .zero off sync scope.toNat
    ∧ store (.stBase h dn a b) (.v (dn.setWidth 8)) b 0 false 0
    ∧ Accesses (.atom h d a b c slot op) .atomic false (fun _ => ⟨.atom, d, .raw, op.toNat, false, 0, []⟩) (regAddr a)
        (fun x g => CtlOk x g a ∧ atomBytes op.toNat (x.reg g b).tag ≠ 0 ∧ (op = 10 → Holds x g (x.reg g b).tag c)
          ∧ regAddr a x g % atomBytes op.toNat (x.reg g b).tag = 0)
        (fun x g => x.reg g b) (fun x g => ⟨BitVec.ofNat 64 (x.lanes g (x.reg g b).tag c), (x.reg g b).tag⟩) never false
    ∧ Accesses (.redms h a b f ui op2) .atomic false (fun _ => ⟨.redms, .none, f, op2.toNat + 4 * b2n ui, false, 0, []⟩)
        (regAddr a) (fun x g => CtlOk x g a ∧ Holds x g f b ∧ regAddr a x g % 8 = 0)
        (fun x g => ⟨BitVec.ofNat 64 (x.lanes g f b), f⟩) noReg never false
    ∧ Accesses (.wakev h d a b slot scope) .read false (fun _ => ⟨.wakev, d, .i64, 0, true, scope.toNat, []⟩) (regAddr a)
        (fun x g => CtlOk x g a ∧ Holds x g .i64 b ∧ regAddr a x g % 8 = 0) noReg (fun x g => x.reg g b) never false
    ∧ Accesses (.waitv h d a b c scope) .read false (fun _ => ⟨.waitv, d, .raw, 0, true, scope.toNat, []⟩) (regAddr a)
        (fun x g => CtlOk x g a ∧ Readable x g b ∧ Holds x g .i64 c ∧ regAddr a x g % 8 = 0)
        (fun x g => x.reg g b) noReg
        (fun x g => if (x.reg g c).val = 0 then none else some (x.time + (x.reg g c).val.toNat)) true

/-- R253, R258, R246: PREF only passes; FENCE makes a token of the accesses that have not performed; WAITF goes on when
all of them have, and waits otherwise. -/
def Sys2Proof.Machine.FencesMakeAndAwaitTokens : Prop :=
  ∀ (h : Head) (a : Src) (off : BitVec 14) (lvl : BitVec 2) (k scope : BitVec 3) (classes : BitVec 5),
    let tokens (x : Issue) (q : Ply) (f : Nat) (tok : Token) : Prop :=
      f < x.ply.fibres.length → (q.fibre f).tokens = SMap.set Token.empty (x.ply.fibre f).tokens k.toNat tok
    let covered (x : Issue) (f : Nat) : List Item := (SMap.get Token.empty (x.ply.fibre f).tokens k.toNat).covered
    Completes (.pref h a off lvl) noExtra (fun _ _ => True) (fun s x t => t = x.finish s x.ply [] [])
    ∧ Completes (.fence h k scope classes) noExtra (fun _ x => x.active.Nodup) (fun s x t => t.mem = s.mem ∧ t.ops = s.ops
        ∧ After t x fun q => q.s = x.ply.s ∧ (∀ f, (q.fibre f).v = (x.ply.fibre f).v) ∧ ∀ f ∈ x.active, ∃ l,
          tokens x q f ⟨scope.toNat, classes, l⟩
          ∧ ∀ o ∈ s.ops, ∀ m len, o.ply = x.ply.handle → o.body = .mem m len → f ∈ o.left → ∀ i ∈ m.items, i.fibre = f →
            (m.cls = .redms → classes.getLsbD 3 = true → ⟨o.id, f⟩ ∈ l)
            ∧ (m.cls ≠ .redms → i.kind < 3 → classes.getLsbD i.kind = true → ⟨o.id, f⟩ ∈ l)
          ∧ ∀ e ∈ s.ops, e.ply = x.ply.handle → e.body.isEngine = true → classes.getLsbD 4 = true → f ∈ e.left → ⟨e.id, f⟩ ∈ l)
    ∧ Completes (.waitf h k) noExtra (fun s x => x.active.Nodup ∧ ∀ f ∈ x.active, ∀ e ∈ covered x f, s.itemDone e = true)
        (fun s x t => t.mem = s.mem ∧ t.ops = s.ops ∧ After t x fun q => q.s = x.ply.s
          ∧ (∀ f ∈ x.active, tokens x q f Token.empty)
          ∧ ∃ c ∈ q.courses, c.fibres = x.course.fibres ∧ c.run.pc = x.addr + x.len)
    ∧ Completes (.waitf h k) noExtra
        (fun s x => x.hub = false ∧ ∃ f ∈ x.active, ∃ e ∈ covered x f, s.itemDone e = false)
        (fun _ x t => After t x fun q => Stands q x.course.fibres x.course.run (.waiting (some k.toNat)) ∧ SameRegisters x q)

/-- R251, R252, R224: what loads and stores do at their home: a load brings the granule with its tag, poison as poison, and a
granule with a bad code or a failed tag as poison with its fault deferred; a store overwrites its granule and nothing
else. -/
def Sys2Proof.Machine.LoadsAndStoresPerformAtTheHome : Prop :=
  ∀ (s : State) (o : Op) (f a : Nat) (p : Ply) (m : MemOp) (i : MItem),
    (Performs s o f p m i .load a → ∃ t, exec (.memoryReply o.id f .home) s = .next t ∧ t.mem = s.mem ∧ Over t o f
      ∧ (∀ w, s.deliver a i.ia = .valid w → Written t o p f m.dst ⟨w, m.fmt⟩)
      ∧ ((∀ w, s.deliver a i.ia ≠ .valid w) → Written t o p f m.dst ⟨0, .poison⟩)
      ∧ (s.deliver a i.ia = .badCode → Pends t o p f 0x16) ∧ (s.deliver a i.ia = .badTag → Pends t o p f 0x15))
    ∧ (∀ g w, s.access o.id f = some (o, p, m, i) → m.cls = .load → m.sync = false → i.kind ≠ 0 → s.specOf p = none →
      (s.core p.core).copy (cacheKey p.asid i.ia) = some g → g.judge i.ia = .valid w →
      ∃ t, exec (.memoryReply o.id f .l1) s = .next t ∧ t.mem = s.mem ∧ Over t o f ∧ Written t o p f m.dst ⟨w, m.fmt⟩)
    ∧ (Performs s o f p m i .store a → s.tagFail.contains (a / 64) = false →
      ∃ t, exec (.memoryReply o.id f .home) s = .next t ∧ Over t o f
      ∧ t.mem = granuleSet s a (if i.val.tag = .poison then 0 else i.val.val)
      ∧ (∀ w ∈ t.waiters, w.addr ≠ a / 8 * 8))

/-- R254, R255, R257: the memory-side unit combines the granule with the operand in one step: the 8-byte forms of ATOM give
back the old value and store the new one, a compare that fails stores nothing, a granule that is not valid stays; an integer
REDMS adds every element. -/
def Sys2Proof.Machine.MemorySideUnitCombinesAtTheHome : Prop :=
  ∀ (s : State) (o : Op) (f a : Nat) (p : Ply) (m : MemOp) (i : MItem) (w : Word),
    (Performs s o f p m i .atom a → s.deliver a i.ia = .valid w → i.val.tag = .i64 → s.tagFail.contains (a / 64) = false →
      m.code ≠ 1 → m.code ≤ 10 →
      let b := i.val.val
      ∃ t, exec (.memorySideAtomic o.id f) s = .next t ∧ Over t o f ∧ Written t o p f m.dst ⟨w, .i64⟩
        ∧ (m.code ≠ 10 ∨ w = i.cmp.val → t.mem = granuleSet s a (atomWord m.code w b))
        ∧ (m.code = 10 → w ≠ i.cmp.val → t.mem = s.mem))
    ∧ (Performs s o f p m i .atom a → (∀ w, s.deliver a i.ia ≠ .valid w) →
      ∃ t, exec (.memorySideAtomic o.id f) s = .next t ∧ t.mem = s.mem ∧ Over t o f ∧ Written t o p f m.dst ⟨0, .poison⟩
        ∧ (s.deliver a i.ia = .poison → Pends t o p f 0x17) ∧ (s.deliver a i.ia = .badCode → Pends t o p f 0x16))
    ∧ (Performs s o f p m i .redms a → s.deliver a i.ia = .valid w → m.fmt.isInt = true → m.code % 4 = 0 →
      s.tagFail.contains (a / 64) = false →
      ∃ t n, exec (.memorySideReduce o.id f) s = .next t ∧ Over t o f ∧ t.mem = granuleSet s a n
        ∧ ∀ e < m.fmt.subs, subAt m.fmt n.toNat e
          = (subAt m.fmt w.toNat e + subAt m.fmt i.val.val.toNat e) % 2 ^ m.fmt.width)

/-- R259, R260, R261, R394: a WAITV whose value differs returns with it and goes on; one whose value is equal enters the wait
table; a timeout lets it read once more; WAKEV takes the waiters of its address out and counts them; the counter of an NCQW
that has come far enough, or holds an error count, ends its wait.  That the sleep of a WAITV ends at the deadline set at its
issue is the model's reading (log 49); R394 says it of NCQW. -/
def Sys2Proof.Machine.WaitersSleepWakeAndTimeOut : Prop :=
  ∀ (s : State) (o : Op) (f a : Nat) (p : Ply) (m : MemOp) (i : MItem) (w : Word) (c : Course) (len : Nat),
    o.body = .mem m len →
    (Performs s o f p m i .waitv a → s.deliver a i.ia = .valid w → o.left = [f] → p.course o.course = some c →
      w ≠ i.val.val ∨ i.state = .last →
      ∃ t, exec (.memoryReply o.id f .home) s = .next t ∧ t.mem = s.mem ∧ Written t o p f m.dst ⟨w, i.val.tag⟩
        ∧ GoesOn t o c len ∧ t.op o.id = none)
    ∧ (Performs s o f p m i .waitv a → s.deliver a i.ia = .valid w → w = i.val.val → i.state = .waiting →
      (s.waiters.filter fun x => x.home == i.home).length < 65536 →
      ∃ t, exec (.memoryReply o.id f .home) s = .next t ∧ t.mem = s.mem
        ∧ t.waiters = s.waiters ++ [⟨o.id, f, p.enc, i.va / 8, i.home, a / 8 * 8, false⟩]
        ∧ ∃ o' m' j, t.op o.id = some o' ∧ o'.pending f = some (m', j) ∧ j.state = .asleep i.deadline)
    ∧ (∀ d, s.op o.id = some o → s.ply o.ply = some p → o.pending f = some (m, i) → m.cls = .waitv →
      i.state = .asleep (some d) → d ≤ s.clock → (∀ q ∈ s.ops, q.ply = o.ply → q ≠ o → q.pending f = none) →
      ∃ t, exec (.waitvTimeout o.ply f) s = .next t ∧ t.mem = s.mem ∧ (∀ x ∈ t.waiters, x.op = o.id → x.fibre ≠ f)
        ∧ ∃ o' m' j, t.op o.id = some o' ∧ o'.pending f = some (m', j) ∧ j.state = .last)
    ∧ (∀ enc, Performs s o f p m i .wakev a → s.encOfAsid p.asid = some enc → enc ≠ 0 →
      let all := s.waiters.filter fun x => x.home == i.home && x.enc == enc && x.key == i.va / 8
      let n := if i.cmp.val = 0 then all.length else min all.length i.cmp.val.toNat
      ∃ t, exec (.memoryReply o.id f .home) s = .next t ∧ t.mem = s.mem ∧ Over t o f
        ∧ Written t o p f m.dst ⟨BitVec.ofNat 64 n, .i64⟩ ∧ t.waiters.length + n = s.waiters.length)
    ∧ (Performs s o f p m i .ncqw a → s.deliver a i.ia = .valid w → p.course o.course = some c →
      w.extractLsb' 32 32 ≠ 0 ∨ i.val.val.extractLsb' 0 32 ≤ w.extractLsb' 0 32 →
      ∃ t, exec (.memoryReply o.id f .home) s = .next t ∧ t.mem = s.mem ∧ Written t o p f m.dst ⟨w, .i64⟩
        ∧ GoesOn t o c len ∧ t.op o.id = none)
    ∧ (∀ d, s.op o.id = some o → s.ply o.ply = some p → m.items = [i] → f = i.fibre → f ∈ o.left → m.cls = .ncqw →
      i.state = .asleep (some d) → d ≤ s.clock → (∀ q ∈ s.ops, q.ply = o.ply → q.course = o.course → q = o) →
      ∃ t, exec (.ncqwTimeout o.ply o.course) s = .next t ∧ t.mem = s.mem ∧ (∀ x ∈ t.waiters, x.op ≠ o.id)
        ∧ ∃ o' m' j, t.op o.id = some o' ∧ o'.pending f = some (m', j) ∧ j.state = .last)

/-- R328, R329: the registers of the kick page: KICK moves the tail to the index written, or as far as the ring reaches;
QBASE and QCFG take a legal value of an empty queue, and no other. -/
def Sys2Proof.Machine.KickPageRegistersTakeStores : Prop :=
  ∀ (s : State) (o : Op) (f : Nat) (p : Ply) (m : MemOp) (i : MItem) (e : Enclave),
    s.access o.id f = some (o, p, m, i) → m.cls = .store → s.isKick p.asid i.ia = true → s.enclaveOfAsid p.asid = some e →
    s.enclave e.enc = some e →
    let q := i.ia % 65536 / 0x400
    let k := e.queue q
    let v := i.val.val.toNat
    (∀ x ∈ s.specs, ¬ (x.enc = e.enc ∧ x.queue = q)) →
    (i.ia % 0x400 = 0x10 → k.qbase ≠ 0 →
      let n := (v % 2 ^ 32 + 2 ^ 32 - k.head % 2 ^ 32) % 2 ^ 32
      ∃ t, exec (.kick o.id f) s = .next t ∧ Over t o f
        ∧ t.enclave e.enc = some (e.setQueue q { k with tail := k.head + min n (2 ^ k.log) })
        ∧ (n ≤ 2 ^ k.log → t.mem = s.mem))
    ∧ (i.ia % 0x400 = 0x00 → k.qbase ≠ v → ∃ t, exec (.qbaseWrite o.id f) s = .next t ∧ t.mem = s.mem ∧ Over t o f
      ∧ (k.tail = k.head → v % 4096 = 0 → v < 2 ^ 57 → t.enclave e.enc = some (e.setQueue q { k with qbase := v }))
      ∧ (k.head < k.tail ∨ v % 4096 ≠ 0 ∨ 2 ^ 57 ≤ v → t.enclave e.enc = some e))
    ∧ (i.ia % 0x400 = 0x08 →
      let ok : Prop := k.tail = k.head ∧ v / 2 ^ 20 = 0 ∧ bitsOf v 5 3 = 0 ∧ bitsOf v 13 3 = 0 ∧ 4 ≤ bitsOf v 16 4
        ∧ bitsOf v 16 4 ≤ 12
      let base := min (bitsOf v 0 5) e.ceiling
      let cap := max base (min (bitsOf v 8 5) e.ceiling)
      ∃ t, exec (.qcfgWrite o.id f) s = .next t ∧ t.mem = s.mem ∧ Over t o f
      ∧ (ok → (k.base, k.cap, k.log, k.level) ≠ (base, cap, bitsOf v 16 4, base) →
          t.enclave e.enc = some (e.setQueue q { k with base, cap, log := bitsOf v 16 4, level := base }))
      ∧ (k.head < k.tail ∨ ¬ (v / 2 ^ 20 = 0 ∧ bitsOf v 5 3 = 0 ∧ bitsOf v 13 3 = 0 ∧ 4 ≤ bitsOf v 16 4 ∧ bitsOf v 16 4 ≤ 12) →
          t.enclave e.enc = some e))

/-! ### Copies, the storage stage, translation, posts -/

namespace Sys2Proof.Machine

/-- Wherever `ok` holds, the instruction leaves one operation for its course, with this body; registers and memory stay. -/
def LeavesOp (i : Instr) (extra : Issue → List FaultAt) (ok : State → Issue → Prop) (body : State → Issue → OpBody) : Prop :=
  Completes i extra (fun s x => x.active ≠ [] ∧ ok s x) (fun s x t => t.mem = s.mem ∧ t.nextId = s.nextId + 1
    ∧ (∃ o ∈ t.ops, o.id = s.nextId ∧ o.ply = x.ply.handle ∧ o.course = x.course.id ∧ o.left = x.active ∧ o.body = body s x)
    ∧ After t x (SameRegisters x))

/-- A value of a uniform source. -/
def uni (x : Issue) (src : Src) : Nat := (x.uniform src).toNat

/-- Operation `o` is under way for ply `p`. -/
def UnderWay (s : State) (o : Op) (p : Ply) : Prop := s.op o.id = some o ∧ s.ply o.ply = some p

/-- The result of an operation stands in its destination. -/
def Resulted (t : State) (o : Op) (p : Ply) (d : Dst) (r : Reg) : Prop :=
  ∃ q, t.ply o.ply = some q ∧ (∀ n, d = .s n → q.s = SMap.set Reg.zero p.s n.toNat r)
    ∧ ∀ n f, d = .v n → o.left = [f] → f < p.fibres.length → (q.fibre f).v = SMap.set Reg.zero (p.fibre f).v n.toNat r

/-- The engine operation `o` is under way, and `p` is its ply under the ASID of its issue (R284). -/
def Issued (s : State) (o : Op) (p : Ply) : Prop := s.op o.id = some o ∧ s.issuer o = some p

/-- The bytes of an engine operation that reads memory from an address are within the budgets (R401, R402). -/
def Paid (s : State) (o : Op) (p : Ply) (va n : Nat) : Prop :=
  ∃ t, s.spendCopy o p n ((List.range (n / 8)).map fun k => (va + 8 * k, .read)) = (t, true)

/-- The first `n` granules from a virtual address are valid where an operation of a ply outside every speculation finds them. -/
def ValidAt (s : State) (o : Op) (p : Ply) (va : Nat) (w : Nat → Word) (n : Nat) : Prop :=
  s.specOf p = none ∧ ∀ k < n, ∃ a ia, s.locate (coreAper p.core) p.asid (va + 8 * k) .read o.pages = .ok (a, ia)
    ∧ s.deliver a ia = .valid (w k)

end Sys2Proof.Machine

/-- R264, R273, R275, R276: the copy commands whose operands pass their checks go to an engine slot. -/
def Sys2Proof.Machine.CopyCommandsGoToTheEngine : Prop :=
  ∀ (h : Head) (d a' b c : Src) (a : BitVec 6) (off : BitVec 14) (slot : BitVec 3) (map : BitVec 5) (s2g ring bar : Bool)
    (cf : BitVec 4) (dir : BitVec 2),
    let barOk (s : State) (x : Issue) (b : Src) : Prop :=
      bar = true → UniformCtl x b ∧ uni x b < (s.carve x.ply.skein).bars.length
    let i : Instr := .copy h d a b slot map s2g ring cf bar
    LeavesOp i noExtra
        (fun s x => s.slotFree x.ply = true ∧ UniformCtl x d ∧ barOk s x b ∧ (∀ k < 14, UniformCtl x (coordSrc a k))
          ∧ (ring = true → uni x d < (s.carve x.ply.skein).rings.length))
        (fun _ x => .copy i (uni x d) (uni x b) ((List.range 14).map fun k => (x.uniform (coordSrc a k)).toInt) x.copyMode
          x.sat .queued)
    ∧ LeavesOp (.copyl h d a' b c slot dir bar) noExtra
        (fun s x => s.slotFree x.ply = true ∧ UniformCtl x d ∧ UniformCtl x a' ∧ UniformCtl x b ∧ barOk s x c
          ∧ uni x b % 8 = 0 ∧ uni x b ≤ 2 ^ 24 ∧ uni x d % 8 = 0 ∧ uni x a' % 8 = 0
          ∧ x.sideFaults s (dir.toNat % 2 == 0) (uni x d) (uni x b) .write = []
          ∧ x.sideFaults s (decide (dir.toNat < 2)) (uni x a') (uni x b) .read = [])
        (fun _ x => .copyl (uni x d) (uni x a') (uni x b) dir.toNat (if bar then some (uni x c) else none) .queued)
    ∧ LeavesOp (.cmap h a off slot map) noExtra
        (fun s x => let va := ((x.uniform (.s a)) + off.signExtend 64).toNat
          s.slotFree x.ply = true ∧ UniformCtl x (.s a) ∧ va % 64 = 0 ∧ s.rangeFaults x.ply va 256 .read = [])
        (fun _ x => .cmap ((x.uniform (.s a)) + off.signExtend 64).toNat map.toNat)

/-- R274, R276, R277: the copy engine: a command whose map slot is empty moves nothing and will end with a copy fault; one with
a ring joins the queue of the ring; a COPYL into the scratchpad brings every granule, at once or when its page has come back; the
barrier takes the bytes, one that is not initialised only counts; then the operation is complete, and only then are its faults
pending. -/
def Sys2Proof.Machine.CopyEngineCarriesCommandsOut : Prop :=
  ∀ (s : State) (o : Op) (p : Ply) (k : Skein) (i : Instr) (d b : Nat) (cs : List Int) (m : Rnd) (sat : BitVec 2),
    Issued s o p → s.skein p.skein = some k →
    (o.body = .copy i d b cs m sat .queued → s.engineTurn o p = true → SMap.get none k.maps (o.body.mapSlot.getD 0) = none →
      ∃ t o', exec (.copyEngineStart o.id) s = .next t ∧ t.mem = s.mem ∧ t.op o.id = some o'
        ∧ o'.body.copyPhase = some (.arrived [⟨0x12, o.left, copyEaux 1 o.addr, 0⟩])
        ∧ ∀ h, (t.ply h).map (·.deferred) = (s.ply h).map (·.deferred))
    ∧ (∀ map tm r, o.body = .copy i d b cs m sat .queued → s.engineTurn o p = true →
      SMap.get none k.maps (o.body.mapSlot.getD 0) = some map → parseMap map = some tm → copyRing i = true →
      pairOk (copyJob i tm cs m sat d).src (copyJob i tm cs m sat d).dst = true → (copyJob i tm cs m sat d).grouped = true →
      k.carve.ring d = some r →
      ∃ t o', exec (.copyEngineStart o.id) s = .next t ∧ t.mem = s.mem ∧ t.op o.id = some o'
        ∧ o'.body.copyPhase = some (.slotWait map)
        ∧ t.carve p.skein = k.carve.setRing d
          (if copyStores i then { r with takers := r.takers ++ [o.id] } else { r with acquirers := r.acquirers ++ [o.id] }))
    ∧ (∀ dst src n bar w e, (e = .copyEngineStart o.id ∧ o.body = .copyl dst src n 1 bar .queued ∧ s.engineTurn o p = true
        ∨ e = .enginePageResume o.id ∧ ∃ off l, o.body = .copyl dst src n 1 bar (.held off l)) →
      ValidAt s o p src w (n / 8) → Paid s o p src n →
      ∃ t o', exec e s = .next t ∧ t.mem = s.mem ∧ t.op o.id = some o' ∧ o'.body.copyPhase = some (.moved n [])
        ∧ t.carve p.skein = (let l := List.range (n / 8); if src < dst then l else l.reverse).foldl
          (fun c j => c.putReg (dst + 8 * j) ⟨w j, .raw⟩) k.carve)
    ∧ (∀ n fl c v, o.body.copyPhase = some (.moved n fl) → o.body.bar = some c → k.carve.bars[c]? = some v → v.e ≠ 0 →
      exec (.engineBarrierArrive o.id) s = .next ((s.putOp (o.setPhase (.arrived fl))).arrive p.skein c n))
    ∧ (∀ n fl c v, o.body.copyPhase = some (.moved n fl) → o.body.bar = some c → k.carve.bars[c]? = some v → v.e = 0 →
      ∃ t k', exec (.engineBarrierArrive o.id) s = .next t ∧ t.skein p.skein = some k' ∧ k'.events = k.events + 1
        ∧ k'.carve = k.carve)
    ∧ (∀ fl, o.body.copyPhase = some (.arrived fl) ∨ (∃ n, o.body.copyPhase = some (.moved n fl)) ∧ o.body.bar = none →
      ∃ t, exec (.copyComplete o.id) s = .next t ∧ t.op o.id = none ∧ t.mem = s.mem
        ∧ ∀ d ∈ fl, ∀ f ∈ o.left, Pends t o p f d.cause)
    ∧ (∀ va map w tm, o.body = .cmap va map → s.engineTurn o p = true → ValidAt s o p va w 32 → Paid s o p va 256 →
      let image := granuleBytes ((List.range 32).map w)
      parseMap image = some tm →
      ∃ t k', exec (.cmapComplete o.id) s = .next t ∧ t.op o.id = none ∧ t.mem = s.mem ∧ t.skein p.skein = some k'
        ∧ k'.maps = SMap.set none k.maps map (some image))

/-- R278: a hub thread's store to the doorbell of a queue gives it its tail; one of four engines takes the descriptor at the head,
which is well formed when its addresses, its count and its zero field keep their rules and both ranges translate; a copy that is
complete has brought its granules, poison for one that is not valid, and adds one to its counter; one that is not well formed
adds 2^32 and moves nothing; one with an absent page waits.  Where a ring stands, how long it is and where its doorbell lies are the
machine's (log 27). -/
def Sys2Proof.Machine.HubCopyQueuesAreServed : Prop :=
  ∀ (s : State) (e : Enclave) (n tail : Nat), s.enclave e.enc = some e →
    let k := e.hubQueue n
    let dies := e.dies s
    (∀ o p m i, s.op o.id = some o → s.ply o.ply = some p → s.ops.findSome? (s.bellStore e.enc n tail) = some (o, m, i) →
      m.cls = .store → o.left = [i.fibre] →
      ∃ t, exec (.hubCopyDoorbell e.enc n tail) s = .next t ∧ t.mem = s.mem ∧ t.op o.id = none
        ∧ t.enclave e.enc = some (e.setHubQueue n { k with tail := tail % 2 ^ k.log }))
    ∧ (∀ ws, k.head ≠ k.tail → s.hubCopies e.pkg < 4 → s.unitRead dies e.asid (k.base + 32 * k.head) 4 = some ws →
      let d := granuleBytes ws
      let dst := field d 0 8
      let src := field d 8 8
      let bytes := field d 16 4
      ∃ t o ok, exec (.hubCopyDescriptor e.enc n) s = .next t ∧ t.mem = s.mem ∧ t.ops = s.ops ++ [o] ∧ o.id = s.nextId
        ∧ o.body = .hubcopy e.enc e.asid dst src bytes (field d 24 8) ok
        ∧ (ok = true ↔ dst % 8 = 0 ∧ src % 8 = 0 ∧ bytes % 8 = 0 ∧ bytes ≤ 2 ^ 24 ∧ field d 20 4 = 0 ∧ (bytes ≠ 0 →
            s.unitRange dies e.asid dst bytes .write = none ∧ s.unitRange dies e.asid src bytes .read = none))
        ∧ t.enclave e.enc = some (e.setHubQueue n { k with head := (k.head + 1) % 2 ^ k.log }))
    ∧ (∀ o dst src counter bytes a ia w, s.op o.id = some o → o.body = .hubcopy e.enc e.asid dst src bytes counter false →
      s.unitLocate dies e.asid counter .atomic = .ok (a, ia) → s.deliver a ia = .valid w →
      ∃ t, exec (.hubCopyComplete o.id) s = .next t ∧ t.op o.id = none ∧ t.mem = granuleSet s a (w + 2 ^ 32))
    ∧ (∀ o dst src counter bytes, s.op o.id = some o → o.body = .hubcopy e.enc e.asid dst src bytes counter true →
      (∀ x, s.unitRange dies e.asid dst bytes .write = some x ∨ s.unitRange dies e.asid src bytes .read = some x →
        x.cause = 0x11 → bytes ≠ 0 → exec (.hubCopyComplete o.id) s = .next s)
      ∧ ∀ paid a ia w,
        s.unitRange dies e.asid dst bytes .write = none → s.unitRange dies e.asid src bytes .read = none →
        s.spendHubCopy o.id e.enc dies e.asid dst src bytes = (paid, true) →
        let order := if src < dst then List.range (bytes / 8) else (List.range (bytes / 8)).reverse
        let moved := order.foldl (fun t j => paid.hubStep (paid.hubPlies e.enc) dies e.asid dst src j t) paid
        let done := { moved with freeCtr := moved.freeCtr + bytes / 8 }
        done.unitLocate dies e.asid counter .atomic = .ok (a, ia) → done.deliver a ia = .valid w →
        ∃ t, exec (.hubCopyComplete o.id) s = .next t ∧ t.op o.id = none ∧ t.mem = granuleSet done a (w + 1))
    ∧ ∀ (u : State) (ps : List Ply) (dst src j a ia b ib : Nat) (got : Delivered),
      s.unitLocate dies e.asid (src + 8 * j) .read = .ok (a, ia) → s.deliver a ia = got →
      u.unitLocate dies e.asid (src + 8 * j) .read = .ok (a, ia) → u.deliver a ia = got →
      u.unitLocate dies e.asid (dst + 8 * j) .write = .ok (b, ib) →
      u.tagFail.contains (b / 64) = false →
      let v := s.hubStep ps dies e.asid dst src j u
      (∀ w, got = .valid w → v.mem = granuleSet u b w ∧ v.codes = SMap.set none u.codes (b / 8) none)
        ∧ ((∀ w, got ≠ .valid w) → v.mem = granuleSet u b 0
          ∧ v.codes = SMap.set none u.codes (b / 8) (some (~~~ selv 0 ib)))

/-- R279 to R283: the storage stage: what STGPOST answers; STGADV, the requests, the completions, and the ends of a lease. -/
def Sys2Proof.Machine.StageStreamsFollowTheirRules : Prop :=
  ∀ (h : Head) (d : Dst) (a b : Src) (slot : BitVec 3) (fin : Bool),
    LeavesOp (.stgpost h d a b slot) noExtra (fun s x => UniformCtl x a ∧ UniformCtl x b ∧ s.specOf x.ply = none)
        (fun _ x => .stgpost (uni x a) (uni x b) d)
    ∧ Completes (.stgadv h a b fin) noExtra
        (fun s x => x.active ≠ [] ∧ UniformCtl x a ∧ UniformCtl x b ∧ s.releaseReady x.ply.handle x.active = true
          ∧ (∀ q ∈ s.ops, q.ply = x.ply.handle → ∀ l n d, q.body ≠ .stgpost l n d)
          ∧ uni x a < 16 ∧ ∃ e, s.enclave x.ply.enc = some e ∧ (e.stream (uni x a)).active = true)
        (fun s x t => t.mem = s.mem ∧ After t x (SameRegisters x) ∧ ∃ e, s.enclave x.ply.enc = some e
          ∧ let k := e.stream (uni x a)
            let c := min (k.c + uni x b) k.total
            t.enclave x.ply.enc = some (e.setStream (uni x a)
              (if fin then k.revoke else { k with c, active := decide (c < k.total) })))
    ∧ ∀ (s : State) (e : Enclave) (n : Nat), s.enclave e.enc = some e →
      let k := e.stream n
      (∀ o p list, UnderWay s o p → o.body = .stgpost list n d → p.enc = e.enc → n < 16 → s.forkReady o = true →
        (∀ q ∈ s.ops, q.ply = o.ply → q.id < o.id → ∀ l m d, q.body ≠ .stgpost l m d) →
        (k.active = true → ∃ t, exec (.stgpostSettle o.id) s = .next t ∧ t.op o.id = none ∧ t.mem = s.mem
          ∧ Resulted t o p d ⟨1, .i64⟩ ∧ t.enclave e.enc = some e)
        ∧ (k.active = false → list % 64 ≠ 0 → ∃ t, exec (.stgpostSettle o.id) s = .next t ∧ t.op o.id = none
          ∧ t.mem = s.mem ∧ Resulted t o p d ⟨2, .i64⟩ ∧ t.enclave e.enc = some e)
        ∧ (∀ k', s.stagePost p e list k = (0, k') → ∃ t, exec (.stgpostSettle o.id) s = .next t ∧ t.op o.id = none
          ∧ Resulted t o p d ⟨0, .i64⟩ ∧ t.enclave e.enc = some (e.setStream n k') ∧ k'.active = true ∧ k'.gen = k.gen + 1
          ∧ k'.c = 0))
      ∧ (∃ t, exec (.stageBlockRequest e.enc n) s = .next t ∧ t.mem = s.mem
        ∧ (k.draining = [] → k.next < k.total → k.next < k.c + k.nb + 1 → t.enclave e.enc
          = some (e.setStream n { k with requested := k.requested ++ [k.next], next := k.next + 1 }))
        ∧ (k.draining ≠ [] ∨ k.total ≤ k.next ∨ k.c + k.nb + 1 ≤ k.next → t = s))
      ∧ (∀ gen block data, gen < k.gen → ∃ t, exec (.stageBlockComplete e.enc n gen block data) s = .next t ∧ t.mem = s.mem
        ∧ t.enclave e.enc = some { e with discards := e.discards + 1 })
      ∧ (∀ block data, block ∈ k.requested → k.draining = [] →
        ∃ t, exec (.stageBlockComplete e.enc n k.gen block data) s = .next t
        ∧ t.enclave e.enc = some (e.setStream n { k with
            errors := k.errors + (if data = none then 1 else 0), done := block :: k.done
            requested := k.requested.filter (· != block) }))
      ∧ (k.draining ≠ [] → k.requested = [] → ∃ t, exec (.stageLeaseRevoke e.enc n) s = .next t ∧ t.mem = s.mem
        ∧ t.enclave e.enc = some (e.setStream n { Stream.idle with gen := k.gen + 1 }))
      ∧ (∀ c ∈ k.draining, c.2 ≤ s.clock → ∃ t, exec (.stageDrainTimeout e.enc n) s = .next t ∧ t.mem = s.mem
        ∧ t.enclave e.enc = some (e.setStream n { Stream.idle with gen := k.gen + 1 }))

/-- R285, R302, R303, R305: RNGSET replaces a range of a live ASID in the packages of its garment, ATINV drops the entries it
names from every TLB and frame cache, PGQ reports on an address.  That RNGSET writes the table of every package of the garment is
the model's reading (log 82). -/
def Sys2Proof.Machine.TranslationInstructionsTakeEffect : Prop :=
  ∀ (h : Head) (a : BitVec 6) (a' b : Src) (d : Dst) (slot : BitVec 3) (n : BitVec 4) (mode : BitVec 2) (r : Range),
    let w (x : Issue) (k : Nat) : Nat := uni x (coordSrc a k)
    LeavesOp (.rngset h a b slot n) noExtra
        (fun s x => UniformCtl x b ∧ (∀ k < 3, UniformCtl x (coordSrc a k)) ∧ s.asidLive (uni x b) = true ∧ (uni x b = 1 → x.ply.level3 = 2)
          ∧ rangeOf (w x 0) (w x 1) (w x 2) = some r)
        (fun _ x => .rngset (uni x b) n.toNat r)
    ∧ LeavesOp (.atinv h a' b slot mode) noExtra (fun _ x => UniformCtl x a' ∧ UniformCtl x b)
        (fun _ x => .atinv mode.toNat (uni x a') (uni x b) [])
    ∧ LeavesOp (.pgq h d a' .zero slot) noExtra (fun _ x => ∀ f ∈ x.active, CtlOk x f a')
        (fun _ x => .pgq d x.ply.asid (x.ply.asid == 1 && x.ply.level3 != 2) (x.active.map fun f => (f, (x.reg f a').val.toNat)))
    ∧ (∀ base limit ofs v, rangeOf base limit ofs = some v →
        v.valid = base.testBit 0 ∧ v.bpg = base / 2 ^ 16 % 2 ^ 41
        ∧ (v.valid = true → v.lpg = limit / 2 ^ 16 % 2 ^ 41 ∧ v.ofs = BitVec.ofNat 48 (ofs / 2 ^ 16) ∧ v.bpg < v.lpg))
    ∧ ∀ (s : State) (o : Op) (p : Ply) (asid ia : Nat), UnderWay s o p →
      (∀ m, o.body = .rngset asid m r → s.asidLive asid = true → ∃ t, exec (.rngsetUpdate o.id) s = .next t
        ∧ t.op o.id = none ∧ t.mem = s.mem
        ∧ t.ranges = (s.garmentOf (p.core / 1024) asid).foldl (fun l pkg => SMap.set none l (rangeKey pkg asid m)
            (if r = rangeAtReset asid m then none else some r)) s.ranges
        ∧ (r ≠ rangeAtReset asid m → ∀ pkg ∈ s.garmentOf (p.core / 1024) asid, t.range pkg asid m = r)
        ∧ p.core / 1024 ∈ s.garmentOf (p.core / 1024) asid)
      ∧ (∀ m, o.body = .atinv m ia asid [] → m < 3 → ∃ t, exec (.atinvDrop o.id) s = .next t ∧ t.mem = s.mem
        ∧ (∀ c ∈ t.cores, ∀ e ∈ c.tlb, dropsEntry m ia asid (p.core / 1024) c.id e = false)
        ∧ (∀ e ∈ t.frameCaches, dropsFrame m ia asid (p.core / 1024) e = false)
        ∧ ((s.usersOf m ia asid (p.core / 1024)) = [] → t.op o.id = none))
      ∧ (∀ vas, o.body = .pgq d asid false vas → ∃ t, exec (.pgqReply o.id) s = .next t ∧ t.op o.id = none
        ∧ t.mem = s.mem ∧ ∀ f m, o.left = [f] → d = .v m → f < p.fibres.length → ∃ q, t.ply o.ply = some q
          ∧ (q.fibre f).v = SMap.set Reg.zero (p.fibre f).v m.toNat
            ⟨BitVec.ofNat 64 (s.pageReport (coreAper p.core) asid (SMap.get 0 vas f)), .i64⟩)

/-- R299, R300, R301: a region whose entries are alike is begun when the die's control block enables it; a run that is not
free gives it up, with its log record; a page's new frame is claimed and filled, its leaf rewritten and its old frame freed;
where the leaf is no longer the one read, or a frame no longer as it was, the region is given up, the claimed frame free; when
all have moved the level-2 entry is rewritten.  1 GiB: the entry alone is rewritten.  Without the enable bits nothing begins.
That the steps of a page, and those that begin and end a region, are one execution each is the model's choice (log 10). -/
def Sys2Proof.Machine.PromotionRewritesTheTree : Prop :=
  ∀ (s : State) (die asid ia l3 l2 l1 : Nat) (c : List Byte) (es : List Nat) (w : Word) (m : Promo),
    s.promotionCtl die = some c →
    (bitOf (field c 0 8) 0 = false → exec (.promotion2mib die asid ia) s = .next s)
    ∧ (field c 0 8 % 4 ≠ 3 → exec (.promotion1gib die asid ia) s = .next s)
    ∧ (s.promos.find? (·.die == die) = none →
      s.entryAt die asid ia 3 = some l3 → s.entryAt die asid ia 2 = some l2 → ia % 2 ^ 21 = 0 →
      bitOf (field c 0 8) 0 = true → logRoom c = true → field c 16 4 ≠ field c 20 4 →
      s.equalLeaves die 3 (l3 / 256 * 256) 32 = some es →
      s.readGranules die 0 (field c 8 8 + 8 * (field c 16 4 % 256)) 1 = .ok [w] →
      (∀ e ∈ es, (s.owner die (bitsOf e 16 22)).state = 1) →
      let run := bitsOf w.toNat 21 17 * 32
      let n : Promo := ⟨die, asid, ia, l3 / 256 * 256, es, s.tableWord die l2, run, s.groupGen die run 32, 0⟩
      ((∃ k < 32, (s.owner die (run + k)).state ≠ 0) →
        exec (.promotion2mib die asid ia) s = .next (s.promotionLog die c asid 0 1 0 ia (run * 65536) 0 1))
      ∧ ((∀ k < 32, (s.owner die (run + k)).state = 0) →
        exec (.promotion2mib die asid ia) s = .next { s with promos := s.promos ++ [n] }))
    ∧ (s.promos.find? (·.die == die) = some m → m.die = die → m.asid = asid → m.ia = ia →
      bitOf (field c 0 8) 0 = true → logRoom c = true →
      let old := m.old m.moved
      let f := m.run + m.moved
      let o := s.owner die old
      let leaf := s.tableWord die (m.table + 8 * m.moved)
      (m.moved < 32 → s.leased die old = false → s.budgets = [] →
        ((s.owner die f).state = 0 → o.state = 1 → leaf = m.leaf m.moved →
          exec (.promotion2mib die asid ia) s = .next
            (((((s.setOwner die f { o with gen := m.gen }).moveFrame die old die f).putTableWord die (m.table + 8 * m.moved)
              (leaf - bitsOf leaf 0 38 + f * 65536 + m.gen.toNat)).setOwner die old
                { Owner.free with gen := o.gen }).setPromo { m with moved := m.moved + 1 }))
        ∧ ((s.owner die f).state = 0 → o.state = 1 → leaf ≠ m.leaf m.moved →
          exec (.promotion2mib die asid ia) s = .next ((s.setOwner die f { Owner.free with gen := m.gen }).abandonRegion m))
        ∧ ((s.owner die f).state ≠ 0 ∨ o.state ≠ 1 → exec (.promotion2mib die asid ia) s = .next (s.abandonRegion m)))
      ∧ (32 ≤ m.moved → s.entryAt die asid ia 2 = some l2 → s.tableWord die l2 = m.upper →
        ∃ t t', exec (.promotion2mib die asid ia) s = .next t ∧ t.promos = s.promos.filter (·.die != die)
          ∧ t' = { s.putTableWord die l2 (m.leaf 0 - bitsOf (m.leaf 0) 0 38 + m.run * 65536 + m.gen.toNat) with
              promos := s.promos.filter (·.die != die)
              frameCaches := s.frameCaches.filter fun x =>
                !(x.stack / 4 == die && x.asid == asid && x.page / 32 == ia / 2 ^ 21) }
          ∧ t = t'.promotionLog die c asid 0 0 (2 ^ 32 - 1) ia (m.run * 65536) m.table 1)
      ∧ (32 ≤ m.moved → s.entryAt die asid ia 2 = some l2 → s.tableWord die l2 ≠ m.upper →
        exec (.promotion2mib die asid ia) s = .next (s.abandonRegion m)))
    ∧ (s.promos.find? (·.die == die) = some m → m.die = die → (s.abandonRegion m).promos = s.promos.filter (·.die != die)
      ∧ s.abandonRegion m = { s with promos := s.promos.filter (·.die != die) }.promotionLog die c m.asid 0 1
          (2 ^ m.moved - 1) m.ia (m.run * 65536) 0 1)
    ∧ (s.entryAt die asid ia 2 = some l2 → s.entryAt die asid ia 1 = some l1 → ia % 2 ^ 30 = 0 → field c 0 8 % 4 = 3 →
      logRoom c = true → field c 16 4 ≠ field c 20 4 → (∀ x ∈ s.promos, x.die ≠ die) → s.budgets = [] →
      s.equalLeaves die 2 (l2 / 4096 * 4096) 512 = some es → bitsOf (es.headD 0) 16 22 % 2 ^ 14 = 0 →
      (∀ x ∈ es.zipIdx, bitsOf x.1 16 22 = bitsOf (es.headD 0) 16 22 + 32 * x.2
        ∧ bitsOf x.1 0 16 = bitsOf (es.headD 0) 0 16) →
      exec (.promotion1gib die asid ia) s = .next ((s.putTableWord die l1 (es.headD 0)).promotionLog die c asid 1 0 0 ia
        (bitsOf (es.headD 0) 16 22 * 65536) (l2 / 4096 * 4096) 0))

/-- R351, R352, R393, R394: LAUNCH, NPOST and NCQW: what they leave at issue; when its turn has come, a LAUNCH makes its entry
and an NPOST its work requests, and gives its status in the destination; the course that waits at a counter.  That they are
settled after the cycle of their issue is the model's choice (log 78). -/
def Sys2Proof.Machine.PostsGiveTheirStatus : Prop :=
  ∀ (h : Head) (d : Dst) (a b : Src) (slot scope : BitVec 3) (tm : BitVec 5),
    LeavesOp (.launch h d a b slot) noExtra (fun s x => UniformCtl x a ∧ UniformCtl x b ∧ s.specOf x.ply = none)
        (fun _ x => .launch (uni x a) (uni x b) d)
    ∧ LeavesOp (.npost h d a b slot) noExtra (fun s x => UniformCtl x a ∧ UniformCtl x b ∧ s.specOf x.ply = none)
        (fun _ x => .npost (uni x a) (uni x b) d x.course.fibres)
    ∧ (∀ (s : State) (o : Op) (p : Ply) (e : Enclave) (q va : Nat),
      UnderWay s o p → s.enclave p.enc = some e → o.body = .launch q va d → o.time < s.clock → s.forkReady o = true →
      (∀ x ∈ s.ops, x.ply = o.ply → x.id < o.id → x.body.isPost = false) →
      let k := e.queue q
      let settled (st : Nat) : Prop := (s.servePost o).op o.id = none ∧ Resulted (s.servePost o) o p d ⟨BitVec.ofNat 64 st, .i64⟩
      let refused (st : Nat) : Prop := settled st ∧ (s.servePost o).mem = s.mem ∧ (s.servePost o).enclave p.enc = some e
      (63 < q ∨ k.qbase = 0 → refused 1)
      ∧ (q ≤ 63 → k.qbase ≠ 0 → 2 ^ k.log ≤ k.tail - k.head → refused 2)
      ∧ (q ≤ 63 → k.qbase ≠ 0 → k.tail - k.head < 2 ^ k.log → va % 64 ≠ 0 → refused 3)
      ∧ ∀ ws, q ≤ 63 → k.qbase ≠ 0 → k.head ≤ k.tail → k.tail - k.head < 2 ^ k.log → k.log ≤ 12 → va % 64 = 0 →
        s.unitRead (e.dies s) e.asid va 32 = some ws →
        settled (k.tail % 2 ^ 56 * 2 ^ 8)
        ∧ (s.servePost o).enclave p.enc = some (e.setQueue q { k with tail := k.tail + 1 })
        ∧ (s.servePost o).mem = (s.unitWrite (e.dies s) e.asid (k.qbase + 0x1000 + 256 * (k.tail % 2 ^ k.log)) ws).mem)
    ∧ (∀ (s : State) (o : Op) (p : Ply) (va n : Nat) (fs : List Nat),
      UnderWay s o p → o.body = .npost va n d fs → o.time < s.clock → s.forkReady o = true →
      (∀ x ∈ s.ops, x.ply = o.ply → x.id < o.id → x.body.isPost = false) →
      let settled (st : Nat) : Prop := (s.servePost o).op o.id = none ∧ Resulted (s.servePost o) o p d ⟨BitVec.ofNat 64 st, .i64⟩
        ∧ (s.servePost o).mem = s.mem
      let refused (st : Nat) : Prop := settled st ∧ (s.servePost o).nets = s.nets
      (n < 1 ∨ 64 < n → refused 1)
      ∧ (1 ≤ n → n ≤ 64 → va % 64 ≠ 0 → refused 2)
      ∧ ∀ ws, 1 ≤ n → n ≤ 64 → va % 64 = 0 → s.readGranules (coreAper p.core) p.asid va (8 * n) = .ok ws →
        (1024 - n < (s.nets.filter (·.enc == p.enc)).length → refused 3)
        ∧ ((s.nets.filter (·.enc == p.enc)).length ≤ 1024 - n → settled 0
          ∧ ∃ l, (s.servePost o).nets = s.nets ++ l ∧ l.length = n
            ∧ ∀ r ∈ l, r.enc = p.enc ∧ r.asid = p.asid ∧ r.post = o.id ∧ r.started = false ∧ r.status = none))
    ∧ ∀ (s : State) (x : Issue) (tr : Trans), Issues s (.ncqw h d a b scope tm) noExtra x → x.active ≠ [] →
      UniformCtl x a → UniformCtl x b → uni x a % 8 = 0 →
      s.xlate x.ply.core x.ply.asid (uni x a) .read = .ok (some tr) → s.isKick x.ply.asid tr.ia = false →
      ∃ t, exec (.ncqw h d a b scope tm) s = .next t ∧ t.mem = s.mem
        ∧ (∃ o ∈ t.ops, o.id = s.nextId ∧ o.ply = x.ply.handle ∧ o.left = x.active
            ∧ o.body = .mem ⟨.ncqw, d, .i64, 0, true, scope.toNat, [⟨x.active.headD 0, uni x a, tr.ia, tr.attr.aper,
              tr.attr.kind, ⟨x.uniform b, .i64⟩, Reg.zero, if tm = 0 then none else some (x.time + 2 ^ tm.toNat),
              .waiting⟩]⟩ x.len)
        ∧ After t x fun p => SameRegisters x p ∧ Stands p x.course.fibres x.course.run (.blocked x.active)

/-! ### Trap records, time slices, saving and restoring, the loss of a peer -/

/-- R360, R362, R363: a record goes to the tail of a ring that has room and to no other; the answer ends the fibres of the
course or lets it go on, past the instruction where it was a system call or a trap. -/
def Sys2Proof.Machine.TrapRecordsAreWrittenAndAnswered : Prop :=
  (∀ (s : State) (p : Ply) (c : Course) (x : Partition) (w : Word) (cause flags : Nat),
    s.ply p.handle = some p → p.hub = none → s.partitionOf p = some x → p.course c.id = some c → c.id ≠ 0 →
    c.reportable p = some (cause, flags) → x.ring ≠ 0 → s.unitRead (s.unitDies (x.id / 8) (x.id % 8)) 0 x.ring 1 = some [w] →
    let head := w.toNat % 2 ^ 32
    let tail := w.toNat / 2 ^ 32
    (2 ^ x.ringLog ≤ (tail + 2 ^ 32 - head) % 2 ^ 32 → exec (.trapRecordWrite p.handle c.id) s = .next s)
    ∧ ((tail + 2 ^ 32 - head) % 2 ^ 32 < 2 ^ x.ringLog → ∃ t q, exec (.trapRecordWrite p.handle c.id) s = .next t
      ∧ (∃ r ∈ t.recs, r.ply = p.handle ∧ r.course = c.id ∧ r.rejected = false ∧ r.woken = false
        ∧ r.va = some (x.ring + 64 + 64 * (tail % 2 ^ x.ringLog)))
      ∧ t.ply p.handle = some q ∧ ∃ k ∈ q.courses, k.id = c.id ∧ k.fibres = c.fibres ∧ k.run = c.run
        ∧ ∃ n m, k.phase = .parked cause n m true))
  ∧ ∀ (s : State) (r : TrapRec) (va cause n : Nat) (m l : Bool) (p : Ply) (c : Course) (w : Word) (word : IWord),
    s.recs.find? (·.id == r.id) = some r → r.va = some va → r.woken = true → r.rejected = false → s.ply r.ply = some p →
    p.course r.course = some c → c.phase = .parked cause n m l →
    s.unitRead (s.unitDies (r.part / 8) (r.part % 8)) 0 (va + 48) 1 = some [w] →
    s.fetchFor p c.run.pc = .ok word →
    ∃ t q, exec (.trapResponse r.id) s = .next t ∧ t.mem = s.mem ∧ (∀ r' ∈ t.recs, r'.id ≠ r.id) ∧ t.ply r.ply = some q
      ∧ (w = 1 → ∀ f ∈ c.fibres, (q.fibre f).live = false)
      ∧ (w ≠ 1 → ∃ k ∈ q.courses, k.fibres = c.fibres ∧ k.phase = .ready
        ∧ k.run.pc = c.run.pc + if cause = 0x38 ∨ cause = 0x39 then (if isLong word then 8 else 4) else 0)

/-- R358, R367, R371: a ply whose slice has ended and whose place is wanted is asked to be saved; at its reconvergence, where it
waits, or in full 2,000 cycles after, its frame is sealed under the next number of its enclave, with a buffer of the pool,
and it leaves its core; a skein follows when none of its plies is resident. -/
def Sys2Proof.Machine.PliesAndSkeinsAreSaved : Prop :=
  (∀ (s : State) (p : Ply), s.ply p.handle = some p → p.hub = none → p.residence = .resident → p.saveAsked = none →
    p.sliceStart + s.sliceInEffect (p.core / 1024) (s.contextPart p) * 600 ≤ s.clock → s.slotWanted p = true →
    ∃ t, exec (.sliceExpiry p.handle) s = .next t ∧ t.mem = s.mem
      ∧ t.ply p.handle = some { p with saveAsked := some (s.clock, 0) })
  ∧ (∀ (s : State) (p : Ply) (e : Enclave) (x : Partition) (b : Nat) (pool : List Nat) (kind : SaveKind) (ev : Instr),
    s.ply p.handle = some p → s.quiet p = true → (∀ o ∈ s.ops, o.ply ≠ p.handle) → s.enclave p.enc = some e →
    s.partitionOf p = some x → x.plyPool = b :: pool →
    (ev = .plySave p.handle ∧ p.saveAsked ≠ none ∧ p.atReconvergence = true ∧ kind = .reconvergence
      ∨ ev = .plySave p.handle ∧ p.saveAsked ≠ none ∧ p.atReconvergence = false ∧ p.atWaiting = true ∧ kind = .waiting
      ∨ ev = .forcedFullSave p.handle ∧ (∃ n r, p.saveAsked = some (n, r) ∧ n + 2000 ≤ s.clock) ∧ p.atReconvergence = false
        ∧ p.atWaiting = false ∧ kind = .full) →
    ∃ t q, exec ev s = .next t ∧ t.ply p.handle = some q ∧ q.residence = .saved kind b (e.frames + 1) ∧ q.saveAsked = none
      ∧ (∀ r ∈ (t.core p.core).runs, ∀ m ∈ r.members, m.1 ≠ p.handle)
      ∧ t.enclave e.enc = some { e with frames := e.frames + 1
                                        savedTab := e.savedTab.filter (·.handle != p.handle) ++ [⟨p.handle, b, e.frames + 1⟩] }
      ∧ ∀ y ∈ t.partitions, y.id = x.id → y.plyPool = pool)
  ∧ ∀ (s : State) (k : Skein) (e : Enclave) (x : Partition) (b : Nat) (pool : List Nat),
    s.skein k.handle = some k → k.residence = .resident → s.enclave k.enc = some e →
    s.partition (k.core / 1024) e.part = some x → x.skeinPool = b :: pool → s.bindOf k = none →
    (∃ p ∈ s.plies, p.skein = k.handle) → (∀ p ∈ s.plies, p.skein = k.handle → p.residence ≠ .resident) →
    (∀ o ∈ s.plyOps k.handle, o.pendingCopy = true) → s.partnerReads k = false →
    ∃ t k', exec (.skeinSave k.handle) s = .next t ∧ t.skein k.handle = some k'
      ∧ k'.residence = .saved .full b (e.frames + 1) ∧ k'.carve.cells = k.carve.cells ∧ k'.carve.bars = k.carve.bars
      ∧ ∀ y ∈ t.partitions, y.id = x.id → y.skeinPool = pool

/-- R368, R371, R421: a saved ply whose frame passes its checks stands at the place given, with FS set after a full save, and its
buffer goes back to the pool; one whose frame does not is reported; a saved skein comes back to a core that may take it. -/
def Sys2Proof.Machine.PliesAndSkeinsAreRestored : Prop :=
  (∀ (s : State) (p : Ply) (pl : Placement) (kind : SaveKind) (b v slot : Nat) (e : Enclave) (x : Partition)
    (entries : SMap (BitVec 96)) (latch : Option (Nat × Nat × List Reg)),
    s.ply p.handle = some p → p.residence = .saved kind b v → p.saved = some (entries, latch) → p.hub = none →
    p.hold = false → s.enclave p.enc = some e → s.partitionOf p = some x →
    s.restoreSlot p pl.core (match s.launches.find? (·.id == p.launch) with
      | some l => l.kernel | none => (0, p.chartBase.toNat)) entries = some slot →
    s.rejected p.handle = false → (∀ k, s.skein p.skein = some k → k.residence = .resident ∧ k.core = pl.core) →
    s.coreOpen e.part pl.core = true → (latch = none ∧ (∀ k, s.skein p.skein = some k → k.reserve = 0)
      ∨ SMap.get none (s.core pl.core).latches pl.part = none) →
    placesOk p.width p.window pl.core (s.coreTaken pl.core) [pl] = true →
    (s.frameGood e (x.id / 8) kind.num p.handle = true → ∃ t q, exec (.plyRestore p.handle pl) s = .next t ∧ t.mem = s.mem
      ∧ t.ply p.handle = some q ∧ q.residence = .resident ∧ q.core = pl.core ∧ q.part = pl.part ∧ q.slot = pl.slot
      ∧ q.base = pl.base ∧ q.group = pl.group ∧ q.chart = slot ∧ q.fs = decide (kind = .full) ∧ q.s = p.s
      ∧ (∀ f, (q.fibre f).v = (p.fibre f).v ∧ (q.fibre f).pred = (p.fibre f).pred)
      ∧ ∀ e', t.enclave p.enc = some e' → ∀ c ∈ e'.savedTab, c.handle ≠ p.handle)
    ∧ (s.frameGood e (x.id / 8) kind.num p.handle = false → ∃ t, exec (.plyRestore p.handle pl) s = .next t ∧ t.mem = s.mem
      ∧ t.ply p.handle = some p ∧ t.recs = s.recs ++ [⟨s.nextId, x.id, none, p.handle, 0, true, 0, false⟩]))
  ∧ ∀ (s : State) (k : Skein) (core : Nat) (e : Enclave) (x : Partition),
    s.skein k.handle = some k → k.residence ≠ .resident → k.reserve = 0 → k.kept = none → s.skein k.partner = none →
    s.enclave k.enc = some e → s.partition (k.core / 1024) e.part = some x → s.mayTake k core = true →
    (∀ p ∈ s.plies, p.skein = k.handle → s.rejected p.handle = false) →
    s.frameGood e (k.core / 1024) 3 k.handle = true →
    ∃ t k', exec (.skeinRestore k.handle core) s = .next t ∧ t.mem = s.mem ∧ t.skein k.handle = some k'
      ∧ k'.residence = .resident ∧ k'.core = core ∧ k'.carve.cells = k.carve.cells

/-- R375, R391: where a partition uses a lost package, die or link its plies are to stop, and its work requests end with
status 6; a partition that does not use it goes on.  A ply that is to stop does so where it stands as for a full save: its
course parks with cause 0x31, eaux naming what is lost. -/
def Sys2Proof.Machine.PeerLossQuiescesThePartition : Prop :=
  (∀ (s : State) (kind aper other : Nat) (p : Ply) (e : Enclave),
    kind < 3 → s.ops = [] → s.ply p.handle = some p → s.enclave p.enc = some e → e.part < 6 →
    (s.usesLost kind aper other e.part = true → ∃ t, exec (.peerLoss kind aper other) s = .next t ∧ t.mem = s.mem
      ∧ t.ply p.handle = some { p with lost := some (BitVec.ofNat 64 (aper % 4096 + kind * 4096)) }
      ∧ ∀ r ∈ s.nets, r.enc = p.enc → r.status = none → ∃ r' ∈ t.nets, r'.id = r.id ∧ r'.status = some 6)
    ∧ (s.usesLost kind aper other e.part = false →
      ∃ t, exec (.peerLoss kind aper other) s = .next t ∧ t.mem = s.mem ∧ t.ply p.handle = some p))
  ∧ ∀ (s : State) (p : Ply) (c : Course) (eaux : Word),
    s.ops = [] → s.ply p.handle = some p → p.lost = some eaux → p.hub = none →
    (s.quiet p = false → s.settleLoss p = s)
    ∧ (s.quiet p = true → p.courses = [c] → c.fibres ≠ [] → (∀ f ∈ c.fibres, (p.fibre f).handling = false) →
      ∃ q, (s.settleLoss p).mem = s.mem ∧ (s.settleLoss p).ply p.handle = some q ∧ q.lost = none
      ∧ (∃ k ∈ q.courses, (∀ f ∈ c.fibres, f ∈ k.fibres) ∧ k.run = c.run ∧ ∃ n m l, k.phase = .parked 0x31 n m l)
      ∧ ∀ f ∈ c.fibres, f < p.fibres.length → (q.fibre f).eaux = eaux)

/-! ### Enclaves and launches -/

namespace Sys2Proof.Machine

/-- An E-instruction at issue: its words go to the monitor (R313, R314). -/
def AsksMonitor (i : Instr) (srcs : List Src) : Prop :=
  LeavesOp i noExtra (fun s x => s.specOf x.ply = none ∧ ∀ a ∈ srcs, UniformCtl x a)
    (fun _ x => .monitor i (srcs.map x.uniform))

/-- The monitor may settle operation `o` of ply `p` (R307). -/
def Settles (s : State) (o : Op) (p : Ply) (i : Instr) (w : List Word) (d : BitVec 6) : Prop :=
  UnderWay s o p ∧ o.body = .monitor i w ∧ o.dests = [.s d.toNat] ∧ s.owing o.ply o.id o.left false = false
    ∧ ∀ q ∈ s.ops, q.ply = o.ply → q.id < o.id → ∀ j l, q.body ≠ .monitor j l

/-- Queue `q` of enclave `e` has launch `l` at its head. -/
def AtHead (s : State) (e : Enclave) (q : Nat) (l : Launch) : Prop := s.enclave e.enc = some e ∧ s.headLaunch e q = some l

end Sys2Proof.Machine

/-- R313 to R325, R327: the E-instructions at issue, and what the monitor's outcome gives them: a status in the destination and
nothing else where it fails, the rest of the word and the new state where it succeeds; an ESEAL of a frame with a lease waits, its
frame in transit, until the lease has drained. -/
def Sys2Proof.Machine.MonitorInstructionsAskAndAreSettled : Prop :=
  (∀ (h : Head) (d a' : BitVec 6) (a b : Src) (slot : BitVec 3),
    AsksMonitor (.ecreate h d a slot) [a] ∧ AsksMonitor (.eadd h d a slot) [a] ∧ AsksMonitor (.eaddDev h d a slot) [a]
    ∧ AsksMonitor (.einit h d a slot) [a] ∧ AsksMonitor (.edestroy h d a slot) [a]
    ∧ AsksMonitor (.ereport h d a b slot) [a, b]
    ∧ AsksMonitor (.eseal h d a' slot) [.s a', .s (a' + 1), .s (a' + 2), .s (a' + 3)]
    ∧ AsksMonitor (.eunseal h d a' slot) [.s a', .s (a' + 1), .s (a' + 2)])
  ∧ ∀ (s : State) (o : Op) (p : Ply) (i : Instr) (w : List Word) (d : BitVec 6), Settles s o p i w d →
    let ns := w.map BitVec.toNat
    s.enclaveHeld p o.id i ns = false →
    (∀ n, s.settle p o.id i ns = .error n → ∃ t q, exec (.monitorSettle o.id) s = .next t ∧ t.mem = s.mem
      ∧ t.op o.id = none ∧ t.ply o.ply = some q ∧ q.s = SMap.set Reg.zero p.s d.toNat ⟨BitVec.ofNat 64 n, .i64⟩
      ∧ ((∀ e ∈ s.enclaves, e.sealing ≠ some o.id) → t.enclaves = s.enclaves ∧ t.owners = s.owners))
    ∧ (∀ s' v e x, s.settle p o.id i ns = .ok (s', v) → s.sealLease i ns = some (e, x) →
      exec (.monitorSettle o.id) s = .next (s.beginSeal o.id e x))
    ∧ (∀ s' v, s.settle p o.id i ns = .ok (s', v) → s.sealLease i ns = none → s.budgets = [] → ∃ t q, exec (.monitorSettle o.id) s = .next t
      ∧ t.mem = s'.mem ∧ t.enclaves = s'.enclaves ∧ t.owners = s'.owners ∧ t.op o.id = none ∧ t.ply o.ply = some q
      ∧ q.s = SMap.set Reg.zero p.s d.toNat ⟨BitVec.ofNat 64 v, .i64⟩)

/-- R316, R317, R318, R323, R325: conditions and effects of the monitor's operations. -/
def Sys2Proof.Machine.MonitorKeepsItsConditions : Prop :=
  ∀ (s : State) (p : Ply) (op va enc ia name : Nat),
    let aper := coreAper p.core
    (va % 64 ≠ 0 → s.ecreate aper va = .error 2 ∧ s.eaddPage p va = .error 2)
    ∧ (s.lastEnc < 65536 → ∀ s' v, s.ecreate aper va = .ok (s', v) → ∃ e, s'.enclave e.enc = some e ∧ s.enclave e.enc = none
      ∧ v = e.asid * 2 ^ 8 + e.enc * 2 ^ 32 ∧ 2 ≤ e.asid ∧ e.asid < 2048 ∧ 1 ≤ e.enc ∧ e.enc < 65536 ∧ e.running = false
      ∧ s'.mem = s.mem ∧ (∀ pkg, ∀ j < 16, s'.range pkg e.asid j = Range.off) ∧ ∀ k ∈ e.vframes, (SMap.get Owner.free s.owners k).state = 0)
    ∧ (s.enclave enc = none → s.einit enc = .error 1 ∧ s.edestroy enc = .error 1 ∧ s.eseal p op enc ia name va = .error 1
      ∧ s.eunseal p enc name va = .error 1)
    ∧ (∀ e, s.enclave enc = some e → e.running = true → s.einit enc = .error 1)
    ∧ (∀ e, s.enclave enc = some e → e.running = false → e.nthr = 0 →
      (∀ j < e.nspill, s.pageFrame e (e.spill / 65536 + j) ≠ none) →
      s.einit enc = .ok (s.putEnclave { e with running := true, threads := [] }, 0))
    ∧ (∀ e, s.enclave enc = some e → s.enclaveBusy e = true → s.edestroy enc = .error 5)
    ∧ (∀ e, s.enclave enc = some e → s.enclaveBusy e = false → ∃ s', s.edestroy enc = .ok (s', 0) ∧ s'.enclave enc = none
      ∧ (∀ r ∈ s'.ranges, r.1 / 16 % 2048 ≠ e.asid) ∧ (∀ r ∈ s'.roots, r.1 % 2048 ≠ e.asid)
      ∧ (∀ x ∈ s'.frameCaches, x.asid ≠ e.asid) ∧ ∀ c ∈ s'.cores, ∀ t ∈ c.tlb, t.asid ≠ e.asid)
    ∧ (∀ s' v, s.eseal p op enc ia name va = .ok (s', v) → ∃ e e', s.enclave enc = some e ∧ s'.enclave enc = some e'
      ∧ e'.seals = e.seals + 1 ∧ v = (e.seals + 1) % 2 ^ 48 * 2 ^ 16
      ∧ e'.versions = SMap.set 0 e.versions (ia / 65536) (e.seals + 1))

/-- R319, R320, R321: EENTER runs a fresh thread of an initialised enclave at user level, with no register of the supervisor
left; another number gives its status; EEXIT goes back to the word after EENTER with status 0. -/
def Obligations.HubThreadsEnterAndLeave : Prop :=
  ∀ (h : Head) (d : BitVec 6) (a b : Src) (hub : Hub),
    let quiet (s : State) (x : Issue) : Prop := x.ply.hub = some hub ∧ x.active ≠ [] ∧ s.plyBusy x.ply.handle = false
    let asks (s : State) (x : Issue) : Prop := quiet s x ∧ UniformCtl x a ∧ UniformCtl x b
    Completes (.eenter h d a b) noExtra (fun s x => asks s x ∧ s.enclave (uni x a) = none)
        (fun s x t => t = x.finishOnce s x.ply (some ⟨1, .i64⟩))
    ∧ (∀ (e : Enclave) (n : Nat) (th : Thread), Completes (.eenter h d a b) noExtra
        (fun s x => asks s x ∧ s.enclave (uni x a) = some e ∧ uni x b = n ∧ e.running = true ∧ e.threads[n]? = some th
          ∧ th.state = .fresh ∧ th.chart = 0)
        (fun s x t => t.mem = s.mem ∧ After t x fun q => q.enc = e.enc ∧ q.asid = e.asid ∧ q.s = [] ∧ q.plyCtl = 4
          ∧ (q.fibre 0).v = [] ∧ (q.fibre 0).pred = 1 ∧ (q.fibre 0).live = true
          ∧ (∃ c ∈ q.courses, c.run = Run.start th.entry ∧ c.phase = .ready)
          ∧ ∃ u, q.hub = some u ∧ u.level = 0 ∧ u.thread = some (e.enc, n) ∧ u.leaving = none))
    ∧ ∀ (sup : Sup) (enc n : Nat), hub.sup = some sup → hub.thread = some (enc, n) →
        Completes (.eexit h) noExtra quiet (fun s x t => t.mem = s.mem ∧ After t x fun q =>
          q.enc = sup.enc ∧ q.asid = sup.asid ∧ q.plyCtl = sup.plyCtl
          ∧ q.s = SMap.set Reg.zero [] sup.d ⟨0, .i64⟩ ∧ (∃ c ∈ q.courses, c.run = sup.run ∧ c.phase = .ready)
          ∧ ∃ u, q.hub = some u ∧ u.level = 1 ∧ u.thread = none)

/-- R331, R332, R337, R339, R336, R338: a launch at the head of its queue: its descriptor is read, one that cannot be read or
breaks a rule is rejected; its skeins enter cores that may take them; it completes when all have ended, and the queue goes
on. -/
def Obligations.LaunchesStartAdmitAndComplete : Prop :=
  ∀ (s : State) (e : Enclave) (q core : Nat), s.enclave e.enc = some e →
    let k := e.queue q
    (k.qbase ≠ 0 → k.head < k.tail → s.headLaunch e q = none → s.unitRead (e.dies s) e.asid (k.entry k.head) 32 = none →
      ∃ t l, exec (.launchStart e.enc q) s = .next t ∧ t.mem = s.mem ∧ t.launches = s.launches ++ [l] ∧ l.status = 4
        ∧ l.seq = k.head ∧ l.queue = q)
    ∧ (∀ ws, k.qbase ≠ 0 → k.head < k.tail → s.headLaunch e q = none →
      s.unitRead (e.dies s) e.asid (k.entry k.head) 32 = some ws → ws.length = 32 →
      ∃ t l, exec (.launchStart e.enc q) s = .next t ∧ t.mem = s.mem ∧ t.launches = s.launches ++ [l]
        ∧ l.desc = granuleBytes ws ∧ (descOk l.desc = false → l.status = 1)
        ∧ (l.status = 0 → descOk l.desc = true ∧ l.total = field l.desc 32 2 * l.cpp * l.hpc * l.sph
          ∧ l.todo = List.range l.total))
    ∧ (∀ l i r pls, AtHead s e q l → l.acc = 0 → l.todo = i :: r → s.wanting l = true → s.specs = [] →
      (∀ p ∈ s.plies, p.enc = e.enc → p.launch = l.id → p.residence = .resident) → s.mayHold l core = true →
      pls.length = l.plies → placesOk l.width l.window core (s.coreTaken core) pls = true → s.outranked l core = false →
      ∃ t sk new, exec (.skeinAdmit e.enc q core pls) s = .next t ∧ t.mem = s.mem ∧ t.skeins = s.skeins ++ [sk]
        ∧ sk.launch = l.id ∧ sk.core = core ∧ sk.index = i ∧ sk.plies = l.plies ∧ sk.carve = l.carve
        ∧ t.plies = s.plies ++ new ∧ new.length = pls.length
        ∧ (∀ p ∈ new, p.skein = sk.handle ∧ p.core = core ∧ p.enc = e.enc ∧ p.width = l.width ∧ p.window = l.window
          ∧ p.level = k.level ∧ p.residence = .resident
          ∧ ∃ c, p.courses = [c] ∧ c.fibres = List.range l.width ∧ c.run = Run.start (field l.desc 0 8) ∧ c.phase = .ready)
        ∧ ∃ l' ∈ t.launches, l'.id = l.id ∧ l'.todo = r.filter (· != i))
    ∧ (∀ l, AtHead s e q l → (∀ x ∈ s.specs, ¬ (x.enc = e.enc ∧ x.queue = q)) → (l.status ≠ 0 ∨ l.todo = [] ∧ l.ended = l.total) →
      ∃ t e', exec (.launchComplete e.enc q) s = .next t ∧ t = s.settleLaunch e l l.status ∧ (∀ l' ∈ t.launches, l'.id ≠ l.id)
        ∧ t.enclave e.enc = some e' ∧ (l.queue = q → (e'.queue q).head = k.head + 1 ∧ (e'.queue q).level = k.base))
    ∧ (∀ l n, AtHead s e q l → s.wanting l = true → k.readySince = some n → n + 16 * 600000 ≤ s.clock →
      ∃ t, exec (.queueLevelRise e.enc q) s = .next t ∧ t.mem = s.mem ∧ t.enclave e.enc = some (e.setQueue q
        { k with level := max k.level (min k.cap (k.level + 1)), readySince := some (n + 16 * 600000) }))
    ∧ (∀ l n, AtHead s e q l → s.wanting l = true → l.waitSince = some n → n + 600000 ≤ s.clock →
      s.hasRoom l = false →
      ∃ t, exec (.admissionReclaim e.enc q) s = .next t ∧ t.mem = s.mem ∧ t.plies.length = s.plies.length
        ∧ ∀ p ∈ s.plies, p.hub = none → p.residence = .resident → p.level < k.level → p.saveAsked = none →
          (∀ x ∈ s.specs, x.launch ≠ p.launch) → s.coreOpen l.part p.core = true → (∀ i ∈ l.nextSkeins, s.mayBind l (i / l.sph) (l.coreOf p.core i) = true) →
          { p with saveAsked := some (s.clock, 1) } ∈ t.plies)
    ∧ (∀ limit, limit ≤ 2048 → ∃ t, exec (.admitLimitUpdate core limit) s = .next t ∧ t.mem = s.mem
      ∧ t.core core = { s.core core with limit })

/-- R342, R343, R344, R345: a queue that predicts runs a speculation; the real launch takes it over when every word matches and
nothing it read was written, and it is discarded otherwise, for causes 5 and 6. -/
def Sys2Proof.Machine.SpeculationsStartAndAreClaimed : Prop :=
  ∀ (s : State) (e : Enclave) (q : Nat), s.enclave e.enc = some e →
    let k := e.queue q
    (∀ n o m l, k.qbase ≠ 0 → k.tail = k.head → (∀ x ∈ s.specs, ¬ (x.enc = e.enc ∧ x.queue = q)) →
      (∀ o ∈ s.launches, o.part = e.part → s.wanting o = false) → k.predicts = some (n, o, m) →
      s.loadLaunch e (Launch.blank s.nextId e q k.head n.desc) = .ok l →
      s.idleStart e { l with
        args := (List.range n.args.length).map fun i => (predictedArg m n.args o.args i).getD 0
        hasMatch := some m
        spec := true } = true →
      ∃ t x l', exec (.speculationStart e.enc q) s = .next t ∧ t.mem = s.mem ∧ t.specs = s.specs ++ [x] ∧ x.enc = e.enc
        ∧ x.queue = q ∧ x.swatch = [] ∧ x.launch = l.id ∧ t.launches = s.launches ++ [l'] ∧ l'.spec = true
        ∧ l'.desc = l.desc ∧ (∀ i < n.args.length, matchClass m i ≠ 2 → matchClass m i ≠ 3 → l'.args.getD i 0 = n.args.getD i 0)
        ∧ (∀ i < n.args.length, matchClass m i = 2 → l'.args.getD i 0 = n.args.getD i 0 + (n.args.getD i 0 - o.args.getD i 0))
        ∧ t.enclave e.enc = some (e.setQueue q { k with spStart := k.spStart + 1 }))
    ∧ ∀ real x spec, AtHead s e q real → s.specs.find? (fun x => x.enc == e.enc && x.queue == q) = some x →
      s.launches.find? (·.id == x.launch) = some spec → s.headReady e q = true →
      (s.claimMatches e x real spec = false → exec (.speculationClaim e.enc q) s = .next (s.discardSpec x 5))
      ∧ (s.claimMatches e x real spec = true → (∃ l ∈ x.reads, l ∈ x.written) →
        exec (.speculationClaim e.enc q) s = .next (s.discardSpec x 6))
      ∧ (s.claimMatches e x real spec = true → (∀ l ∈ x.reads, l ∉ x.written) → x.swatch = [] →
        ∃ t, exec (.speculationClaim e.enc q) s = .next t ∧ (∀ y ∈ t.specs, y.launch ≠ x.launch)
          ∧ (∀ l ∈ t.launches, l.id ≠ real.id ∧ l.id ≠ x.launch)
          ∧ ∃ e', t.enclave e.enc = some e' ∧ (real.queue = q →
            (e'.queue q).head = k.head + 1 ∧ (e'.queue q).spCommit = k.spCommit + 1))
      ∧ (∀ c, ∃ t, s.discardSpec x c = t ∧ (∀ y ∈ t.specs, y.launch ≠ x.launch) ∧ (∀ l ∈ t.launches, l.id ≠ x.launch)
        ∧ (∀ p ∈ t.plies, p.launch ≠ x.launch) ∧ t.mem = s.mem
        ∧ ∃ tab, (∀ y ∈ tab, y ∈ e.savedTab) ∧ t.enclave e.enc
          = some { e.setQueue q { k with spDiscard := k.spDiscard + 1, spCause := c } with savedTab := tab })

/-- R348, R349: an overrun disarms the gauge and parks the courses of the ply with cause 0x30 and its phase; a ply that has
not gone on from it for 2^20 cycles resets its partition. -/
def Sys2Proof.Machine.GaugesOverrunAndReset : Prop :=
  ∀ (s : State) (p : Ply) (c : Course) (n : Nat), s.ply p.handle = some p →
    (∀ g, p.gauge = some g → g.since = some n → g.left < s.clock - n → p.courses = [c] → c.phase = .ready →
      (∀ o ∈ s.ops, o.ply ≠ p.handle) →
      ∃ t q, exec (.gaugeOverrun p.handle) s = .next t ∧ t.mem = s.mem ∧ t.ply p.handle = some q
        ∧ q.gauge = none ∧ q.overrun = some (p.overrun.getD s.clock)
        ∧ (∃ k ∈ q.courses, (∀ f ∈ c.fibres, f ∈ k.fibres) ∧ k.run = c.run ∧ ∃ n m l, k.phase = .parked 0x30 n m l)
        ∧ ∀ f ∈ c.fibres, f < p.fibres.length → (q.fibre f).eaux = BitVec.ofNat 64 g.phase)
    ∧ (∀ e, p.overrun = some n → p.overrunOpen = true → s.enclave p.enc = some e →
      (n + 2 ^ 20 ≤ s.clock → exec (.gaugeHangTimeout p.handle) s = .next (s.partitionReset e.part))
      ∧ (s.clock < n + 2 ^ 20 → exec (.gaugeHangTimeout p.handle) s = .next s))
    ∧ (p.overrun = none → exec (.gaugeHangTimeout p.handle) s = .next s)

/-! ### The fabric and the network engine -/

namespace Sys2Proof.Machine

/-- Request `m` of fibre `i.fibre`'s access has reached its home, its turn has come (R380), its granule stands at `a`, and the
way back is open (R385). -/
structure Arrives (s : State) (m : Msg) (opc : Nat) (o : Op) (p : Ply) (mo : MemOp) (i : MItem) (a : Nat) : Prop where
  msg : s.arrivedMsg m.id opc = some m
  op : s.op m.op = some o
  turn : s.soTurn m = true
  access : s.access m.op m.fibre = some (o, p, mo, i)
  home : i.home ≠ coreAper p.core
  real : s.specOf p = none
  place : s.resolve i.home p.asid i.ia mo.cls.access true = .ok a
  way : s.hop m.asid m.dst m.src ≠ none

/-- A response to a request is under way to its requester. -/
def Answered (t : State) (m : Msg) (opc : Nat) (ans : Answer) : Prop :=
  ∃ r, t.msg m.id = some r ∧ r.opc = opc ∧ r.answer = ans ∧ r.src = m.dst ∧ r.dst = m.src ∧ r.op = m.op ∧ r.fibre = m.fibre

/-- Response `m` has reached the operation whose access awaits it. -/
structure Returns (s : State) (m : Msg) (opc : Nat) (o : Op) (p : Ply) (mo : MemOp) (i : MItem) : Prop where
  msg : s.arrivedMsg m.id opc = some m
  op : s.op m.op = some o
  ply : s.ply o.ply = some p
  body : ∃ len, o.body = .mem mo len
  item : mo.items.find? (fun i => i.fibre == m.fibre) = some i

/-- Every message of which a flit carries a unit keeps R376, is for the die that the flit reaches, and has no place in the order of
the SO requests. -/
def PlainCargo (s : State) (f : Flit) : Prop :=
  ∀ id ∈ f.carries, ∃ m, s.msg id = some m ∧ m.lawful = true ∧ m.dst = f.dst ∧ (m.so = false ∨ 0x80 ≤ m.opc)

/-- No other flit of the hop has a unit of a message. -/
def LastPart (s : State) (f : Flit) (id : Nat) : Prop :=
  ∀ g ∈ s.flits, g.id ≠ f.id → g.scaleup = f.scaleup → g.src = f.src → g.dst = f.dst → id ∉ g.carries

/-- The flit has left its link, and its messages have arrived, but for those that have a unit in another flit. -/
def Brought (s t : State) (f : Flit) : Prop :=
  t.mem = s.mem ∧ (∀ g ∈ t.flits, g.id ≠ f.id) ∧ ∀ id ∈ f.carries, ∀ m, s.msg id = some m →
    (LastPart s f id → ∃ c, s.nextId ≤ c ∧ t.msg id = some { m with arrived := true, held := none, came := c })
    ∧ (¬ LastPart s f id → t.msg id = some m)

/-- The flit has left its link, and what it carried is gone with it. -/
def Rejected (s t : State) (f : Flit) : Prop :=
  t.mem = s.mem ∧ (∀ g ∈ t.flits, g.id ≠ f.id) ∧ (∀ id ∈ f.carries, t.msg id = none)
    ∧ ∀ id, id ∉ f.carries → t.msg id = s.msg id

/-- No budget stands for the network bytes of a holder at a port, and none holds a request of this key (R401, R402). -/
def Unbudgeted (s : State) (pkg holder port key : Nat) : Prop :=
  ∀ b ∈ s.budgets, b.is pkg holder 4 port = false ∧ ∀ w ∈ b.waiting, w.1 ≠ key

/-- A NACK comes from outside, or from a port of this machine that sent it. -/
def NackComes (s : State) (r : NetReq) (k : Nat) (error : Bool) : Prop :=
  Config.endpoint r.peer = none
    ∨ ∃ g n, Config.endpoint r.peer = some (g, n) ∧ Out.nack g n r.src r.id k error ∈ s.outs

/-- A packet comes from outside, or from a port of this machine that sent it to this one; trimming takes its bytes. -/
def PacketComes (s : State) (pkg : Nat) (k : NetPacket) : Prop :=
  2 ^ 16 ≤ k.src ∨ ∃ peer x, Out.packet peer x ∈ s.outs ∧ Config.endpoint peer = some (pkg, k.port)
    ∧ { x with port := k.port, auth := k.auth, trimmed := k.trimmed, data := if k.trimmed then k.data else x.data } = k

/-- The bytes of an answer to a READ come from outside, or from a port of this machine that sent them. -/
def BytesCome (s : State) (r : NetReq) (k : NetPacket) : Prop :=
  Config.endpoint r.peer = none
    ∨ ∃ g n, Config.endpoint r.peer = some (g, n) ∧ Out.bytes g n r.src r.id k.offset k.data ∈ s.outs

/-- A request of the network engine that may start (R391). -/
def Starts (s : State) (r : NetReq) (op : Nat) : Prop := s.netReq r.id = some r ∧ r.op = op ∧ s.netMayStart r = true

/-- A request stands in the engine, started, with its status. -/
def NetIs (t : State) (id : Nat) (status : Option Nat) : Prop := ∃ q, t.netReq id = some q ∧ q.started = true ∧ q.status = status

end Sys2Proof.Machine

/-- R376, R377, R380, R255, R257, R259, R261, R291: what a request does at its home, with the values of the line it carries, and
the answer that goes back. -/
def Obligations.FabricRequestsActAtTheHome : Prop :=
  ∀ (s : State) (m : Msg) (o : Op) (p : Ply) (mo : MemOp) (i : MItem) (a : Nat) (w : Word),
    let v := (i.asked m).val
    (Arrives s m 1 o p mo i a → mo.cls = .load ∨ mo.cls = .waitv → ∃ t, exec (.fabricRead m.id) s = .next t ∧ t.mem = s.mem
      ∧ (s.tagFail.contains (a / 64) = false → Answered t m 0x81 (.granule (s.granule a i.ia) false))
      ∧ (s.tagFail.contains (a / 64) = true → Answered t m 0x8F (.fault 0x15 0)))
    ∧ (Arrives s m 2 o p mo i a → mo.cls = .store → s.tagFail.contains (a / 64) = false →
      ∃ t, exec (.fabricWrite m.id) s = .next t ∧ t.mem = granuleSet s a (if v.tag = .poison then 0 else v.val)
        ∧ Answered t m 0x82 .none)
    ∧ (Arrives s m 3 o p mo i a → mo.cls = .atom → s.deliver a i.ia = .valid w → v.tag = .i64 →
      s.tagFail.contains (a / 64) = false → mo.code ≠ 1 → mo.code < 10 → ∃ t, exec (.fabricAtomic m.id) s = .next t
        ∧ t.mem = granuleSet s a (atomWord mo.code w v.val) ∧ Answered t m 0x83 (.value ⟨w, .i64⟩))
    ∧ (Arrives s m 4 o p mo i a → mo.cls = .redms → s.deliver a i.ia = .valid w → mo.fmt.isInt = true → mo.code % 4 = 0 →
      s.tagFail.contains (a / 64) = false → ∃ t n, exec (.fabricArithmetic m.id) s = .next t ∧ Answered t m 0x84 .none
        ∧ t.mem = granuleSet s a n ∧ ∀ e < mo.fmt.subs, subAt mo.fmt n.toNat e
          = (subAt mo.fmt w.toNat e + subAt mo.fmt v.val.toNat e) % 2 ^ mo.fmt.width)
    ∧ (∀ enc, Arrives s m 7 o p mo i a → mo.cls = .wakev → s.encOfAsid p.asid = some enc → enc ≠ 0 →
      let all := s.waiters.filter fun x => x.home == i.home && x.enc == enc && x.key == i.va / 8
      let n := if i.cmp.val = 0 then all.length else min all.length i.cmp.val.toNat
      ∃ t, exec (.fabricWake m.id) s = .next t ∧ t.mem = s.mem ∧ t.waiters.length + n = s.waiters.length
        ∧ Answered t m 0x86 (.count n))
    ∧ (s.arrivedMsg m.id 5 = some m → s.hop m.asid m.dst m.src ≠ none →
      (∀ level e, s.homeWalk m.dst m.asid m.ia = .ok (level, e) → ∃ t, exec (.fabricProbe m.id) s = .next t ∧ t.mem = s.mem
        ∧ Answered t m 0x85 (.attr (bitsOf e 60 2) (BitVec.ofNat 3 (bitsOf e 57 3)) (BitVec.ofNat 3 (bitsOf e 54 3))
            (levelShift level)))
      ∧ (∀ x, s.homeWalk m.dst m.asid m.ia = .error x → ∃ t, exec (.fabricProbe m.id) s = .next t ∧ t.mem = s.mem
        ∧ Answered t m 0x8F (.fault x.cause x.sub)))
    ∧ (Arrives s m 6 o p mo i a → mo.cls = .waitv → s.deliver a i.ia = .valid w →
      (∀ x ∈ s.waiters, ¬ (x.op = m.op ∧ x.fibre = m.fibre)) →
      (w ≠ i.val.val → ∃ t, exec (.fabricWaitEnter m.id) s = .next t ∧ t.mem = s.mem ∧ t.waiters = s.waiters
        ∧ Answered t m 0x86 .none)
      ∧ (w = i.val.val → (s.waiters.filter fun x => x.home == i.home).length < 65536 →
        ∃ t, exec (.fabricWaitEnter m.id) s = .next t ∧ t.mem = s.mem ∧ t.msgs = s.msgs
          ∧ t.waiters = s.waiters ++ [⟨o.id, i.fibre, p.enc, i.va / 8, i.home, a / 8 * 8, false⟩]))

/-- R377, R251, R255, R260, R261, R291: what a response does at its requester. -/
def Sys2Proof.Machine.FabricResponsesEndTheAccess : Prop :=
  ∀ (s : State) (m : Msg) (o : Op) (p : Ply) (mo : MemOp) (i : MItem),
    (∀ g b, Returns s m 0x81 o p mo i → mo.cls = .load → m.answer = .granule g b →
      ∃ t, exec (.fabricReadResponse m.id) s = .next t ∧ t.mem = s.mem ∧ t.msg m.id = none ∧ Over t o i.fibre
        ∧ (∀ w, judged (g, b) i.ia = .valid w → Written t o p i.fibre mo.dst ⟨w, mo.fmt⟩)
        ∧ ((∀ w, judged (g, b) i.ia ≠ .valid w) → Written t o p i.fibre mo.dst ⟨0, .poison⟩)
        ∧ (judged (g, b) i.ia = .badTag → Pends t o p i.fibre 0x15)
        ∧ (judged (g, b) i.ia = .badCode → Pends t o p i.fibre 0x16))
    ∧ (Returns s m 0x82 o p mo i → m.answer = .none → ∃ t, exec (.fabricWriteAck m.id) s = .next t ∧ t.mem = s.mem
        ∧ t.plies = s.plies ∧ t.msg m.id = none ∧ Over t o i.fibre)
    ∧ (∀ r, Returns s m 0x83 o p mo i → m.answer = .value r → ∃ t, exec (.fabricAtomicResponse m.id) s = .next t
        ∧ t.mem = s.mem ∧ t.msg m.id = none ∧ Over t o i.fibre ∧ Written t o p i.fibre mo.dst r)
    ∧ (Returns s m 0x84 o p mo i → m.answer = .none → ∃ t, exec (.fabricArithmeticAck m.id) s = .next t ∧ t.mem = s.mem
        ∧ t.plies = s.plies ∧ t.msg m.id = none ∧ Over t o i.fibre)
    ∧ (∀ n, Returns s m 0x86 o p mo i → mo.cls = .wakev → m.answer = .count n →
      ∃ t, exec (.fabricWaitResponse m.id) s = .next t ∧ t.mem = s.mem ∧ Over t o i.fibre
        ∧ Written t o p i.fibre mo.dst ⟨BitVec.ofNat 64 n, .i64⟩)
    ∧ (Returns s m 0x86 o p mo i → mo.cls = .waitv → s.hop o.asid (coreAper p.core) i.home ≠ none →
      ∃ t, exec (.fabricWaitResponse m.id) s = .next t ∧ t.mem = s.mem ∧ t.plies = s.plies
        ∧ ∃ r ∈ t.msgs, r.opc = 1 ∧ r.op = o.id ∧ r.fibre = i.fibre ∧ r.dst = i.home ∧ r.ia = i.ia)
    ∧ (∀ c sub, Returns s m 0x8F o p mo i → m.op ≠ 0 → mo.cls = .load → m.answer = .fault c sub →
      ∃ t, exec (.fabricFaultResponse m.id) s = .next t ∧ t.mem = s.mem ∧ Over t o i.fibre
        ∧ Written t o p i.fibre mo.dst ⟨0, .poison⟩ ∧ Pends t o p i.fibre c)
    ∧ (∀ c sub, s.arrivedMsg m.id 0x8F = some m → m.op = 0 → m.answer = .fault c sub →
      ∃ t, exec (.fabricFaultResponse m.id) s = .next t ∧ t.mem = s.mem
        ∧ ∀ q ∈ t.probes, q.core = m.core → q.asid = m.asid → q.page = m.ia / 65536 → q.failed = some (c, sub))
    ∧ (∀ level e, s.arrivedMsg m.id 0x85 = some m → s.walk (coreAper m.core) m.asid m.ia = .stub level e →
      s.isKick m.asid m.ia = false → (s.core m.core).tlbFind m.asid m.ia = none →
      ∃ t y, exec (.fabricProbeResponse m.id) s = .next t ∧ t.mem = s.mem ∧ (t.core m.core).tlbFind m.asid m.ia = some y
        ∧ y.attr = attrOf level e true)

/-- R378, R381, R382, R383, R385: a flit that is taken brings the messages whose last unit it carries, and one for another die goes
on; one that fails its CRC goes again under the next counter; a duplicate, and one that no firewall lets in, brings nothing; a
flit that fails its tag is the loss of the link; an SO request of another package is held at the gateway until its turn. -/
def Sys2Proof.Machine.FlitsBringTheirMessages : Prop :=
  ∀ (s : State) (f : Flit) (m : Msg), s.flits.find? (fun g => g.id == f.id) = some f →
    let key := linkKey f.scaleup f.src f.dst f.asid
    let ctr := SMap.get 0 s.links key
    let alone : Prop := f.carries = [m.id] ∧ s.msg m.id = some m ∧ LastPart s f m.id ∧ m.lawful = true
    (f.scaleup = false → s.flitFirst f = true →
      let opened : Prop := f.src = f.dst ∨ (s.pkg (aperPkg f.dst)).linkOpen (aperDie f.dst) (aperDie f.src) f.asid = true
      (opened → PlainCargo s f → ∃ t, exec (.ucieFlitReceive f.id true) s = .next t ∧ Brought s t f)
      ∧ (opened → alone → m.dst ≠ f.dst → m.so = false → s.budgets = [] → ∀ h, s.hop m.asid f.dst m.dst = some h →
        ∃ t, exec (.ucieFlitReceive f.id true) s = .next t ∧ t.mem = s.mem ∧ t.msg m.id = some { m with held := none }
          ∧ ∃ g ∈ t.flits, g.scaleup = h.1 ∧ g.src = f.dst ∧ g.dst = h.2 ∧ m.id ∈ g.carries)
      ∧ (¬ opened → ∃ t, exec (.ucieFlitReceive f.id true) s = .next t ∧ Rejected s t f)
      ∧ ∃ t, exec (.ucieFlitReceive f.id false) s = .next t ∧ t.mem = s.mem ∧ t.msgs = s.msgs
        ∧ t.links = SMap.set 0 (SMap.set 0 s.links key (ctr + 1)) (nakKey f.src f.dst) 1
        ∧ ∀ g ∈ t.flits, g.id = f.id → g.ctr = ctr ∧ g.sent = true)
    ∧ (f.scaleup = true →
      let opened : Prop := aperDie f.dst < 6
        ∧ (s.pkg (aperPkg f.dst)).garmentOpen (aperDie f.dst) (aperPkg f.src) f.asid = true
      let new : Prop := (key, f.ctr) ∉ s.seen
      (opened → new → PlainCargo s f → ∃ t, exec (.scaleupFlitReceive f.id true) s = .next t ∧ Brought s t f
          ∧ (key, f.ctr) ∈ t.seen)
      ∧ (opened → new → alone → m.dst = f.dst → m.ordered = true → s.soBehind m f.dst = false →
        let k := soKey m.src m.dst m.asid
        ∃ t, exec (.scaleupFlitReceive f.id true) s = .next t ∧ t.mem = s.mem ∧ (∀ g ∈ t.flits, g.id ≠ f.id)
          ∧ (m.seq = SMap.get 0 s.soNext k →
            t.msg m.id = some { m with arrived := true, held := none, came := s.nextId }
              ∧ t.soNext = SMap.set 0 s.soNext k ((m.seq + 1) % 2 ^ 32))
          ∧ (m.seq ≠ SMap.get 0 s.soNext k → t.msg m.id = some { m with held := some f.dst } ∧ t.soNext = s.soNext))
      ∧ (∀ ok, opened → ¬ new → ∃ t, exec (.scaleupFlitReceive f.id ok) s = .next t ∧ t.mem = s.mem
        ∧ (∀ g ∈ t.flits, g.id ≠ f.id) ∧ t.msgs = s.msgs)
      ∧ (opened → new → exec (.scaleupFlitReceive f.id false) s = .next ((s.rejectFlit f 6).peerLoss 2 f.src f.dst))
      ∧ (∀ ok, ¬ opened → ∃ t, exec (.scaleupFlitReceive f.id ok) s = .next t ∧ Rejected s t f))
    ∧ ∀ kind, Rejected s (s.rejectFlit f kind) f

/-- R387, R388, R391, R401: work requests start: a WRITE sends the packets of its bytes, with them, a READ asks for them, WINSET binds a
window, KEYSET takes a key; a request that breaks a rule of its fields ends with status 1. -/
def Sys2Proof.Machine.WorkRequestsStart : Prop :=
  ∀ (s : State) (r : NetReq),
    let b := s.netBegin r
    let dies := s.netDies r.pkg r.enc
    let free : Prop := ∀ k < b.packets, Unbudgeted s r.pkg r.enc r.port (netKey r.id k)
    let sent (data : Nat → List Byte) : List Out := (List.range b.packets).map fun k => .packet r.peer (b.packet k (data k))
    (Starts s r 0 → r.wellFormed = true → s.netRefusals r .read = [] → free →
      (∀ k < b.packets, (s.packetBytes b k).isSome = true) →
      ∃ t, exec (.ueWrite r.id) s = .next t ∧ t.mem = s.mem ∧ t.outs = s.outs ++ sent (fun k => (s.packetBytes b k).getD [])
        ∧ NetIs t r.id none)
    ∧ (Starts s r 1 → r.wellFormed = true → s.netRefusals r .write = [] → free →
      ∃ t, exec (.ueRead r.id) s = .next t ∧ t.mem = s.mem ∧ t.outs = s.outs ++ sent (fun _ => []) ∧ NetIs t r.id none)
    ∧ (∀ k data, (b.packet k data).offset = k * s.netMtu r ∧ (b.packet k data).win = r.win ∧ (b.packet k data).total = b.packets
      ∧ (b.packet k data).data = data ∧ (r.op = 1 → (b.packet k data).len = min (s.netMtu r) (r.len - k * s.netMtu r)))
    ∧ (Starts s r 0 → r.wellFormed = true → s.netRefusals r .read = [7] →
      ∃ t, exec (.ueWrite r.id) s = .next t ∧ t.mem = s.mem ∧ t.outs = s.outs ∧ NetIs t r.id (some 7))
    ∧ (Starts s r 2 → r.wellFormed = true → ∃ t, exec (.ueWinset r.id) s = .next t ∧ t.netReq r.id = none
      ∧ (t.pkg r.pkg).wins = SMap.set none (s.pkg r.pkg).wins (r.enc * 64 + r.win)
          (if r.len = 0 then none else some ⟨r.lva, r.len, bitOf r.flags 1, bitOf r.flags 2, r.cnt⟩))
    ∧ (∀ key, Starts s r 3 → r.wellFormed = true → s.unitRange dies r.asid r.lva 32 .read = none →
      s.unitRange dies r.asid r.lva 32 .write = none → s.egress dies r.asid r.lva 32 = some key →
      ∃ t, ∃ u : State, exec (.ueKeyset r.id) s = .next t ∧ NetIs t r.id (some 0)
        ∧ (t.pkg r.pkg).tss = SMap.set none (s.pkg r.pkg).tss (r.enc * 8 + r.port) (some key)
        ∧ u.mem = s.mem ∧ t.mem = (u.ingressAll dies r.asid r.lva (zeros 32) (s.netPlies r)).mem)
    ∧ (r.wellFormed = false →
      let bad (i : Instr) : Prop := ∃ t, exec i s = .next t ∧ t.mem = s.mem ∧ t.outs = s.outs ∧ NetIs t r.id (some 1)
      (Starts s r 0 → bad (.ueWrite r.id)) ∧ (Starts s r 1 → bad (.ueRead r.id)) ∧ (Starts s r 2 → bad (.ueWinset r.id))
      ∧ (Starts s r 3 → bad (.ueKeyset r.id)))

/-- R389, R390, R391: acknowledgements end a WRITE, what is missing is sent again, at most eight times each; a peer's error is
status 3; the end of a request writes its STATUS and, but for a WINSET, adds 1 at CNT, or 2^32 where the status is not 0; a request
whose pages are no longer the enclave's writes nothing.  Which peers are ports of this machine is the configuration's, and these
acknowledge what they have sent acknowledgements for (log 38). -/
def Sys2Proof.Machine.PacketsAreAcknowledgedAndSentAgain : Prop :=
  ∀ (s : State) (r : NetReq) (pkts : List Nat) (k : Nat),
    let now := s.acksOf r pkts
    let bytes : Option (List Byte) := if r.op = 0 then s.packetBytes r k else some []
    let again (t : State) : Prop := t.mem = s.mem ∧ (∃ b, bytes = some b ∧ t.outs = s.outs ++ [.packet r.peer (r.packet k b)])
      ∧ NetIs t r.id none ∧ ∃ q, t.netReq r.id = some q ∧ SMap.get 0 q.retries k = SMap.get 0 r.retries k + 1
    let awaited : Prop := k < r.packets ∧ k ∉ r.acked ∧ k ∉ r.held
    let due : Prop := SMap.get 0 r.sentAt k + 64 * 600 * 2 ^ SMap.get 0 r.expiries k ≤ s.clock
    (Config.endpoint r.peer = none → now = pkts)
    ∧ (∀ g n, Config.endpoint r.peer = some (g, n) →
      ∀ j, j ∈ now ↔ j ∈ pkts ∧ ∃ l, Out.ack g n r.src r.id l ∈ s.outs ∧ j ∈ l)
    ∧ (s.sending r.id = some r →
      (r.op = 0 → (∀ n < r.packets, n ∈ r.acked ∨ n ∈ now) → ∃ t, exec (.netAckReceive r.id pkts) s = .next t
        ∧ t.mem = s.mem ∧ t.outs = s.outs ∧ NetIs t r.id (some 0))
      ∧ (NackComes s r k true → ∃ t, exec (.netNackReceive r.id k true) s = .next t ∧ t.mem = s.mem ∧ t.outs = s.outs
        ∧ NetIs t r.id (some 3))
      ∧ (∀ e, ¬ NackComes s r k e → exec (.netNackReceive r.id k e) s = .next s)
      ∧ (awaited → SMap.get 0 r.retries k < 8 → bytes = none → NackComes s r k false →
        ∃ t, exec (.netNackReceive r.id k false) s = .next t ∧ t.mem = s.mem ∧ t.outs = s.outs ∧ NetIs t r.id (some 4))
      ∧ (awaited → SMap.get 0 r.retries k < 8 → bytes ≠ none → Unbudgeted s r.pkg r.enc r.port (netKey r.id k) →
        (NackComes s r k false → ∃ t, exec (.netNackReceive r.id k false) s = .next t ∧ again t)
        ∧ (due → ∃ t, exec (.netRetransmitTimeout r.id k) s = .next t ∧ again t))
      ∧ (awaited → 8 ≤ SMap.get 0 r.retries k → due →
        ∃ t, exec (.netRetransmitTimeout r.id k) s = .next t ∧ t.mem = s.mem ∧ t.outs = s.outs ∧ NetIs t r.id (some 5))
      ∧ (¬ due → exec (.netRetransmitTimeout r.id k) s = .next s))
    ∧ ∀ n, s.netReq r.id = some r → r.status = some n →
      let kept : Prop := r.enc = 0 ∨ s.enclave r.enc ≠ none
      let dies := s.netDies r.pkg r.enc
      let u := { s with nets := s.nets.filter (·.id != r.id) }.unitWrite dies r.asid (r.addr + 56) [BitVec.ofNat 64 n] (s.netPlies r)
      ∃ t, exec (.netRequestEnd r.id) s = .next t ∧ t.netReq r.id = none
        ∧ (¬ kept ∨ n = 6 ∧ s.netGone r = true → t.mem = s.mem)
        ∧ (kept → n ≠ 6 ∨ s.netGone r = false →
          (∀ a ia, s.unitLocate dies r.asid (r.addr + 56) .write = .ok (a, ia) → s.tagFail.contains (a / 64) = false →
            u.mem = granuleSet s a (BitVec.ofNat 64 n))
          ∧ (r.op = 2 ∨ 3 < r.op ∨ r.cnt % 8 ≠ 0 → t.mem = u.mem)
          ∧ (r.op ≠ 2 → r.op ≤ 3 → r.cnt % 8 = 0 → ∀ a ia w, u.unitLocate dies r.asid r.cnt .atomic = .ok (a, ia) →
            u.deliver a ia = .valid w → t.mem = granuleSet u a (w + BitVec.ofNat 64 (if n = 0 then 1 else 2 ^ 32))))

/-- R388, R389: packets reach a window of the enclave of their job: bytes are placed and acknowledged once; what no window
takes is answered by an error; a READ is answered with the bytes, in packets of the port's MTU, and is done when every byte has
been placed.  A packet that names a port of this machine as its sender was sent by it (log 38). -/
def Sys2Proof.Machine.PacketsReachTheirWindows : Prop :=
  ∀ (s : State) (pkg : Nat) (k : NetPacket) (e : Enclave) (w : NetWindow),
    let dies := s.unitDies pkg e.part
    let at_ := k.rofs + k.offset
    let mtu := (s.pkg pkg).mtuOf k.port
    (s.netTarget pkg k = none → ∃ t, exec (.netPacketReceive pkg k) s = .next t ∧ t.mem = s.mem ∧ t.outs = s.outs
      ∧ t.rxs = s.rxs)
    ∧ (s.netTarget pkg k = some e → k.reply = none → ¬ PacketComes s pkg k →
      exec (.netPacketReceive pkg k) s = .next s ∧ exec (.netReadRequestReceive pkg k) s = .next s)
    ∧ (s.netTarget pkg k = some e → PacketComes s pkg k →
      (k.trimmed = false → k.reply = none → s.netWindow pkg e k = none → ∃ t, exec (.netPacketReceive pkg k) s = .next t
        ∧ t.mem = s.mem ∧ t.outs = s.outs ++ [.nack pkg k.port k.src k.msg k.index true])
      ∧ (k.trimmed = true → ∃ t, exec (.netPacketReceive pkg k) s = .next t
        ∧ t.mem = s.mem ∧ t.outs = s.outs ++ [.nack pkg k.port k.src k.msg k.index false])
      ∧ (s.netWindow pkg e k = some w →
        (k.trimmed = false → k.reply = none → w.write = true → at_ + k.data.length ≤ w.len → k.index < k.total →
          s.unitRange dies e.asid (w.base + at_) k.data.length .write = none →
          ∃ t, exec (.netPacketReceive pkg k) s = .next t ∧ t.outs = s.outs ∧ ∃ r ∈ t.rxs, r.enc = e.enc ∧ r.src = k.src
            ∧ r.msg = k.msg ∧ k.index ∈ r.placed ∧ k.index ∈ r.unacked ∧ r.last = s.clock
            ∧ (r.placed.length ≠ r.total → t.mem = (s.ingressAll dies e.asid (w.base + at_) k.data).mem))
        ∧ (∀ b, (∀ x ∈ s.netServes, ¬ (x.pkg = pkg ∧ x.pkt = k)) → Unbudgeted s pkg e.enc k.port (netKey s.nextId 0) →
          w.read = true → at_ + k.len ≤ w.len → s.egress dies e.asid (w.base + at_) k.len = some b →
          ∃ t, exec (.netReadRequestReceive pkg k) s = .next t ∧ t.mem = s.mem
            ∧ t.outs = s.outs ++ (List.range ((k.len + mtu - 1) / mtu)).map fun j =>
                .bytes pkg k.port k.src k.msg (k.offset + mtu * j) ((b.drop (mtu * j)).take mtu))))
    ∧ (∀ r, s.netTarget pkg k = some e → k.trimmed = false → k.reply = some r.id → s.sending r.id = some r → r.pkg = pkg →
      r.enc = e.enc → r.op = 1 → k.offset + k.data.length ≤ r.len → BytesCome s r k →
      s.unitRange (s.netDies pkg r.enc) r.asid (r.lva + k.offset) k.data.length .write = none →
      ∃ t, exec (.netPacketReceive pkg k) s = .next t ∧ t.outs = s.outs
        ∧ t.mem = (s.ingressAll (s.netDies pkg r.enc) r.asid (r.lva + k.offset) k.data (s.netPlies r)).mem
        ∧ NetIs t r.id (if covers (addRange r.got k.offset (k.offset + k.data.length)) 0 r.len then some 0 else none))
    ∧ ∀ r, s.rxs.find? (fun x => x.id == r.id) = some r →
      (8 ≤ r.unacked.length ∨ r.unacked ≠ [] ∧ r.last + 2 * 600 ≤ s.clock → ∃ t, exec (.netSackTimer r.pkg r.id) s = .next t
        ∧ t.mem = s.mem ∧ t.outs = s.outs ++ [.ack r.pkg r.port r.src r.msg r.placed]
        ∧ ∀ x ∈ t.rxs, x.id = r.id → x.unacked = [])
      ∧ (r.unacked = [] ∨ r.unacked.length < 8 ∧ s.clock < r.last + 2 * 600 → exec (.netSackTimer r.pkg r.id) s = .next s)

/-! ### Partitions, service, the root of trust -/

namespace Sys2Proof.Machine

/-- An admin request is refused, and does nothing else. -/
def Refused (i : Instr) (s : State) (pkg : Nat) : Prop := exec i s = .next { s with outs := s.outs ++ [.admin pkg false] }

/-- An admin request is carried out: memory stays, and the answer says so. -/
def Granted (i : Instr) (s : State) (pkg : Nat) (more : List Out) (ok : State → Prop) : Prop :=
  ∃ t, exec i s = .next t ∧ t.mem = s.mem ∧ t.outs = s.outs ++ more ++ [.admin pkg true] ∧ ok t

/-- The dies of a request are idle dies, each once (R396). -/
def IdleDies (s : State) (pkg : Nat) (req : PartReq) : Prop :=
  req.dies ≠ [] ∧ distinct req.dies = true ∧ ∀ d ∈ req.dies, s.dieIdle pkg d = true

/-- Everything in state `s` that an event of a package leaves alone but its answer. -/
def Says (i : Instr) (s : State) (o : Out) : Prop := ∃ t, exec i s = .next t ∧ t.mem = s.mem ∧ t.outs = s.outs ++ [o]

/-- The root of trust answers on a channel: memory stays, and the channel is as `ok` says. -/
def Responds (i : Instr) (s : State) (pkg chan : Nat) (ok : Channel → List Byte → Prop) : Prop :=
  ∃ t resp, exec i s = .next t ∧ t.mem = s.mem ∧ t.outs = s.outs ++ [.spdm pkg chan resp] ∧ ok (t.channel pkg chan) resp

/-- It turns a request down with an error code; the channel stays. -/
def TurnsDown (i : Instr) (s : State) (pkg chan code : Nat) : Prop :=
  exec i s = .next { s with outs := s.outs ++ [.spdm pkg chan [0x13, 0x7F, BitVec.ofNat 8 code, 0]] }

end Sys2Proof.Machine

/-- R396, R397, R385: partitions are created from idle dies, grow by them, shrink in steps, and are destroyed when no enclave is left,
their memory zeroed; a create or grow with dies that are not idle or with budgets that may not be set, a shrink that the
remaining dies cannot hold in frames or in reservations, and a destroy with a live enclave are refused and change nothing.  That a
shrink is executed again until its dies are drained, and that a grow or destroy waits for it, is the model's reading (log 55); so is
that the reservations to hold are those of the launches under way (log 37). -/
def Sys2Proof.Machine.PartitionsFollowAdminRequests : Prop :=
  ∀ (s : State) (pkg part : Nat) (req : PartReq) (x : Partition) (dies : List Nat) (u : State),
    let rest := x.dies.filter (!dies.contains ·)
    let frames := (s.enclaveFrames pkg dies).length
    let fits : Prop := ∀ l ∈ s.launches, l.part = part → l.total ≠ 0 → (s.putPartition { x with dies := rest }).exceeds l = false
    (6 ≤ part ∨ s.partition pkg part ≠ none ∨ ¬ IdleDies s pkg req ∨ s.putBudgets pkg req.budgets = none →
      Refused (.partitionCreate pkg part req) s pkg)
    ∧ (part < 6 → s.partition pkg part = none → IdleDies s pkg req → s.putBudgets pkg req.budgets = some u →
      Granted (.partitionCreate pkg part req) s pkg [.event pkg 3 req.dies] fun t =>
        t.partition pkg part = some ⟨pkg * 8 + part, sortBy id req.dies, 0, 0, 10000, [], req.plyBuffers, req.skeinBuffers, []⟩
        ∧ (t.pkg pkg).capGen = (s.pkg pkg).capGen + 1 ∧ t.budgets = u.budgets
        ∧ ∀ d ∈ req.dies, bitOf (SMap.get 0 (t.pkg pkg).fwDie d) 6 = true ∧ SMap.get [] (t.pkg pkg).fwAsid d = req.asids
          ∧ SMap.get [] (t.pkg pkg).fwPkg d = req.pkgs
          ∧ ∀ d' ∈ req.dies, d' ≠ d → bitOf (SMap.get 0 (t.pkg pkg).fwDie d) d' = true)
    ∧ (s.partition pkg part = none → Refused (.partitionGrow pkg part req) s pkg ∧ Refused (.partitionShrink pkg part dies) s pkg
      ∧ Refused (.partitionDestroy pkg part) s pkg)
    ∧ (s.partition pkg part = some x →
      (x.closing = [] → ¬ IdleDies s pkg req ∨ s.putBudgets pkg req.budgets = none → Refused (.partitionGrow pkg part req) s pkg)
      ∧ (x.closing = [] → IdleDies s pkg req → s.putBudgets pkg req.budgets = some u →
        Granted (.partitionGrow pkg part req) s pkg [.event pkg 3 req.dies] fun t => t.budgets = u.budgets
          ∧ t.partition pkg part = some { x with
              dies := sortBy id (x.dies ++ req.dies), plyPool := x.plyPool ++ req.plyBuffers
              skeinPool := x.skeinPool ++ req.skeinBuffers })
      ∧ (x.closing = [] → dies = [] ∨ distinct dies = false ∨ (∃ d ∈ dies, d ∉ x.dies) ∨ rest = []
          ∨ s.freeFrames pkg rest < frames ∨ ¬ fits → Refused (.partitionShrink pkg part dies) s pkg)
      ∧ (x.closing = [] → dies ≠ [] → distinct dies = true → (∀ d ∈ dies, d ∈ x.dies) → rest ≠ [] →
        frames ≤ s.freeFrames pkg rest → fits →
        ∃ t, exec (.partitionShrink pkg part dies) s = .next t ∧ t.mem = s.mem ∧ t.outs = s.outs
          ∧ t.partition pkg part = some { x with closing := dies }
          ∧ ∀ p ∈ s.plies, p.onDies pkg dies = true → p.saveAsked = none → { p with saveAsked := some (s.clock, 1) } ∈ t.plies)
      ∧ (x.closing = dies → dies ≠ [] → (∃ p ∈ s.plies, p.onDies pkg dies = true) →
        exec (.partitionShrink pkg part dies) s = .next s)
      ∧ (x.closing = dies → dies ≠ [] → (∀ p ∈ s.plies, p.onDies pkg dies = false) →
        (∀ k ∈ s.skeins, k.residence ≠ .resident) → s.enclaveFrames pkg dies = [] → s.drained pkg dies = true →
        Granted (.partitionShrink pkg part dies) s pkg [.event pkg 3 dies] fun t =>
          t.partition pkg part = some { x with dies := rest, closing := [] })
      ∧ (x.closing ≠ [] → exec (.partitionGrow pkg part req) s = .next s)
      ∧ ((∃ e ∈ s.enclaves, e.part = part) → Refused (.partitionDestroy pkg part) s pkg)
      ∧ ((∀ e ∈ s.enclaves, e.part ≠ part) → x.closing ≠ [] ∨ s.drained pkg x.dies = false →
        exec (.partitionDestroy pkg part) s = .next s)
      ∧ ((∀ e ∈ s.enclaves, e.part ≠ part) → x.closing = [] → s.drained pkg x.dies = true →
        ∃ t, exec (.partitionDestroy pkg part) s = .next t ∧ t.outs = s.outs ++ [.event pkg 3 x.dies, .admin pkg true]
          ∧ t.partition pkg part = none ∧ (∀ c ∈ t.mem, c ∈ s.mem ∧ ∀ d ∈ x.dies, c.1 / 2 ^ 38 ≠ pkg * 8 + d)
          ∧ ∀ c ∈ s.mem, (∀ d ∈ x.dies, c.1 / 2 ^ 38 ≠ pkg * 8 + d) → c ∈ t.mem))

/-- R398, R401, R358, R362, R329, R386: admin requests that set one thing set it when their argument is legal, and are refused
otherwise; feature bits that are not offered are refused.  The places of the three feature bits are the family's (log 40), and that
a request for a slice has the form of slice_ctl is the model's choice (log 84). -/
def Sys2Proof.Machine.AdminRequestsSetOneThing : Prop :=
  ∀ (s : State) (pkg part va log2 enc level port mtu job fn : Nat) (feats : BitVec 64) (b : Budget) (x : Partition) (e : Enclave)
    (val : Word) (c : Nat),
    let total := s.minima pkg b.resource b.unit b.holder + b.minimum
    (b.resource < 5 → b.cls < 8 → total ≤ s.capacity pkg b.resource b.unit →
      Granted (.budgetSet pkg b) s pkg [] fun t => ∃ r ∈ t.budgets, r.pkg = pkg ∧ r.budget = b ∧ r.short = false)
    ∧ (5 ≤ b.resource ∨ 8 ≤ b.cls ∨ s.capacity pkg b.resource b.unit < total → Refused (.budgetSet pkg b) s pkg)
    ∧ (s.partition pkg part = some x → 4 ≤ log2 → log2 ≤ 12 → va % 64 = 0 →
      Granted (.trapRingRegister pkg part va log2) s pkg [] fun t =>
        t.partition pkg part = some { x with ring := va, ringLog := log2 })
    ∧ (s.partition pkg part = none ∨ log2 < 4 ∨ 12 < log2 ∨ va % 64 ≠ 0 → Refused (.trapRingRegister pkg part va log2) s pkg)
    ∧ (s.enclave enc = some e → level < 32 →
      Granted (.levelCeilingSet enc level) s e.pkg [] fun t => t.enclave enc = some { e with ceiling := level })
    ∧ (s.enclave enc = some e → 32 ≤ level → Refused (.levelCeilingSet enc level) s e.pkg)
    ∧ (port < 8 → mtu = 1024 ∨ mtu = 2048 ∨ mtu = 4096 ∨ mtu = 8192 →
      Granted (.portMtuSet pkg port mtu) s pkg [] fun t => (t.pkg pkg).mtu = SMap.set 4096 (s.pkg pkg).mtu port mtu)
    ∧ (8 ≤ port ∨ ¬ (mtu = 1024 ∨ mtu = 2048 ∨ mtu = 4096 ∨ mtu = 8192) → Refused (.portMtuSet pkg port mtu) s pkg)
    ∧ (s.enclave enc = some e → job < 2 ^ 24 →
      Granted (.jobIdSet pkg enc job) s pkg [] fun t => t.enclave enc = some { e with job := some job })
    ∧ (s.enclave enc = none ∨ 2 ^ 24 ≤ job → Refused (.jobIdSet pkg enc job) s pkg)
    ∧ (fn < 128 → (∀ i : Nat, i < 64 → i ≠ 28 → i ≠ 29 → i ≠ 32 → feats.getLsbD i = false) →
      Granted (.featuresOk pkg fn feats) s pkg [] fun t => (t.pkg pkg).features = SMap.set 0 (s.pkg pkg).features fn feats)
    ∧ (let n := val.toNat % 2 ^ 20
      let q := val.toNat / 2 ^ 20 % 2 ^ 8
      let legal : Prop := val.toNat / 2 ^ 30 = 0 ∧ 1000 ≤ n ∧ n ≤ 1000000 ∧ q ≤ 5
      (legal → s.partition pkg q = some x → Granted (.sliceCtlWrite (.admin pkg) c val) s pkg [] fun t =>
        t.partition pkg q = some { x with slice := n })
      ∧ (¬ legal ∨ s.partition pkg q = none → Refused (.sliceCtlWrite (.admin pkg) c val) s pkg))
    ∧ (fn < 128 → (∃ i : Nat, i ≠ 28 ∧ i ≠ 29 ∧ i ≠ 32 ∧ feats.getLsbD i = true) → Refused (.featuresOk pkg fn feats) s pkg)

/-- R399, R366: a notify request of a virtual function of either host link that is done wakes the hub cores of its package, and the
waiters of its key where its partition holds it; one whose fields break their rules has status 1, one whose key cannot be read
status 2, and these wake nobody.  That it wakes the hub cores that sleep at WFI is the model's reading (log 55), and which
partition a function is bound to is the configuration's (log 37). -/
def Sys2Proof.Machine.NotifyRequestsWakeAndAnswer : Prop :=
  ∀ (s : State) (pkg fn : Nat) (rd : List Byte) (wlen : Nat), fn % 64 ≠ 0 → fn < 128 →
    let va := field rd 0 8
    let i : Instr := .notifyRequest pkg fn rd wlen
    (∃ t n, exec i s = .next t ∧ t.mem = s.mem ∧ t.outs = s.outs ++ [.used pkg fn n]
      ∧ (n % 256 = 0 → ∀ p ∈ t.plies, p.core / 1024 = pkg → ∀ h, p.hub = some h → h.wfi = none)
      ∧ (n % 256 ≠ 0 → t.plies = s.plies ∧ t.waiters = s.waiters))
    ∧ (rd.length ≠ 16 ∨ wlen < 4 ∨ field rd 12 4 ≠ 0 → Says i s (.used pkg fn 1))
    ∧ (rd.length = 16 → 4 ≤ wlen → field rd 12 4 = 0 →
      (va % 8 ≠ 0 → Says i s (.used pkg fn 2))
      ∧ (va % 8 = 0 → (∀ a, s.locate (pkg * 8 + 6) 0 va .read ≠ .ok a) → Says i s (.used pkg fn 2))
      ∧ (∀ a ia x, va % 8 = 0 → s.locate (pkg * 8 + 6) 0 va .read = .ok (a, ia) → aperPkg (a / 2 ^ 38) = pkg →
        s.partition pkg (Config.vfPartition pkg fn) = some x → aperDie (a / 2 ^ 38) ∈ x.dies → field rd 8 4 = 0 →
        ∃ t n, exec i s = .next t ∧ t.mem = s.mem ∧ t.outs = s.outs ++ [.used pkg fn (n * 256)]
          ∧ (∀ w ∈ t.waiters, ¬ (w.home = a / 2 ^ 38 ∧ w.enc = 0 ∧ w.key = va / 8))
          ∧ ∀ w ∈ s.waiters, w.enc ≠ 0 → w ∈ t.waiters))

/-- R402, R404, R405, R400, R403: a budget period of 20 µs starts afresh; a tension report is written with the next sequence
number; a core that fails its margin test is retired, its number given to its hank's spare where that is free; a unit retires once.
The kinds and numbers of the events are the model's (log 84). -/
def Sys2Proof.Machine.BudgetsReportsAndRetirement : Prop :=
  ∀ (s : State) (pkg core kind aper unit : Nat) (e : Enclave),
    let p := s.pkg pkg
    let c := pkg * 1024 + core
    let aperOf := pkg * 8 + core / 144
    (p.periodStart + 12000 ≤ s.clock → ∃ t, exec (.budgetPeriod pkg) s = .next t ∧ t.mem = s.mem ∧ t.outs = s.outs
      ∧ (∀ b ∈ t.budgets, b.pkg = pkg → b.used = 0) ∧ t.budgets.map (·.budget) = s.budgets.map (·.budget)
      ∧ s.clock < (t.pkg pkg).periodStart + 12000 ∧ (t.pkg pkg).periodStart ≤ s.clock)
    ∧ (s.clock < p.periodStart + 12000 → exec (.budgetPeriod pkg) s = .next s)
    ∧ (s.enclave e.enc = some e → e.trep ≠ 0 → ∃ t, exec (.tensionReport e.enc) s = .next t
      ∧ t.enclave e.enc = some { e with trepSeq := e.trepSeq + 1 }
      ∧ ∃ short held, held.length = 5
        ∧ t.mem = (s.unitWrite (e.dies s) e.asid e.trep.toNat ([BitVec.ofNat 64 (e.trepSeq + 1), short] ++ held ++ [0])).mem)
    ∧ (s.budgets = [] → exec (.marginTest pkg core true) s = .next s)
    ∧ (core < 864 → s.budgets = [] → (∀ q ∈ s.plies, q.core = c → q.residence ≠ .resident) → core ∉ p.failed →
      ∃ t, exec (.marginTest pkg core false) s = .next t ∧ t.mem = s.mem ∧ (t.pkg pkg).capGen = p.capGen + 1
        ∧ (t.core c).limit = (s.core c).limit
        ∧ (core / 12 ∉ p.spares → t.outs = s.outs ++ [.event pkg 1 [5, aperOf, core]]
          ∧ (t.pkg pkg).spares = core / 12 :: p.spares ∧ t.retired = s.retired ++ [⟨pkg, 5, aperOf, core, s.clock⟩])
        ∧ (core / 12 ∈ p.spares → t.outs = s.outs ++ [.event pkg 1 [4, aperOf, core]]
          ∧ (t.pkg pkg).failed = core :: p.failed ∧ t.retired = s.retired ++ [⟨pkg, 4, aperOf, core, s.clock⟩]))
    ∧ (kind < 4 → s.budgets = [] → (∀ r ∈ s.retired, ¬ (r.pkg = pkg ∧ r.kind = kind ∧ r.aper = aper ∧ r.unit = unit)) →
      ∃ t, exec (.retiredUnit pkg kind aper unit) s = .next t ∧ t.mem = s.mem
        ∧ t.retired = s.retired ++ [⟨pkg, kind, aper, unit, s.clock⟩] ∧ t.outs = s.outs ++ [.event pkg 1 [kind, aper, unit]]
        ∧ (t.pkg pkg).capGen = p.capGen + 1)
    ∧ ((∃ r ∈ s.retired, r.pkg = pkg ∧ r.kind = kind ∧ r.aper = aper ∧ r.unit = unit) →
      exec (.retiredUnit pkg kind aper unit) s = .next s)

/-- R406, R285, R308: firmware goes to the slot that is not active when its signature holds and its version is no lower than the
minimum; a reset tries it, health confirms it within 30 s, and the watchdog resets into the previous slot.  What a reset of the
package wipes and keeps is the model's reading (log 55); that its firewalls are closed after it (log 14) and that its memory reads as
zeros (log 1) are the model's choices. -/
def Sys2Proof.Machine.FirmwareSlotsAndReset : Prop :=
  ∀ (s : State) (pkg version : Nat) (image sig : List Byte),
    let p := s.pkg pkg
    let wiped (t : State) : Prop := (∀ q ∈ t.plies, q.core / 1024 ≠ pkg) ∧ (∀ c ∈ t.mem, c ∈ s.mem ∧ c.1 / 2 ^ 38 / 8 ≠ pkg)
      ∧ (∀ e ∈ t.enclaves, e.pkg ≠ pkg) ∧ SMap.get 0 t.epoch pkg = SMap.get 0 s.epoch pkg + 1
      ∧ (∀ x ∈ t.partitions, x.id / 8 ≠ pkg) ∧ (t.pkg pkg).fwDie = [] ∧ (t.pkg pkg).active = p.active
    (Config.firmwareSigOk image sig = true → p.minimum ≤ version → p.trying = none →
      Granted (.firmwareUpdate pkg version image sig) s pkg [] fun t => (t.pkg pkg).trial = some (1 - p.active)
        ∧ (t.pkg pkg).active = p.active ∧ (t.pkg pkg).image (1 - p.active) = image
        ∧ (t.pkg pkg).version (1 - p.active) = version)
    ∧ (Config.firmwareSigOk image sig = false ∨ version < p.minimum → Refused (.firmwareUpdate pkg version image sig) s pkg)
    ∧ (∃ t, exec (.packageReset pkg) s = .next t ∧ wiped t ∧ t.outs = s.outs ++ [.event pkg 8 []] ∧ (t.pkg pkg).trial = p.trial
      ∧ (t.pkg pkg).trying = p.trial.map fun _ => s.clock)
    ∧ (∀ n slot, p.trying = some n → p.trial = some slot → s.clock < n + 30000 * 600000 → Granted (.healthConfirm pkg) s pkg [] fun t =>
        (t.pkg pkg).active = slot ∧ (t.pkg pkg).minimum = p.version slot ∧ (t.pkg pkg).trial = none
        ∧ (t.pkg pkg).trying = none)
    ∧ (∀ n slot, p.trying = some n → p.trial = some slot → n + 30000 * 600000 ≤ s.clock → Refused (.healthConfirm pkg) s pkg)
    ∧ (∀ n, p.trying = some n → n + 30000 * 600000 ≤ s.clock → ∃ t, exec (.firmwareWatchdog pkg) s = .next t ∧ wiped t
      ∧ t.outs = s.outs ++ [.event pkg 8 [], .event pkg 5 []] ∧ (t.pkg pkg).trial = none ∧ (t.pkg pkg).trying = none)
    ∧ (∀ n, p.trying = some n → s.clock < n + 30000 * 600000 → exec (.firmwareWatchdog pkg) s = .next s)

/-- R263, R327: scrubbing leaves every granule as it reads; PCI Express writes enter a live ASID's memory and reads leave it,
poisoned where a granule fails; a TLP is taken only by the interface of its stream, and an interface that exits stops. -/
def Sys2Proof.Machine.ScrubbingAndThePort : Prop :=
  ∀ (s : State) (pkg die pa asid va len link slot : Nat) (data : List Byte) (tlp : Tlp) (e : Enclave),
    let dies := s.portDies pkg asid
    let same (t : State) : Prop := t.mem = s.mem ∧ t.outs = s.outs
    (Memory.wf s.mem = true → SMap.wf none s.codes = true → ∃ t, exec (.scrub die pa) s = .next t
      ∧ t = { s with budgets := t.budgets } ∧ (s.budgets = [] → t = s))
    ∧ (s.asidLive asid = true → s.unitRange dies asid va data.length .write = none →
      exec (.pcieIngressWrite pkg asid va data) s = .next (s.ingressAll dies asid va data))
    ∧ (s.asidLive asid = false ∨ s.unitRange dies asid va data.length .write ≠ none →
      ∃ t, exec (.pcieIngressWrite pkg asid va data) s = .next t ∧ same t)
    ∧ (s.asidLive asid = true → s.unitRange dies asid va len .read = none →
      (∀ b, s.egress dies asid va len = some b → Says (.pcieEgress pkg asid va len) s (.tlp pkg b false))
      ∧ (s.egress dies asid va len = none → Says (.pcieEgress pkg asid va len) s (.tlp pkg [] true)))
    ∧ (s.asidLive asid = false → ∃ t, exec (.pcieEgress pkg asid va len) s = .next t ∧ same t)
    ∧ ((∀ e ∈ s.enclaves, e.pkg = pkg → ∀ f ∈ e.ifaces, ¬ (f.link = tlp.link ∧ f.rid = tlp.rid ∧ f.stream = tlp.stream
        ∧ f.run = true ∧ tlp.tbit = true)) → Says (.tdispTlpReceive pkg tlp) s (.unsupported pkg tlp.link tlp.rid))
    ∧ (s.tlpIface pkg tlp = some e →
      (tlp.write = true → s.unitRange (s.unitDies pkg e.part) e.asid tlp.va tlp.data.length .write = none →
        exec (.tdispTlpReceive pkg tlp) s = .next (s.ingressAll (s.unitDies pkg e.part) e.asid tlp.va tlp.data))
      ∧ (tlp.write = true → s.unitRange (s.unitDies pkg e.part) e.asid tlp.va tlp.data.length .write ≠ none →
        Says (.tdispTlpReceive pkg tlp) s (.unsupported pkg tlp.link tlp.rid)))
    ∧ (s.enclave e.enc = some e → (∃ f ∈ e.ifaces, f.link = link ∧ f.slot = slot ∧ f.run = true) → e.pkg = pkg →
      (∀ n ∈ s.enclaves, n ≠ e → ∀ f ∈ n.ifaces, n.pkg = pkg → f.link = link → f.slot ≠ slot) →
      ∃ t e', exec (.tdispInterfaceExit pkg link slot) s = .next t ∧ t.mem = s.mem
        ∧ t.outs = s.outs ++ [.event pkg 6 [link, slot]] ∧ t.enclave e.enc = some e'
        ∧ ∀ f ∈ e'.ifaces, f.link = link → f.slot = slot → f.run = false)

/-- R326, R324: the root of trust answers SPDM requests in their order: version, capabilities, algorithms, of which it takes its own
set and no other; then digests, certificates, challenges, measurements and key exchange; a session once its FINISH holds its
keys, whose answers are sealed.  The bytes of the responses, the error codes, `algsOffered` and `algsSelected`, and the numbers by
which session keys are named follow the public standard, which R326 names and does not print (log 16). -/
def Obligations.RootOfTrustAnswersInOrder : Prop :=
  ∀ (s : State) (pkg chan off len index session op : Nat) (bytes : List Byte),
    let c := s.channel pkg chan
    let body (i : Instr) (ok : List Byte → Prop) : Prop := Responds i s pkg chan fun k resp =>
      ok resp ∧ k.session = c.session ∧ k.finished = c.finished ∧ k.algs = true
    let digest := sha3_512 (Config.certChain pkg 0)
    Responds (.getVersion pkg chan) s pkg chan (fun k resp => resp = [0x10, 0x04, 0, 0, 0, 1, 0, 0x13] ∧ k.version = true
      ∧ k.caps = false ∧ k.algs = false ∧ k.session = 0)
    ∧ (c.version = true → c.caps = false → Responds (.getCapabilities pkg chan) s pkg chan fun k resp =>
        k.caps = true ∧ resp.take 2 = [0x13, 0x61])
    ∧ (c.version = false ∨ c.caps = true → TurnsDown (.getCapabilities pkg chan) s pkg chan 4)
    ∧ (c.caps = true → c.algs = false → algsOffered bytes = true →
      Responds (.negotiateAlgorithms pkg chan bytes) s pkg chan fun k resp =>
        k.algs = true ∧ resp = [0x13, 0x63, 3, 0] ++ algsSelected)
    ∧ (c.caps = true → c.algs = false → algsOffered bytes = false →
      TurnsDown (.negotiateAlgorithms pkg chan bytes) s pkg chan 1)
    ∧ (c.caps = false ∨ c.algs = true → TurnsDown (.negotiateAlgorithms pkg chan bytes) s pkg chan 4)
    ∧ (c.algs = false → TurnsDown (.getDigests pkg chan) s pkg chan 4 ∧ TurnsDown (.challenge pkg chan bytes) s pkg chan 4
      ∧ TurnsDown (.getMeasurements pkg chan index bytes) s pkg chan 4 ∧ TurnsDown (.keyExchange pkg chan bytes) s pkg chan 4
      ∧ TurnsDown (.finish pkg chan session bytes) s pkg chan 4)
    ∧ (c.algs = true →
      body (.getDigests pkg chan) (fun resp => resp = [0x13, 0x01, 0, 1] ++ digest)
      ∧ (off < (Config.certChain pkg 0).length → body (.getCertificate pkg chan 0 off len) (fun resp =>
          resp.drop 8 = ((Config.certChain pkg 0).drop off).take len))
      ∧ body (.challenge pkg chan bytes) (fun resp => (resp.drop 4).take digest.length = digest)
      ∧ body (.getMeasurements pkg chan 0 bytes) (fun resp => resp.take 4 = [0x13, 0x60, 4, 0])
      ∧ (1 ≤ index → index ≤ 4 → body (.getMeasurements pkg chan index bytes) (fun resp =>
          (resp.drop 6).take (s.measureBlock pkg index).length = s.measureBlock pkg index))
      ∧ (c.session = 0 → Responds (.keyExchange pkg chan bytes) s pkg chan fun k resp =>
          k.session = s.nextId ∧ k.finished = false ∧ resp.take 2 = [0x13, 0x64])
      ∧ (c.session ≠ 0 → TurnsDown (.keyExchange pkg chan bytes) s pkg chan 4)
      ∧ (c.session ≠ 0 → session = c.session → c.finished = false →
        (bytes = Config.spdmMac c.reqKey c.transcript → Responds (.finish pkg chan session bytes) s pkg chan fun k _ =>
          k.finished = true ∧ k.session = c.session)
        ∧ (bytes ≠ Config.spdmMac c.reqKey c.transcript → TurnsDown (.finish pkg chan session bytes) s pkg chan 6)))
    ∧ (c.session ≠ 0 → session = c.session → c.finished = true →
      Responds (.heartbeat pkg chan session) s pkg chan (fun k resp => resp = c.secured [0x13, 0x68, 0, 0] ∧ k.session = c.session)
      ∧ (1 ≤ op → op ≤ 3 → Responds (.keyUpdate pkg chan session op) s pkg chan fun k _ => k.session = c.session
          ∧ k.reqKey = (if op = 3 then c.reqKey else Config.spdmKey c.reqKey 2)
          ∧ k.rspKey = (if op = 2 then Config.spdmKey c.rspKey 2 else c.rspKey))
      ∧ Responds (.endSession pkg chan session) s pkg chan (fun k _ => k.session = 0 ∧ k.finished = false ∧ k.reqKey = []))
    ∧ (c.session = 0 ∨ session ≠ c.session ∨ c.finished = false →
      TurnsDown (.heartbeat pkg chan session) s pkg chan 4 ∧ TurnsDown (.keyUpdate pkg chan session op) s pkg chan 4
      ∧ TurnsDown (.endSession pkg chan session) s pkg chan 4)

/-! ### The machine as a whole -/

namespace Sys2Proof.Machine

/-- The turn of a course whose words may issue. -/
structure Turns (s : State) (h cid delay : Nat) (r : List Turn) (p : Ply) (c : Course) : Prop where
  agenda : s.agenda = .course h cid delay :: r
  ply : s.ply h = some p
  course : p.course cid = some c
  may : State.mayIssue { s with agenda := r } p c = true

/-- Where a result of an issued instruction may land (R22, R38, R107): its destination, the register after it for a second
result, its predicate bits, the flags of the fibre. -/
def MayTarget (x : Issue) (r : Nat → LaneOut) (f : Nat) (t : Target) : Prop :=
  t = .flags f ∨ t = .p f x.sh.pdst ∨ (∃ b ∈ (r f).preds, t = .p f b.1)
    ∨ (∃ n, x.sh.dst = .v n ∧ (t = .v f n.toNat ∨ (r f).d1 ≠ none ∧ t = .v f (n + 1).toNat))
    ∨ ∃ n, x.sh.dst = .s n ∧ t = .s n.toNat

end Sys2Proof.Machine

/-- R12, R14, R28, R49, R73, R76: a step runs what the bytes at the pc of the course decode to, one word or two, in the state in
which that course stands as the issuer, in the first cycle that its pipes, ports and stall counts allow; a word that cannot be
fetched, or is no instruction, parks the course instead.  Where the instruction begins a chain, or is a prefix, the turn goes on
with what follows it in the same cycle; where it waits at issue, the model's turn ends (log 71).  A course of a packed run issues
with the others of its run, by fibre number, each what its own bytes decode to, in that one cycle. -/
def Sys2Proof.Machine.StepRunsWhatItFetches : Prop :=
  ∀ (s : State) (h cid delay : Nat) (r : List Turn) (p : Ply) (c : Course) (w1 w2 : IWord) (i : Instr),
    Turns s h cid delay r p c →
    let s' : State := { s with agenda := r }
    let cycle := s'.offerTime p c delay
    let me : List (Nat × Nat) := [(p.handle, c.id)]
    let after (o : Host.Outcome State Fault Refusal) : Host.Outcome State Fault Refusal := match o with
      | .next t =>
        let u : State := { t with cur := none }
        if u.stuck (p, c) = true then .next (State.retreat s' s' cycle me [(p, c)])
        else if u.inChain cycle (p.handle, c.id) = true then State.rounds s' cycle 5 me u
        else .next u
      | o => o
    let runs (len : Nat) : Prop :=
      let ready := s'.ready p c i len (some cycle)
      step s = tidied (after (exec i ready)) ∧ ready.mem = s.mem
        ∧ ready.cur = some { ply := p.handle, course := c.id, addr := c.run.pc, len, cycle := some cycle }
    let stops (e : FaultAt) : Prop := step s = tidied (after (.next (s'.wordStop p c e)))
    (s'.packedRun p cid = none →
      (s'.fetchFor p c.run.pc = .ok w1 → isLong w1 = false → decodeWords w1 0 = .ok i → runs 4)
      ∧ (s'.fetchFor p c.run.pc = .ok w1 → isLong w1 = true → s'.fetchFor p (c.run.pc + 4) = .ok w2 → decodeWords w1 w2 = .ok i →
        runs 8)
      ∧ (∀ e, s'.fetchFor p c.run.pc = .error e → stops ⟨0x10, e⟩)
      ∧ (∀ e, s'.fetchFor p c.run.pc = .ok w1 → isLong w1 = false → decodeWords w1 0 = .error e → stops ⟨0x01, 0⟩))
    ∧ (∀ run, s'.packedRun p cid = some run →
      step s = tidied (State.rounds s' cycle 6 (sortBy s'.memberNumber run.members) s'))
    ∧ ∀ (t : Nat) (mates : Nat × Nat → List (Nat × Nat)) (m : Nat × Nat) (l : List (Nat × Nat)) (q : Ply) (d : Course) (n : Nat),
      s.ply m.1 = some q → q.course m.2 = some d → s.look q d.run.pc = .found i n →
      State.issueAll t mates (m :: l) s = match exec i (s.ready q d i n (some t) (mates m)) with
        | .next u => State.issueAll t mates l { u with cur := none }
        | o => o

/-- The model's agenda (log 3): an event at its head takes place, with no course as the issuer. -/
def Sys2Proof.Machine.StepRunsTheEventOfTheAgenda : Prop :=
  ∀ (s : State) (e : Instr) (r : List Turn), s.agenda = .event e :: r →
    step s = tidied (exec e { s with agenda := r, cur := none })

/-- R12, R16, R19, R20, R25, R34, R43: the words of the manual's worked encoding (chapter 1), a base opcode that is not assigned
and a prefix with a reserved bit. -/
def Obligations.WordsDecodeAsTheManualWritesThem : Prop :=
  decodeWords 0x40000000 0 = .ok (.nop ⟨false, 0, 0⟩)
    ∧ decodeWords 0x81000000 0x028077A2 = .ok (.add ⟨false, 0, 0⟩ (.v 5) (.v 1) (.imm (-3)) .i32 false)
    ∧ decodeWords 0xC8000000 0 = .ok (.pfx .rz 0 false false 0 false)
    ∧ decodeWords 0x00B80103 0 = .ok (.chartWord false 0 0x17 0x103)
    ∧ decodeWords 0x820C001C 0x01810127 = .ok (.fma ⟨false, 0, 0⟩ (.v 3) (.v 4) (.v 9) (.v 7) .f32)
    ∧ decodeWords 0x40128000 0 = .ok (.bind ⟨false, 0, 0⟩ 0x28)
    ∧ (∃ e, decodeWords 0x40700000 0 = .error e) ∧ ∃ e, decodeWords 0xE0000000 0 = .error e

/-- R12, R16, R19, R20, R25, R34, R43: the decoder gives back every well-formed instruction from the words that encode it. -/
def Obligations.DecodingInvertsEncoding : Prop :=
  ∀ i : Instr, i.wf = true → encode i ≠ [] →
    ((encode i).length = 1 ∨ (encode i).length = 2)
    ∧ (isLong ((encode i).getD 0 0) = true ↔ (encode i).length = 2)
    ∧ decodeWords ((encode i).getD 0 0) ((encode i).getD 1 0) = .ok i

/-- R285, R308, R396, R397: what a reset leaves: range 0 of ASID 0 is the identity over 2^52 bytes and its other ranges are off, no
partition exists, no ply runs.  The model's own choices, of no rule: range 0 of ASID 1 is that identity too (log 9), memory that
nothing has written reads as zeros (log 1), every frame is free (log 8); and the model's invariant holds. -/
def Obligations.ResetLeavesTheStatedValues : Prop :=
  (∀ pkg, ∀ n < 2, State.reset.range pkg n 0 = ⟨true, 0, 2 ^ 36, 0⟩)
    ∧ (∀ pkg a n, n ≠ 0 ∨ 2 ≤ a → a < 2048 → n < 16 → State.reset.range pkg a n = Range.off)
    ∧ State.reset.partitions = [] ∧ State.reset.plies = [] ∧ State.reset.enclaves = []
    ∧ (∀ a, memByte State.reset.mem a = 0) ∧ (∀ aper f, State.reset.owner aper f = Owner.free) ∧ State.reset.Inv

/-- Log 1: the model's memory keeps its canonical form (addresses strictly rising, no entry that an unlisted address reads as)
in every step, whatever acts. -/
def Obligations.StepKeepsMemoryCanonical : Prop :=
  ∀ s t : State, s.Inv → step s = .next t → t.Inv

/-- R10, R49, R69, R425: no instruction word and no event ends the machine: every fault that the manual describes is taken as a
next state.  Only an instruction word on the agenda where an event should stand has no course to issue it. -/
def Obligations.StepNeverStops : Prop :=
  ∀ s : State, (∀ e r, s.agenda = .event e :: r → encode e = []) → ∃ t, step s = .next t

/-- R22, R38, R69: THE FRAME of the instructions that complete lane by lane (those whose statements give `x.complete s r`): on a
compute core memory, the ownership and page tables, enclaves, skeins, queues, operations, messages and every other ply stay; of
the ply, registers, flags and control registers stay until results land, and results land only in what the instruction names. -/
def Sys2Proof.Machine.CompletionTouchesOnlyWhatItNames : Prop :=
  ∀ (s : State) (i : Instr) (x : Issue) (r : Nat → LaneOut), Issues s i noExtra x → x.hub = false →
    let t := x.complete s r
    t.mem = s.mem ∧ t.codes = s.codes ∧ t.tagFail = s.tagFail ∧ t.owners = s.owners ∧ t.roots = s.roots ∧ t.ranges = s.ranges
    ∧ t.enclaves = s.enclaves ∧ t.skeins = s.skeins ∧ t.pairs = s.pairs ∧ t.launches = s.launches ∧ t.ops = s.ops
    ∧ t.waiters = s.waiters ∧ t.msgs = s.msgs ∧ t.partitions = s.partitions ∧ t.pkgs = s.pkgs ∧ t.outs = s.outs
    ∧ t.frameCaches = s.frameCaches ∧ t.promos = s.promos ∧ t.budgets = s.budgets
    ∧ (∀ p ∈ s.plies, p.handle ≠ x.ply.handle → p ∈ t.plies)
    ∧ After t x fun q => q.s = x.ply.s ∧ q.qm = x.ply.qm ∧ q.cause = x.ply.cause ∧ q.epc = x.ply.epc ∧ q.tvec = x.ply.tvec
      ∧ q.plyCtl = x.ply.plyCtl ∧ q.h = x.ply.h ∧ q.stale = x.ply.stale ∧ q.deferred = x.ply.deferred
      ∧ (∀ f, (q.fibre f).v = (x.ply.fibre f).v ∧ (q.fibre f).pred = (x.ply.fibre f).pred
        ∧ (q.fibre f).flags = (x.ply.fibre f).flags ∧ (q.fibre f).eaux = (x.ply.fibre f).eaux
        ∧ (q.fibre f).tokens = (x.ply.fibre f).tokens)
      ∧ ∃ new, q.flight = x.ply.flight ++ new ∧ ∀ l ∈ new, ∃ f ∈ x.active, MayTarget x r f l.target

/-- R15, R38, R102: a result that lands writes its target and nothing else; predicate 0 is never written. -/
def Sys2Proof.Machine.LandingWritesItsTarget : Prop :=
  ∀ (p : Ply) (l : Landing) (f n : Nat), f < p.fibres.length →
    let q := p.landOne l
    let b := l.reg.val.getLsbD 0
    (q.courses = p.courses ∧ q.cause = p.cause ∧ q.epc = p.epc ∧ q.tvec = p.tvec ∧ q.plyCtl = p.plyCtl ∧ q.h = p.h)
    ∧ (l.target = .s n → q.s = SMap.set Reg.zero p.s n l.reg ∧ q.fibres = p.fibres ∧ q.qm = p.qm)
    ∧ (l.target = .v f n → q.s = p.s ∧ q.qm = p.qm ∧ (∀ g, g ≠ f → q.fibre g = p.fibre g)
      ∧ q.fibre f = { p.fibre f with v := SMap.set Reg.zero (p.fibre f).v n l.reg })
    ∧ (l.target = .p f n → n < 16 → q.s = p.s ∧ q.qm = p.qm ∧ (∀ g, g ≠ f → q.fibre g = p.fibre g)
      ∧ (q.fibre f).v = (p.fibre f).v ∧ (q.fibre f).flags = (p.fibre f).flags
      ∧ ∀ k < 16, (q.fibre f).pred.getLsbD k = if k = n ∧ n ≠ 0 then b else (p.fibre f).pred.getLsbD k)
    ∧ (l.target = .flags f → q.s = p.s ∧ q.qm = p.qm ∧ (∀ g, g ≠ f → q.fibre g = p.fibre g)
      ∧ q.fibre f = { p.fibre f with flags := (p.fibre f).flags ||| l.reg.val.setWidth 5 })

/-- R4, R237: memory reads as it was written: bytes written from an address upwards read back in order, least significant
first in a number, and every other byte reads as before.  The model's choice, of no rule (log 1): memory has one canonical form,
which a write keeps, so that memories that read alike are equal. -/
def Sys2Proof.Machine.MemoryReadsAsItWasWritten : Prop :=
  ∀ (m : List Host.Cell) (a n v : Nat) (l : List Byte), Memory.wf m = true →
    Memory.wf (memWrite m a l) = true
    ∧ (∀ i, i < l.length → some (memByte (memWrite m a l) (a + i)) = l[i]?)
    ∧ (∀ b, b < a ∨ a + l.length ≤ b → memByte (memWrite m a l) b = memByte m b)
    ∧ memRead (memWrite m a l) a l.length = l
    ∧ (v < 2 ^ (8 * n) → ofBytesLE (memRead (memWrite m a (bytesLE n v)) a n) = v)
    ∧ ∀ m', Memory.wf m' = true → (∀ b, memByte m b = memByte m' b) → m = m'

/-- R101, R102: registers read as they were written, and a write leaves every other register. -/
def Sys2Proof.Machine.RegistersReadAsTheyWereWritten : Prop :=
  ∀ (m : SMap Reg) (k j : Nat) (r : Reg), SMap.wf Reg.zero m = true →
    SMap.wf Reg.zero (SMap.set Reg.zero m k r) = true
    ∧ SMap.get Reg.zero (SMap.set Reg.zero m k r) j = if j = k then r else SMap.get Reg.zero m j

/-- R51, R58, R25, R27, R44, R53, R54, R57, R105, R356, R357, R358: where NOP, IFENCE, PFX, a chart word, CHARTLD with its
commit, CHARTRD and the events of a control register's write complete, and what they answer there: each answers a next state,
whatever the state and the operands that meet the conditions. -/
def Obligations.WordsChartsAndControlWritesComplete : Prop :=
  (∀ (s : State) (x : Issue) (h : Head), Issues s (.nop h) noExtra x →
    ∃ t, exec (.nop h) s = .next t ∧ t = x.finish s x.ply [] [])
  ∧ (∀ (s : State) (x : Issue) (h : Head), Issues s (.ifence h) noExtra x → s.chartldBusy x.ply.handle = false →
    s.owing x.ply.handle s.nextId x.course.fibres true = false →
    ∃ t, exec (.ifence h) s = .next t ∧ t.mem = s.mem ∧ After t x fun q => q.stale = 0 ∧ SameRegisters x q)
  ∧ (∀ (s : State) (cur : Cursor) (p : Ply) (c : Course) (rnd : Rnd) (sat : BitVec 2) (ftz nox : Bool) (go : BitVec 5) (gv : Bool),
    s.cur = some cur → s.ply cur.ply = some p → p.course cur.course = some c →
    let pfx : Pfx := ⟨rnd, sat, ftz, nox, go, gv, cur.addr⟩
    (s.orphan cur p c pfx = false →
      ∃ t q, exec (.pfx rnd sat ftz nox go gv) s = .next t ∧ t.mem = s.mem ∧ t.ply cur.ply = some q
        ∧ ∃ k ∈ q.courses, k = { c with run := { c.run with pc := cur.addr + 4, pfx := some pfx } })
    ∧ (s.orphan cur p c pfx = true → p.hub = none → c.fibres ≠ [] →
      ∃ t q, exec (.pfx rnd sat ftz nox go gv) s = .next t ∧ t.mem = s.mem ∧ t.ply cur.ply = some q
        ∧ ∃ k ∈ q.courses, k.fibres = c.fibres ∧ k.run = c.run ∧ ∃ n m l, k.phase = .parked 0x02 n m l))
  ∧ (∀ (s : State) (x : Issue) (ch : Bool) (st : BitVec 2) (ix : BitVec 8) (f : BitVec 19) (w1 w2 : IWord) (i : Instr),
    s.issue (.chartWord ch st ix f) = some x →
    let e := ChartSlot.entry (s.chartOf x.ply) ix.toNat
    chartValid e = true → x.ply.stale.getLsbD (ix.toNat / 32) = false → expandEntry e ch st f.toNat = some (w1, w2) →
    decodeWords w1 w2 = .ok i →
    ∃ t, exec (.chartWord ch st ix f) s = .next t ∧ exec i s = .next t
      ∧ ∀ h d a b fm ui y, i = .add h d a b fm ui → fm.isInt = true → Issues s i noExtra y → AllHold fm [a, b] y →
          ∃ r, t = y.complete s r ∧ ∀ g ∈ y.active, SubResult fm (r g) fun n v =>
            Narrowed y.sat ui fm.width (intElem y g fm ui a n + intElem y g fm ui b n) v)
  ∧ (∀ (s : State) (x : Issue) (h : Head) (a : BitVec 6) (off : BitVec 14) (slot : BitVec 3) (blk : BitVec 4),
    let va := ((x.uniform (.s a)) + off.signExtend 64).toNat
    Issues s (.chartld h a off slot blk) noExtra x → x.active ≠ [] →
    Holds x (x.active.headD 0) .i64 (.s a) ∨ Holds x (x.active.headD 0) .raw (.s a) → va % 64 = 0 →
    s.rangeFaults x.ply va (chartldBytes blk.toNat) .read = [] →
    ∃ t, exec (.chartld h a off slot blk) s = .next t ∧ t.mem = s.mem ∧ ∃ o ∈ t.ops, o.id = s.nextId ∧ o.ply = x.ply.handle
      ∧ o.body = .chartld va blk.toNat x.ply.chart)
  ∧ (∀ (s : State) (o : Op) (p : Ply) (va blk slot : Nat) (ws : List Word), s.op o.id = some o → o.body = .chartld va blk slot →
    s.issuer o = some p → blk < 9 →
    (∀ q ∈ s.ops, q.id < o.id → q.ply = o.ply → ∀ v b k, q.body ≠ .chartld v b k) →
    s.owing o.ply o.id (o.left.take 1) true = false →
    (s.readFor p va (12 * (if blk = 8 then 256 else 32) / 8) o.pages).2 = ([], ws) →
    (∀ e ∈ imageEntries (if blk = 8 then 256 else 32) (granuleBytes ws), entryLoads e = true) →
    ∃ t, exec (.chartldCommit o.id) s = .next t ∧ t.op o.id = none ∧ t.mem = s.mem)
  ∧ (∀ (s : State) (x : Issue) (h : Head) (d : BitVec 6) (b : Src) (off : BitVec 14), Issues s (.chartrd h d b off) noExtra x →
    x.hub = false → x.active ≠ [] → UniformCtl x b →
    let ix := (x.uniform b).toInt + off.toInt
    let e := if 0 ≤ ix ∧ ix ≤ 255 then ChartSlot.entry (s.chartOf x.ply) ix.toNat else 0
    ∃ t, exec (.chartrd h d b off) s = .next t ∧ t.mem = s.mem ∧ After t x fun q =>
      (∃ l ∈ q.flight, l.target = .s d.toNat ∧ l.reg = ⟨e.extractLsb' 0 64, .raw⟩)
      ∧ ∃ l ∈ q.flight, l.target = .s (d.toNat + 1) ∧ l.reg = ⟨(chartHoles e).setWidth 64, .raw⟩)
  ∧ ∀ (s : State) (x : Issue) (h cid len : Nat) (p : Ply) (c : Course) (hd : Head) (a : Src) (csr : BitVec 14)
      (v : Word) (s' : State) (q : Ply),
    let i : Instr := .csrw hd a csr
    let s0 := s.ready p c i len
    let writes (ev : Instr) : Prop := ∃ t, exec ev s = .next t ∧ t = x.finishOnce s' q none
    s.ply h = some p → p.course cid = some c → s.mayIssue p c = true → c.chain = [] → s.packedRun p cid = none → hd.ch = false →
    s.look p c.run.pc = .found i len → Issues s0 i (csrBreach · csr true) x → x.active ≠ [] → UniformCtl x a → x.uniform a = v →
    ((∃ k, a = .imm k) ∨ ∃ n, a = .s n ∧ (SMap.get Reg.zero (p.land (Nat.max s.clock c.nextIssue)).s n.toNat).val = v) →
    s0.csrWrite x.ply csr.toNat v = some (s', q) →
    (csr = 5 → writes (.plyCtlWrite h cid v)) ∧ (csr = 4 → writes (.tvecWrite h cid v))
    ∧ (csr = 11 → writes (.sliceCtlWrite (.ply h) cid v))
    ∧ (csr ≠ 4 → csr ≠ 5 → csr ≠ 11 → writes (.controlRegisterWrite h cid csr.toNat v))

/-! ### Rules stated whole -/

/-- R262: the selvedge code is the CRC-8 of the rule over the data bits and then bits [51:3] of the address, most significant
first; a granule whose code is that is valid, the poison pattern is poison, and any other code is a mismatch; in the scratchpad
the address is the offset. -/
def Obligations.SelvedgeCodeAndPoisonPattern : Prop :=
  ∀ (data : Word) (ia : Nat) (code : Byte) (c : Carve),
    let bits : List Bool := (List.range 64).map (fun k => data.getLsbD (63 - k)) ++ (List.range 49).map fun k => bitOf ia (51 - k)
    let step (crc : Byte) (x : Bool) : Byte :=
      let up := BitVec.ofNat 8 (crc.toNat * 2 % 256)
      if (crc.getLsbD 7 ^^ x) = true then up ^^^ 0x2F else up
    let granule : Granule := ⟨data, code⟩
    selv data ia = bits.foldl step 0xFF
    ∧ (code = selv data ia ↔ granule.judge ia = .valid data)
    ∧ (data = 0 ∧ code = ~~~ selv 0 ia ↔ granule.judge ia = .poison)
    ∧ (code ≠ selv data ia ∧ ¬ (data = 0 ∧ code = ~~~ selv 0 ia) ↔ granule.judge ia = .badCode)
    ∧ (SMap.wf none c.cells = true → ia % 8 = 0 →
      (c.putReg ia ⟨data, .raw⟩).granule ia = ⟨data, selv data ia⟩
      ∧ (c.putReg ia ⟨data, .poison⟩).granule ia = ⟨0, ~~~ selv 0 ia⟩
      ∧ ∀ w, scratchValue granule ia .raw = .ok ⟨w, .raw⟩ ↔ code = selv data ia ∧ w = data)

/-- R30: an instruction at run position 24 or higher has cause 0x06 among the faults of its word, one below does not, whatever the
instruction; it is attributed to that instruction, at which the course parks; so no instruction but a bind completes in a run
that holds 24 already. -/
def Obligations.RunsHoldAtMost24Instructions : Prop :=
  ∀ (s : State) (i : Instr) (x : Issue), Executes i → (s.issue i).map (ownBeats i s) = some x → x.sh.isBind = false →
    let faults := s.wordFaults x (entryFaults i x)
    (24 ≤ x.course.run.pos → (∃ e ∈ faults, e = ⟨0x06, 0⟩) ∧ ¬ Issues s i (entryFaults i) x (ownBeats i s))
    ∧ (x.course.run.pos < 24 → ∀ e ∈ faults, e.cause ≠ 0x06)
    ∧ (24 ≤ x.course.run.pos → x.course.fibres ≠ [] → (∀ e ∈ faults, 0x06 ≤ e.cause) →
      ∃ t, exec i s = .next t ∧ t.mem = s.mem ∧ After t x fun q => Faulted x q x.course.fibres 0x06 0
        ∧ (x.hub = false → Parked x q x.course.fibres 0x06 (fun _ => 0) ∧ SameRegisters x q))

/-- R171: Barrett's reduction with the reciprocal of a modulus of b bits: the product and the estimate keep their bounds, and the
result is the remainder. -/
def Obligations.BarrettReducesModuloQ : Prop :=
  ∀ (m : QMod) (x : Nat),
    let q := m.q.toNat
    let b := m.bits
    let t := x * m.mu.toNat / 2 ^ (2 * b)
    let r := x - t * q
    1 ≤ b → 2 ^ (b - 1) ≤ q → q < 2 ^ b → m.mu.toNat = 2 ^ (2 * b) / q → x < q * q →
    q * q ≤ 2 ^ (2 * b) ∧ x * m.mu.toNat < 2 ^ (3 * b + 1)
    ∧ x / q - 1 ≤ t ∧ t ≤ x / q ∧ t * q ≤ x ∧ r < 2 * q
    ∧ barrett m x = (if q ≤ r then r - q else r) ∧ barrett m x < q ∧ barrett m x = x % q

/-! ### The statements that join several -/

/-- R112, R130, R132, R136: the statements named. -/
def Obligations.IntegerResultsAreExactThenNarrowed : Prop :=
  LongIntegerResultsAreExactThenNarrowed ∧ BaseIntegerResultsFollowTheirSources

/-- R139, R140, R141, R142, R143, R144, R145: the statements named. -/
def Obligations.BitsShiftsCountsComparisonsAndPredicates : Prop :=
  BitwiseResultsBitByBit ∧ ShiftsMoveTheBitsOfEachElement ∧ CountsComparisonsAndSelection ∧ PredicateOperations

/-- R122, R138, R176: the statements named. -/
def Obligations.EnabledTrapsParkTheFibre : Prop :=
  DivisionTrapsUnderDivtrap ∧ EnabledTrapParksTheFibre

/-- R123, R124, R125, R126, R127, R128, R134: the statements named. -/
def Obligations.MovesCopyValuesTagsAndFlags : Prop :=
  MovesCopyValueAndTag ∧ ScalarMovesAndStickyFlags

/-- R147, R148, R150: the statements named. -/
def Obligations.FloatAndComplexArithmeticRoundsOnce : Prop :=
  FloatArithmeticRoundsOnce ∧ ComplexArithmeticRoundsEachPart

/-- R152, R154, R156, R157, R158: the statements named. -/
def Obligations.DotProductsSpecialFunctionsAndConversions : Prop :=
  DotSpecialFunctionsAndConversions ∧ SpecialFunctionsHaveTheirSpecialValues

/-- R160, R164, R165: the statements named. -/
def Obligations.ReductionsAndScansCombineTheirSegments : Prop :=
  ReductionsAndScansCombineSegments ∧ IntegerCombinationIsExact

/-- R176, R180, R183: the statements named. -/
def Obligations.AutomorphismAndQset : Prop :=
  AutomorphismMovesCoefficients ∧ QsetLoadsTheBarrettConstant

/-- R25, R26, R44, R45, R51, R58: the statements named. -/
def Obligations.WordsOfTheStream : Prop :=
  PlainWordsOfTheStream ∧ ChartWordsFillOnlyTheirHoles ∧ PrefixJoinsTheRunState

/-- R10, R49, R69, R107, R108, R109, R424, R425: the statements named. -/
def Obligations.FaultsParkAtTheirWord : Prop :=
  BindRaisesPendingFaults ∧ WordFaultsParkTheWholeCourse ∧ OperandFaultsParkTheFibre

/-- R70, R88, R90, R91, R92, R93, R94, R95, R96: the statements named. -/
def Obligations.FibreInstructionsAndVotes : Prop :=
  FibreInstructions ∧ ElectVoteAndPhase

/-- R32, R69, R98, R364, R365, R425: the statements named. -/
def Obligations.SystemCallsAndTrapsAreTaken : Prop :=
  SystemCallsAndTrapsPark ∧ HubTrapsAreTakenOnTheCore

/-- R359, R364: the statements named. -/
def Obligations.HandlersTakeAndLeave : Prop :=
  HandlerTakesTheCourseParkedFirst ∧ EretLeavesTheHandler

/-- R6, R47, R105, R356, R357, R358, R359, R365: the statements named. -/
def Obligations.ControlRegistersReadWriteAndCheck : Prop :=
  ControlRegistersReadAndWrite ∧ ControlRegisterWritesAreChecked ∧ ControlWriteEventsExecuteTheWrite

/-- R68, R78: the statements named. -/
def Obligations.RunSlotsAndWaitSets : Prop :=
  RunSlotsAreFilledByLevelAndRotation ∧ WaitSetSplitsLateFibres

/-- R109, R219, R227: the statements named. -/
def Obligations.ScratchpadLoadsAndStores : Prop :=
  ScratchLoadsBringTheGranule ∧ ScratchStoresPutTheRegister ∧ ScratchGranulesReadBack

/-- R228, R229, R231: the statements named. -/
def Obligations.FullEmptyWordsAndCacheTags : Prop :=
  FullEmptyAccessesWaitForTheirState ∧ CacheTagsAreLookedUpSetAndCleared

/-- R232, R234, R274: the statements named. -/
def Obligations.RingsHandOutSlotsInOrder : Prop :=
  RingCommandsHandOutSlotsInOrder ∧ RingEventsServeTheHeadOfTheQueue

/-- R189, R190, R193, R194, R198, R199, R200, R201, R204, R211: the statements named. -/
def Obligations.MatrixOperationsSumAndRetire : Prop :=
  MatrixOperationsEnterThePairQueue ∧ IntegerMatrixElementsAreExactSums ∧ MatrixOperationsRetireIntoTheBlock

/-- R195, R196, R204, R205, R206, R208, R209, R284, R294, R302: the statements named. -/
def Obligations.AccumulatorBlocksAreAllocatedAndMoved : Prop :=
  AccumulatorInstructionsEnterTheirQueues ∧ AllocatorServesTheFirstRequestItCan ∧ AccumulatorOperationsRetire
    ∧ AccumulatorTransfersMoveTheImage

/-- R187, R204, R213: the statements named. -/
def Obligations.PairQueuesBeginInOrderAndReset : Prop :=
  PairOperationsBeginInBlockOrder ∧ PairResetCancelsTheQueue

/-- R246, R250, R251, R253, R254, R256, R258, R260, R261: the statements named. -/
def Obligations.MemoryInstructionsIssueTheirAccesses : Prop :=
  MemoryInstructionsLeaveAnAccessPerFibre ∧ FencesMakeAndAwaitTokens

/-- R224, R251, R252, R254, R255, R257: the statements named. -/
def Obligations.AccessesPerformAtTheHome : Prop :=
  LoadsAndStoresPerformAtTheHome ∧ MemorySideUnitCombinesAtTheHome

/-- R259, R260, R261, R328, R329, R394: the statements named. -/
def Obligations.WaitersAndKickPages : Prop :=
  WaitersSleepWakeAndTimeOut ∧ KickPageRegistersTakeStores

/-- R264, R273, R274, R275, R276, R277: the statements named. -/
def Obligations.CopiesAreIssuedAndCarriedOut : Prop :=
  CopyCommandsGoToTheEngine ∧ CopyEngineCarriesCommandsOut

/-- R278, R279, R283: the statements named. -/
def Obligations.HubCopyQueuesAndStageStreams : Prop :=
  HubCopyQueuesAreServed ∧ StageStreamsFollowTheirRules

/-- R285, R299, R300, R301, R302, R303, R305, R351, R352, R393, R394: the statements named. -/
def Obligations.TranslationChangesAndPosts : Prop :=
  TranslationInstructionsTakeEffect ∧ PromotionRewritesTheTree ∧ PostsGiveTheirStatus

/-- R360, R362, R363, R375, R391: the statements named. -/
def Obligations.TrapRecordsAndPeerLoss : Prop :=
  TrapRecordsAreWrittenAndAnswered ∧ PeerLossQuiescesThePartition

/-- R358, R367, R368, R371, R421: the statements named. -/
def Obligations.PliesAndSkeinsAreSavedAndRestored : Prop :=
  PliesAndSkeinsAreSaved ∧ PliesAndSkeinsAreRestored

/-- R313, R316, R317, R318, R323, R325, R327: the statements named. -/
def Obligations.MonitorSettlesItsInstructions : Prop :=
  MonitorInstructionsAskAndAreSettled ∧ MonitorKeepsItsConditions

/-- R342, R343, R344, R345, R348, R349: the statements named. -/
def Obligations.SpeculationsAndGauges : Prop :=
  SpeculationsStartAndAreClaimed ∧ GaugesOverrunAndReset

/-- R251, R255, R260, R261, R291, R377, R378, R381, R382, R383, R385: the statements named. -/
def Obligations.FabricResponsesAndFlitsArrive : Prop :=
  FabricResponsesEndTheAccess ∧ FlitsBringTheirMessages

/-- R387, R388, R389, R390, R391, R401: the statements named. -/
def Obligations.NetworkRequestsAndPackets : Prop :=
  WorkRequestsStart ∧ PacketsAreAcknowledgedAndSentAgain ∧ PacketsReachTheirWindows

/-- R329, R358, R362, R366, R385, R386, R396, R397, R398, R399, R401: the statements named. -/
def Obligations.PartitionsAndAdminRequests : Prop :=
  PartitionsFollowAdminRequests ∧ AdminRequestsSetOneThing ∧ NotifyRequestsWakeAndAnswer

/-- R263, R285, R308, R327, R400, R402, R403, R404, R405, R406: the statements named. -/
def Obligations.ServiceOfThePackage : Prop :=
  BudgetsReportsAndRetirement ∧ FirmwareSlotsAndReset ∧ ScrubbingAndThePort

/-- R12, R14, R28, R49, R73, R76: the statements named. -/
def Obligations.StepRunsTheFetchedInstruction : Prop :=
  StepRunsWhatItFetches ∧ StepRunsTheEventOfTheAgenda

/-- R15, R22, R38, R69, R102: the statements named. -/
def Obligations.CompletionAndLandingFrames : Prop :=
  CompletionTouchesOnlyWhatItNames ∧ LandingWritesItsTarget

/-- R4, R101, R102, R237: the statements named. -/
def Obligations.MemoryAndRegistersReadAsWritten : Prop :=
  MemoryReadsAsItWasWritten ∧ RegistersReadAsTheyWereWritten
end

