-- ==== Sys2Proof/Laws/Lane.lean ====
section
/-! SUPPORT.  What the issue of an instruction does, said once: the outcome of `runIssue`, `runLane` and `runOnce` under
the terms of Safety.lean. -/

namespace Sys2Proof.Machine

theorem lowestFault_nil : lowestFault [] = none := rfl

theorem minBy_none {α : Type} (key : α → Nat) (l : List α) : minBy key l = none ↔ l = [] := by
  cases l with
  | nil => simp [minBy]
  | cons a r =>
    simp only [minBy]
    cases minBy key r <;> simp
    split <;> simp

theorem lowestFault_none (l : List FaultAt) : lowestFault l = none ↔ l = [] := minBy_none _ l

theorem stage_nil : stage [] = .ok () := rfl

theorem Issue.afterRead_nil (x : Issue) : x.afterRead [] = x := rfl

theorem State.settleRead_nil (s : State) (own : Nat) : s.settleRead own [] = s := rfl

theorem runIssueAs_of_issues {s : State} {i : Instr} {adjust : Issue → Issue} {extra : Issue → List FaultAt} {x : Issue}
    (h : Issues s i extra x adjust) (act : Issue → List FaultAt → State) :
    runIssueAs s i adjust extra act = .next (act x []) := by
  have hs := h.slot
  unfold runIssueAs
  rw [h.issue]
  simp only [h.word, lowestFault_nil, h.free, h.clean, Issue.afterRead_nil, h.check, State.settleRead_nil]
  cases hsl : x.sh.slot with
  | none => simp
  | some n => simp [Nat.not_le.mpr (hs n hsl)]

theorem runIssue_of_issues {s : State} {i : Instr} {extra : Issue → List FaultAt} {x : Issue}
    (h : Issues s i extra x) (act : Issue → List FaultAt → State) :
    runIssue s i extra act = .next (act x []) := runIssueAs_of_issues h act

theorem runIssueAs_next {s : State} {i : Instr} {x : Issue} {adjust : Issue → Issue} (h : (s.issue i).map adjust = some x)
    (extra : Issue → List FaultAt) (act : Issue → List FaultAt → State) : ∃ t, runIssueAs s i adjust extra act = .next t := by
  unfold runIssueAs
  rw [h]
  dsimp only
  repeat' split
  all_goals exact ⟨_, rfl⟩

theorem runIssue_next {s : State} {i : Instr} {x : Issue} (h : s.issue i = some x) (extra : Issue → List FaultAt)
    (act : Issue → List FaultAt → State) : ∃ t, runIssue s i extra act = .next t :=
  runIssueAs_next (by rw [h]; rfl) extra act

theorem runLane_complete {s : State} {i : Instr} {x : Issue} (h : Issues s i noExtra x)
    {f : Issue → List FaultAt → Nat → Except FaultAt LaneOut} {r : Nat → LaneOut}
    (hr : ∀ g ∈ x.active, f x [] g = .ok (r g)) (ht : ∀ g ∈ x.active, x.parksOn (r g).flags = false) :
    runLane s i f = .next (x.complete s r) := by
  unfold runLane
  rw [runIssue_of_issues (extra := fun _ => []) h]
  have h1 : (x.active.map fun g => (g, f x [] g)) = x.active.map fun g => (g, Except.ok (r g)) :=
    List.map_congr_left fun g hg => by rw [hr g hg]
  have h2 : (x.active.map fun g => (g, (Except.ok (r g) : Except FaultAt LaneOut))).filterMap x.okOf
      = x.active.map fun g => (g, r g) := by
    have aux : ∀ l : List Nat, (∀ g ∈ l, x.parksOn (r g).flags = false) →
        (l.map fun g => (g, (Except.ok (r g) : Except FaultAt LaneOut))).filterMap x.okOf = l.map fun g => (g, r g) := by
      intro l
      induction l with
      | nil => intro _; rfl
      | cons a l ih => intro hl; simp_all [Issue.okOf]
    exact aux _ ht
  have h3 : (x.active.map fun g => (g, (Except.ok (r g) : Except FaultAt LaneOut))).filterMap x.trapOf = [] := by
    rw [List.filterMap_map, List.filterMap_eq_nil_iff]
    exact fun g hg => by simp [Issue.trapOf, ht g hg]
  have h4 : (x.active.map fun g => (g, (Except.ok (r g) : Except FaultAt LaneOut))).filterMap faultOf = [] := by
    rw [List.filterMap_map, List.filterMap_eq_nil_iff]
    exact fun g _ => by simp [faultOf]
  have hk : x.keepFlags x.ply [] = x.ply := by unfold Issue.keepFlags; split <;> rfl
  have hf (sb : List FaultAt) (res : List (Nat × Except FaultAt LaneOut)) : x.finishLanes s sb res =
      x.finish s ((res.filterMap x.okOf).foldl x.emitLane (x.keepFlags x.ply (res.filterMap x.trapOf))) (res.filterMap x.okOf)
        (res.filterMap faultOf ++ (res.filterMap x.trapOf).map (fun t => (t.1, x.flagFault
          ((res.filterMap x.trapOf).foldl (fun a t => a ||| t.2) 0))) ++ x.inactiveFaults sb) := rfl
  rw [hf, h1, h2, h3, h4, hk]
  rfl

theorem runOnce_complete {s : State} {i : Instr} {extra chk : Issue → List FaultAt} {x : Issue}
    (h : Issues s i extra x) (hc : x.active.isEmpty = false → chk x = []) (act : Issue → Ply → Ply × Option Reg) :
    runOnce s i extra chk act = .next (x.completeOnce s (act x x.ply).1 (act x x.ply).2) := by
  unfold runOnce
  rw [runIssue_of_issues h]
  by_cases ha : x.active.isEmpty = true
  · simp [ha, lowestFault_nil, Issue.completeOnce]
  · have ha' : x.active.isEmpty = false := by simpa using ha
    simp [ha', hc ha', lowestFault_nil, Issue.completeOnce]

theorem check_of_readable {x : Issue} {g : Nat} {src : Src} (h : Readable x g src) :
    x.check g (fun _ => true) src = [] := by
  cases src <;> simp_all [Readable, Issue.check]

theorem need_of_holds {x : Issue} {g : Nat} {f : Fmt} {src : Src} (h : Holds x g f src) : x.need g f src = [] := by
  cases src <;> simp_all [Holds, Issue.need, Issue.check, Issue.checkQ]
  all_goals first | (rcases h with h | h <;> simp [h]) | skip

end Sys2Proof.Machine
end

