-- ==== Sys2Proof/Laws/Memory.lean ====
section
/-! SUPPORT.  Every memory operation keeps the canonical form of memory (log 1), and what the operations over sparse maps
do. -/

namespace Sys2Proof.Machine

/-! ### Sparse maps -/

section
variable {α : Type} (d : α)

theorem SMap.mem_put {m : SMap α} {k : Nat} {a : α} {c : Nat × α} (h : c ∈ m.put k a) : c = (k, a) ∨ c ∈ m := by
  induction m with
  | nil => simpa [SMap.put] using h
  | cons b r ih =>
    simp only [SMap.put] at h
    split at h
    · simpa using h
    · split at h
      · exact (List.mem_cons.mp h).imp_right (List.mem_cons_of_mem _)
      · rcases List.mem_cons.mp h with h | h
        · exact .inr (h ▸ List.mem_cons_self)
        · exact (ih h).imp_right (List.mem_cons_of_mem _)

theorem SMap.del_sublist (m : SMap α) (k : Nat) : (m.del k).Sublist m := by
  induction m with
  | nil => simp [SMap.del]
  | cons b r ih =>
    simp only [SMap.del]
    split
    · exact List.Sublist.refl _
    · split
      · exact List.sublist_cons_self _ _
      · exact ih.cons_cons _

variable [DecidableEq α]

theorem SMap.wfFrom_iff (lo : Option Nat) (m : SMap α) :
    SMap.wfFrom d lo m = true ↔
      (∀ l, lo = some l → ∀ c ∈ m, l < c.1) ∧ m.Pairwise (fun a b => a.1 < b.1) ∧ ∀ c ∈ m, c.2 ≠ d := by
  induction m generalizing lo with
  | nil => simp [SMap.wfFrom]
  | cons c r ih =>
    obtain ⟨j, a⟩ := c
    simp only [SMap.wfFrom, Bool.and_eq_true, Bool.not_eq_true', decide_eq_false_iff_not, ih, Option.some.injEq,
      forall_eq', List.mem_cons, forall_eq_or_imp, List.pairwise_cons]
    cases lo with
    | none =>
      simp only [reduceCtorEq, false_implies, implies_true, true_and]
      exact ⟨fun ⟨a, b, c, e⟩ => ⟨⟨b, c⟩, a, e⟩, fun ⟨⟨b, c⟩, a, e⟩ => ⟨a, b, c, e⟩⟩
    | some l =>
      simp only [decide_eq_true_eq, Option.some.injEq, forall_eq']
      constructor
      · rintro ⟨⟨h1, h2⟩, h3, h4, h5⟩
        exact ⟨⟨h1, fun c hc => Nat.lt_trans h1 (h3 c hc)⟩, ⟨h3, h4⟩, h2, h5⟩
      · rintro ⟨⟨h1, -⟩, ⟨h3, h4⟩, h2, h5⟩
        exact ⟨⟨h1, h2⟩, h3, h4, h5⟩

/-- The canonical form: keys rise strictly and no entry is the default. -/
theorem SMap.wf_iff (m : SMap α) :
    SMap.wf d m = true ↔ m.Pairwise (fun a b => a.1 < b.1) ∧ ∀ c ∈ m, c.2 ≠ d := by
  simp [SMap.wf, SMap.wfFrom_iff]

theorem SMap.wf_nil : SMap.wf d ([] : SMap α) = true := rfl

theorem SMap.wf_filter {m : SMap α} (h : SMap.wf d m = true) (p : Nat × α → Bool) : SMap.wf d (m.filter p) = true := by
  rw [SMap.wf_iff] at *
  exact ⟨h.1.filter p, fun c hc => h.2 c (List.mem_filter.mp hc).1⟩

theorem SMap.wf_put {m : SMap α} (h : SMap.wf d m = true) {k : Nat} {a : α} (ha : a ≠ d) :
    SMap.wf d (m.put k a) = true := by
  rw [SMap.wf_iff] at *
  refine ⟨?_, fun c hc => (SMap.mem_put hc).elim (by rintro rfl; exact ha) (h.2 c)⟩
  obtain ⟨h, -⟩ := h
  induction m with
  | nil => simp [SMap.put]
  | cons b r ih =>
    obtain ⟨j, b⟩ := b
    rw [List.pairwise_cons] at h
    simp only [SMap.put]
    split
    · next hk =>
      refine List.pairwise_cons.mpr ⟨fun c hc => ?_, List.pairwise_cons.mpr h⟩
      rcases List.mem_cons.mp hc with rfl | hc
      · exact hk
      · exact Nat.lt_trans hk (h.1 c hc)
    · split
      · next hj => exact List.pairwise_cons.mpr ⟨fun c hc => hj ▸ h.1 c hc, h.2⟩
      · refine List.pairwise_cons.mpr ⟨fun c hc => ?_, ih h.2⟩
        rcases SMap.mem_put hc with rfl | hc
        · show j < k; omega
        · exact h.1 c hc

theorem SMap.wf_del {m : SMap α} (h : SMap.wf d m = true) (k : Nat) : SMap.wf d (m.del k) = true := by
  rw [SMap.wf_iff] at *
  have hs := SMap.del_sublist m k
  exact ⟨h.1.sublist hs, fun c hc => h.2 c (hs.subset hc)⟩

theorem SMap.wf_set {m : SMap α} (h : SMap.wf d m = true) (k : Nat) (a : α) : SMap.wf d (m.set d k a) = true := by
  unfold SMap.set
  split
  · exact SMap.wf_del d h k
  · exact SMap.wf_put d h (by assumption)

end

/-! ### Memory -/

theorem memSet_wf {m : List Host.Cell} (h : Memory.wf m = true) (a : Nat) (b : Byte) : Memory.wf (memSet m a b) = true :=
  SMap.wf_set 0 h a b

theorem memWrite_wf {m : List Host.Cell} (h : Memory.wf m = true) (a : Nat) (l : List Byte) :
    Memory.wf (memWrite m a l) = true := by
  induction l generalizing m a with
  | nil => exact h
  | cons b r ih => exact ih (memSet_wf h a b) _

theorem putGranule_wf {s : State} (h : Memory.wf s.mem = true) (a ia : Nat) (g : Granule) :
    Memory.wf (s.putGranule a ia g).mem = true := memWrite_wf h _ _

theorem zeroFrame_wf {s : State} (h : Memory.wf s.mem = true) (aper frame : Nat) :
    Memory.wf (s.zeroFrame aper frame).mem = true := SMap.wf_filter 0 h _

theorem zeroDie_wf {s : State} (h : Memory.wf s.mem = true) (aper : Nat) : Memory.wf (s.zeroDie aper).mem = true :=
  SMap.wf_filter 0 h _

theorem moved_wf (l : List Host.Cell) (hl : ∀ c ∈ l, c.2 ≠ 0) (g : Nat → Nat) {m : List Host.Cell} (h : Memory.wf m = true) :
    Memory.wf (l.foldl (fun m (c : Host.Cell) => SMap.put m (g c.1) c.2) m) = true := by
  induction l generalizing m with
  | nil => exact h
  | cons c r ih =>
    exact ih (fun c hc => hl c (List.mem_cons_of_mem _ hc)) (SMap.wf_put 0 h (hl c List.mem_cons_self))

theorem moveFrame_wf {s : State} (h : Memory.wf s.mem = true) (a f a' f' : Nat) :
    Memory.wf (s.moveFrame a f a' f').mem = true := by
  unfold State.moveFrame
  refine zeroFrame_wf ?_ a f
  refine moved_wf _ (fun c hc => ?_) (fun x => x - flat a (f * 65536) + flat a' (f' * 65536)) (zeroFrame_wf h a' f')
  exact ((SMap.wf_iff 0 s.mem).mp h).2 c (List.mem_filter.mp hc).1

/-! ### Budgets and messages touch no memory -/

/-- A charge, paid or held, leaves memory alone (R402). -/
theorem pay_mem (s : State) (id : Nat) (c : Charge) : (s.pay id c).mem = s.mem := rfl

theorem spendAll_mem (s : State) (id : Nat) (l : List Charge) : (s.spendAll id l).1.mem = s.mem := by
  have h : ∀ (l : List Charge) (s : State), (l.foldl (fun s c => s.pay id c) s).mem = s.mem := by
    intro l
    induction l with
    | nil => exact fun _ => rfl
    | cons c r ih => exact fun s => (ih _).trans (pay_mem s id c)
  unfold State.spendAll
  split
  · rfl
  · dsimp only
    split <;> exact h l s

theorem spend_mem (s : State) (pkg holder resource unit id n : Nat) :
    (s.spend pkg holder resource unit id n).1.mem = s.mem := spendAll_mem s id _

theorem spendFlits_mem (s : State) (m : Msg) (u : Nat) (h : Bool × Nat) : (s.spendFlits m u h).1.mem = s.mem := by
  unfold State.spendFlits
  dsimp only
  split
  · rfl
  · split <;> exact spend_mem s ..

theorem launchFlit_mem (s : State) (m : Msg) (u : Nat) (h : Bool × Nat) : (s.launchFlit m u h).mem = s.mem := rfl

theorem countSo_mem (s : State) (m : Msg) (u : Nat) : (s.countSo m u).mem = s.mem := by
  unfold State.countSo
  split <;> rfl

theorem sequence_mem (s : State) (m : Msg) : (s.sequence m).1.mem = s.mem := by
  unfold State.sequence
  split <;> rfl

theorem cross_mem (s : State) (m : Msg) (u : Nat) (h : Bool × Nat) : (s.cross m u h).mem = s.mem := by
  have hs := spendFlits_mem s m u h
  unfold State.cross
  split
  · next t e => rw [e] at hs; exact hs
  · next t e =>
    rw [e] at hs
    dsimp only
    rw [launchFlit_mem]
    show (State.countSo _ _ _).mem = _
    rw [countSo_mem]
    split
    · rw [sequence_mem]; exact hs
    · exact hs

/-- A message goes its way: memory stays (R380). -/
theorem advance_mem (s : State) (m : Msg) (u : Nat) : (s.advance m u).mem = s.mem := by
  unfold State.advance
  dsimp only
  repeat' split
  all_goals first
    | rfl
    | exact cross_mem ..
    | exact countSo_mem ..
    | exact (cross_mem ..).trans (countSo_mem ..)

theorem respond_mem (s : State) (m : Msg) (ans : Answer) : (s.respond m ans).mem = s.mem := advance_mem ..

/-- Waking a waiter touches no memory. -/
theorem wake_mem (s : State) (w : Waiter) (t : AccessState) : (s.wake w t).mem = s.mem := by
  unfold State.wake
  dsimp only
  split
  · rw [respond_mem]; rfl
  · rfl

/-- What a write does beside its bytes touches no memory. -/
theorem written_mem (s : State) (a : Nat) : (s.written a).mem = s.mem := by
  unfold State.written
  generalize List.filter (fun w : Waiter => w.addr == a / 8 * 8) s.waiters = l
  show (l.foldl (fun s w => s.wake w .waiting) s).mem = s.mem
  induction l generalizing s with
  | nil => rfl
  | cons w r ih => exact (ih (s.wake w .waiting)).trans (wake_mem s w _)

theorem poisonOthers_wf {s : State} (h : Memory.wf s.mem = true) (a ia : Nat) :
    Memory.wf (s.poisonOthers a ia).mem = true := by
  unfold State.poisonOthers
  generalize List.range 8 = l
  induction l generalizing s with
  | nil => exact h
  | cons i r ih =>
    rw [List.foldl_cons]
    refine ih ?_
    dsimp only
    split
    · exact h
    · rw [written_mem]
      exact putGranule_wf h _ _ _

theorem store_wf {s : State} (h : Memory.wf s.mem = true) (a ia : Nat) (g : Granule) :
    Memory.wf (s.store a ia g).mem = true := by
  unfold State.store
  dsimp only
  rw [written_mem]
  refine putGranule_wf ?_ _ _ _
  split
  · exact poisonOthers_wf h a ia
  · exact h

theorem storeReg_wf {s : State} (h : Memory.wf s.mem = true) (a ia : Nat) (r : Reg) :
    Memory.wf (s.storeReg a ia r).mem = true := store_wf h _ _ _

theorem resetPackage_wf {s : State} (h : Memory.wf s.mem = true) (pkg : Nat) (p : Pkg) :
    Memory.wf (s.resetPackage pkg p).mem = true := SMap.wf_filter 0 h _

theorem scrub_wf {s t : State} (h : Memory.wf s.mem = true) {die pa : Nat} (ht : execScrub die pa s = .next t) :
    Memory.wf t.mem = true := by
  unfold execScrub at ht
  simp only [Host.Outcome.next.injEq] at ht
  subst ht
  have hm := spend_mem s (aperPkg die) (activity 0) 0 (stackUnit (flat die (pa / 64 * 64))) (2 ^ 41 + die) 64
  split
  · rw [hm]; exact h
  · rw [hm]; exact memWrite_wf h _ _

theorem placeTree_wf {s : State} (h : Memory.wf s.mem = true) : Memory.wf s.placeTree.mem = true := by
  simp only [State.placeTree, State.setOwner]
  iterate 4 apply memWrite_wf
  exact h

theorem place_wf {s : State} (h : Memory.wf s.mem = true) (l : List Byte) : Memory.wf (s.place l).mem = true :=
  memWrite_wf (placeTree_wf h) _ _

theorem reset_wf : Memory.wf State.reset.mem = true := rfl

end Sys2Proof.Machine
end

