-- ==== Sys2Proof/Laws/Ops.lean ====
section
/-! SUPPORT.  What the shared operations can do, said once: the issue of an instruction, taking an exception, and the end
of an instruction in its course. -/

namespace Sys2Proof.Machine

/-- What taking an exception and ending an instruction leave as it was: everything but the plies, their cores, the clock,
the numbering, and the log of a hub core that stops. -/
def State.SameOutside (s t : State) : Prop :=
  t.mem = s.mem ∧ t.codes = s.codes ∧ t.tagFail = s.tagFail ∧ t.owners = s.owners ∧ t.roots = s.roots
    ∧ t.ranges = s.ranges ∧ t.enclaves = s.enclaves ∧ t.ops = s.ops ∧ t.skeins = s.skeins ∧ t.pairs = s.pairs
    ∧ t.launches = s.launches ∧ t.specs = s.specs ∧ t.waiters = s.waiters ∧ t.msgs = s.msgs ∧ t.flits = s.flits
    ∧ t.probes = s.probes ∧ t.nets = s.nets ∧ t.recs = s.recs ∧ t.partitions = s.partitions ∧ t.pkgs = s.pkgs
    ∧ t.outs = s.outs ∧ t.agenda = s.agenda ∧ t.cur = s.cur ∧ t.freeCtr = s.freeCtr

theorem State.SameOutside.refl (s : State) : s.SameOutside s := by simp [State.SameOutside]

theorem State.SameOutside.trans {s t u : State} (h : s.SameOutside t) (k : t.SameOutside u) : s.SameOutside u := by
  simp only [State.SameOutside] at *
  simp [h, k]

theorem putPly_same (s : State) (p : Ply) : s.SameOutside (s.putPly p) := by simp [State.SameOutside, State.putPly]

theorem putCore_same (s : State) (c : Core) : s.SameOutside (s.putCore c) := by simp [State.SameOutside, State.putCore]

/-- R425: a trap taken on a hub core. -/
theorem hubTrap_same (s : State) (p : Ply) (run : Run) (e : FaultAt) : s.SameOutside (s.hubTrap p run e) := by
  unfold State.hubTrap
  split
  · exact .refl s
  · dsimp only
    split
    · exact putPly_same _ _
    · split
      · simp [State.SameOutside, State.logEvent, State.putPly]
      · exact putPly_same _ _

/-- Taking an exception (R69, R425). -/
theorem raise_same (s : State) (p : Ply) (c : Nat) (run : Run) (l : List (Nat × FaultAt)) :
    s.SameOutside (s.raise p c run l) := by
  unfold State.raise
  split
  · exact putPly_same _ _
  · exact putPly_same _ _
  · split
    · exact .trans (putPly_same _ _) (hubTrap_same _ _ _ _)
    · simp [State.SameOutside, State.putPly]

theorem holdPipe_same (x : Issue) (s : State) : s.SameOutside (x.holdPipe s) := by
  unfold Issue.holdPipe
  split <;> simp [State.SameOutside, State.putCore]

theorem separate_same (s : State) (p : Ply) (c : Nat) : s.SameOutside (s.separate p c) := by
  unfold State.separate
  dsimp only
  split
  · exact putCore_same _ _
  · exact .refl s

/-- The end of an instruction in its course. -/
theorem finish_same (x : Issue) (s : State) (p : Ply) (outs : List (Nat × LaneOut)) (faults : List (Nat × FaultAt)) :
    s.SameOutside (x.finish s p outs faults) := by
  unfold Issue.finish
  dsimp only
  refine .trans (holdPipe_same x s) (.trans ?_ (raise_same _ _ _ _ _))
  split
  · exact .refl _
  · exact separate_same _ _ _

/-- The wait at issue (R36, R39). -/
theorem wait_same (x : Issue) (s : State) : s.SameOutside (x.wait s) := by simp [State.SameOutside, Issue.wait, State.putPly]

/-- The faults of a word (R49). -/
theorem wordFault_same (x : Issue) (s : State) (e : FaultAt) : s.SameOutside (x.wordFault s e) := by
  unfold Issue.wordFault
  have h : s.SameOutside { s with clock := Nat.max s.clock x.time } := by simp [State.SameOutside]
  exact .trans (h.trans (separate_same _ _ _)) (raise_same _ _ _ _ _)

/-- The settling of a read's upsets (R110). -/
theorem settleRead_same (s : State) (own : Nat) (hits : List (Ply × Upset)) : s.SameOutside (s.settleRead own hits) := by
  unfold State.settleRead
  induction hits generalizing s with
  | nil => exact .refl s
  | cons u r ih =>
    rw [List.foldl_cons]
    refine .trans ?_ (ih _)
    dsimp only
    repeat' split
    all_goals simp [State.SameOutside, State.modPly, State.logEvent]

/-- Everything that the issue of an instruction can do: the fault of its word, a wait, or its act on what the reads leave. -/
theorem runIssueAs_cases {s t : State} {i : Instr} {adjust : Issue → Issue} {extra : Issue → List FaultAt}
    {act : Issue → List FaultAt → State} (h : runIssueAs s i adjust extra act = .next t) :
    ∃ x, (s.issue i).map adjust = some x ∧
      ((∃ e, lowestFault (s.wordFaults x (extra x)) = some e ∧ t = x.wordFault s e)
        ∨ (lowestFault (s.wordFaults x (extra x)) = none ∧ t = x.wait s)
        ∨ (lowestFault (s.wordFaults x (extra x)) = none ∧ ∃ y sb, y = x.afterRead (s.struck x)
          ∧ t = (act y sb).settleRead x.ply.handle (s.struck x))) := by
  unfold runIssueAs at h
  split at h
  · cases h
  · next x hx =>
    refine ⟨x, hx, ?_⟩
    split at h
    · next e he => cases h; exact .inl ⟨e, he, rfl⟩
    · next he =>
      dsimp only at h
      split at h
      all_goals
        split at h
        · cases h; exact .inr (.inl ⟨he, rfl⟩)
        · cases h; exact .inr (.inr ⟨he, _, _, rfl, rfl⟩)

/-- The same where the entry fixes the beats. -/
theorem runIssue_cases {s t : State} {i : Instr} {extra : Issue → List FaultAt} {act : Issue → List FaultAt → State}
    (h : runIssue s i extra act = .next t) : ∃ x, s.issue i = some x ∧
      ((∃ e, lowestFault (s.wordFaults x (extra x)) = some e ∧ t = x.wordFault s e)
        ∨ (lowestFault (s.wordFaults x (extra x)) = none ∧ t = x.wait s)
        ∨ (lowestFault (s.wordFaults x (extra x)) = none ∧ ∃ y sb, y = x.afterRead (s.struck x)
          ∧ t = (act y sb).settleRead x.ply.handle (s.struck x))) := by
  simpa using runIssueAs_cases h

/-- Lane-by-lane instructions leave everything outside the plies and cores as it was, whatever they do. -/
theorem runLane_same {s t : State} {i : Instr} {f : Issue → List FaultAt → Nat → Except FaultAt LaneOut}
    (h : runLane s i f = .next t) : s.SameOutside t := by
  obtain ⟨x, -, ⟨e, -, rfl⟩ | ⟨-, rfl⟩ | ⟨-, y, sb, -, rfl⟩⟩ := runIssue_cases h
  · exact wordFault_same _ _ _
  · exact wait_same _ _
  · exact .trans (finish_same _ _ _ _ _) (settleRead_same _ _ _)

theorem finishOnce_same (x : Issue) (s : State) (p : Ply) (d : Option Reg) : s.SameOutside (x.finishOnce s p d) := by
  unfold Issue.finishOnce
  split <;> exact finish_same _ _ _ _ _

/-- So do the instructions that act once for their course. -/
theorem runOnce_same {s t : State} {i : Instr} {extra chk : Issue → List FaultAt} {act : Issue → Ply → Ply × Option Reg}
    (h : runOnce s i extra chk act = .next t) : s.SameOutside t := by
  obtain ⟨x, -, ⟨e, -, rfl⟩ | ⟨-, rfl⟩ | ⟨-, y, sb, -, rfl⟩⟩ := runIssue_cases h
  · exact wordFault_same _ _ _
  · exact wait_same _ _
  · refine .trans ?_ (settleRead_same _ _ _)
    dsimp only
    split
    · exact finish_same _ _ _ _ _
    · split
      · exact finish_same _ _ _ _ _
      · exact finishOnce_same _ _ _ _

end Sys2Proof.Machine
end

