-- ==== Sys2Proof/Laws/State.lean ====
section
/-! SUPPORT.  What each named update of the state, and of a ply, does to each field. -/

namespace Sys2Proof.Machine

@[simp] theorem State.putPly_clock (s : State) (p : Ply) : (s.putPly p).clock = s.clock := rfl
@[simp] theorem State.putPly_agenda (s : State) (p : Ply) : (s.putPly p).agenda = s.agenda := rfl
@[simp] theorem State.putPly_cur (s : State) (p : Ply) : (s.putPly p).cur = s.cur := rfl
@[simp] theorem State.putPly_freeCtr (s : State) (p : Ply) : (s.putPly p).freeCtr = s.freeCtr := rfl
@[simp] theorem State.putPly_nextId (s : State) (p : Ply) : (s.putPly p).nextId = s.nextId := rfl
@[simp] theorem State.putPly_plies (s : State) (p : Ply) : (s.putPly p).plies = updateWhere (·.handle == p.handle) (fun _ => p) s.plies := rfl
@[simp] theorem State.putPly_cores (s : State) (p : Ply) : (s.putPly p).cores = s.cores := rfl
@[simp] theorem State.putPly_mem (s : State) (p : Ply) : (s.putPly p).mem = s.mem := rfl
@[simp] theorem State.putPly_codes (s : State) (p : Ply) : (s.putPly p).codes = s.codes := rfl
@[simp] theorem State.putPly_tagFail (s : State) (p : Ply) : (s.putPly p).tagFail = s.tagFail := rfl
@[simp] theorem State.putPly_owners (s : State) (p : Ply) : (s.putPly p).owners = s.owners := rfl
@[simp] theorem State.putPly_roots (s : State) (p : Ply) : (s.putPly p).roots = s.roots := rfl
@[simp] theorem State.putPly_ranges (s : State) (p : Ply) : (s.putPly p).ranges = s.ranges := rfl
@[simp] theorem State.putPly_frameCaches (s : State) (p : Ply) : (s.putPly p).frameCaches = s.frameCaches := rfl
@[simp] theorem State.putPly_promos (s : State) (p : Ply) : (s.putPly p).promos = s.promos := rfl
@[simp] theorem State.putPly_enclaves (s : State) (p : Ply) : (s.putPly p).enclaves = s.enclaves := rfl
@[simp] theorem State.putPly_epoch (s : State) (p : Ply) : (s.putPly p).epoch = s.epoch := rfl
@[simp] theorem State.putPly_creations (s : State) (p : Ply) : (s.putPly p).creations = s.creations := rfl
@[simp] theorem State.putPly_lastEnc (s : State) (p : Ply) : (s.putPly p).lastEnc = s.lastEnc := rfl
@[simp] theorem State.putPly_log (s : State) (p : Ply) : (s.putPly p).log = s.log := rfl
@[simp] theorem State.putPly_corrected (s : State) (p : Ply) : (s.putPly p).corrected = s.corrected := rfl
@[simp] theorem State.putPly_ops (s : State) (p : Ply) : (s.putPly p).ops = s.ops := rfl
@[simp] theorem State.putPly_skeins (s : State) (p : Ply) : (s.putPly p).skeins = s.skeins := rfl
@[simp] theorem State.putPly_pairs (s : State) (p : Ply) : (s.putPly p).pairs = s.pairs := rfl
@[simp] theorem State.putPly_launches (s : State) (p : Ply) : (s.putPly p).launches = s.launches := rfl
@[simp] theorem State.putPly_specs (s : State) (p : Ply) : (s.putPly p).specs = s.specs := rfl
@[simp] theorem State.putPly_waiters (s : State) (p : Ply) : (s.putPly p).waiters = s.waiters := rfl
@[simp] theorem State.putPly_msgs (s : State) (p : Ply) : (s.putPly p).msgs = s.msgs := rfl
@[simp] theorem State.putPly_flits (s : State) (p : Ply) : (s.putPly p).flits = s.flits := rfl
@[simp] theorem State.putPly_links (s : State) (p : Ply) : (s.putPly p).links = s.links := rfl
@[simp] theorem State.putPly_soOut (s : State) (p : Ply) : (s.putPly p).soOut = s.soOut := rfl
@[simp] theorem State.putPly_soNext (s : State) (p : Ply) : (s.putPly p).soNext = s.soNext := rfl
@[simp] theorem State.putPly_seen (s : State) (p : Ply) : (s.putPly p).seen = s.seen := rfl
@[simp] theorem State.putPly_probes (s : State) (p : Ply) : (s.putPly p).probes = s.probes := rfl
@[simp] theorem State.putPly_l2 (s : State) (p : Ply) : (s.putPly p).l2 = s.l2 := rfl
@[simp] theorem State.putPly_nets (s : State) (p : Ply) : (s.putPly p).nets = s.nets := rfl
@[simp] theorem State.putPly_rxs (s : State) (p : Ply) : (s.putPly p).rxs = s.rxs := rfl
@[simp] theorem State.putPly_netServes (s : State) (p : Ply) : (s.putPly p).netServes = s.netServes := rfl
@[simp] theorem State.putPly_recs (s : State) (p : Ply) : (s.putPly p).recs = s.recs := rfl
@[simp] theorem State.putPly_partitions (s : State) (p : Ply) : (s.putPly p).partitions = s.partitions := rfl
@[simp] theorem State.putPly_budgets (s : State) (p : Ply) : (s.putPly p).budgets = s.budgets := rfl
@[simp] theorem State.putPly_retired (s : State) (p : Ply) : (s.putPly p).retired = s.retired := rfl
@[simp] theorem State.putPly_channels (s : State) (p : Ply) : (s.putPly p).channels = s.channels := rfl
@[simp] theorem State.putPly_pkgs (s : State) (p : Ply) : (s.putPly p).pkgs = s.pkgs := rfl
@[simp] theorem State.putPly_outs (s : State) (p : Ply) : (s.putPly p).outs = s.outs := rfl

@[simp] theorem State.modPly_clock (s : State) (h : Nat) (f : Ply → Ply) : (s.modPly h f).clock = s.clock := rfl
@[simp] theorem State.modPly_agenda (s : State) (h : Nat) (f : Ply → Ply) : (s.modPly h f).agenda = s.agenda := rfl
@[simp] theorem State.modPly_cur (s : State) (h : Nat) (f : Ply → Ply) : (s.modPly h f).cur = s.cur := rfl
@[simp] theorem State.modPly_freeCtr (s : State) (h : Nat) (f : Ply → Ply) : (s.modPly h f).freeCtr = s.freeCtr := rfl
@[simp] theorem State.modPly_nextId (s : State) (h : Nat) (f : Ply → Ply) : (s.modPly h f).nextId = s.nextId := rfl
@[simp] theorem State.modPly_plies (s : State) (h : Nat) (f : Ply → Ply) : (s.modPly h f).plies = updateWhere (·.handle == h) f s.plies := rfl
@[simp] theorem State.modPly_cores (s : State) (h : Nat) (f : Ply → Ply) : (s.modPly h f).cores = s.cores := rfl
@[simp] theorem State.modPly_mem (s : State) (h : Nat) (f : Ply → Ply) : (s.modPly h f).mem = s.mem := rfl
@[simp] theorem State.modPly_codes (s : State) (h : Nat) (f : Ply → Ply) : (s.modPly h f).codes = s.codes := rfl
@[simp] theorem State.modPly_tagFail (s : State) (h : Nat) (f : Ply → Ply) : (s.modPly h f).tagFail = s.tagFail := rfl
@[simp] theorem State.modPly_owners (s : State) (h : Nat) (f : Ply → Ply) : (s.modPly h f).owners = s.owners := rfl
@[simp] theorem State.modPly_roots (s : State) (h : Nat) (f : Ply → Ply) : (s.modPly h f).roots = s.roots := rfl
@[simp] theorem State.modPly_ranges (s : State) (h : Nat) (f : Ply → Ply) : (s.modPly h f).ranges = s.ranges := rfl
@[simp] theorem State.modPly_frameCaches (s : State) (h : Nat) (f : Ply → Ply) : (s.modPly h f).frameCaches = s.frameCaches := rfl
@[simp] theorem State.modPly_promos (s : State) (h : Nat) (f : Ply → Ply) : (s.modPly h f).promos = s.promos := rfl
@[simp] theorem State.modPly_enclaves (s : State) (h : Nat) (f : Ply → Ply) : (s.modPly h f).enclaves = s.enclaves := rfl
@[simp] theorem State.modPly_epoch (s : State) (h : Nat) (f : Ply → Ply) : (s.modPly h f).epoch = s.epoch := rfl
@[simp] theorem State.modPly_creations (s : State) (h : Nat) (f : Ply → Ply) : (s.modPly h f).creations = s.creations := rfl
@[simp] theorem State.modPly_lastEnc (s : State) (h : Nat) (f : Ply → Ply) : (s.modPly h f).lastEnc = s.lastEnc := rfl
@[simp] theorem State.modPly_log (s : State) (h : Nat) (f : Ply → Ply) : (s.modPly h f).log = s.log := rfl
@[simp] theorem State.modPly_corrected (s : State) (h : Nat) (f : Ply → Ply) : (s.modPly h f).corrected = s.corrected := rfl
@[simp] theorem State.modPly_ops (s : State) (h : Nat) (f : Ply → Ply) : (s.modPly h f).ops = s.ops := rfl
@[simp] theorem State.modPly_skeins (s : State) (h : Nat) (f : Ply → Ply) : (s.modPly h f).skeins = s.skeins := rfl
@[simp] theorem State.modPly_pairs (s : State) (h : Nat) (f : Ply → Ply) : (s.modPly h f).pairs = s.pairs := rfl
@[simp] theorem State.modPly_launches (s : State) (h : Nat) (f : Ply → Ply) : (s.modPly h f).launches = s.launches := rfl
@[simp] theorem State.modPly_specs (s : State) (h : Nat) (f : Ply → Ply) : (s.modPly h f).specs = s.specs := rfl
@[simp] theorem State.modPly_waiters (s : State) (h : Nat) (f : Ply → Ply) : (s.modPly h f).waiters = s.waiters := rfl
@[simp] theorem State.modPly_msgs (s : State) (h : Nat) (f : Ply → Ply) : (s.modPly h f).msgs = s.msgs := rfl
@[simp] theorem State.modPly_flits (s : State) (h : Nat) (f : Ply → Ply) : (s.modPly h f).flits = s.flits := rfl
@[simp] theorem State.modPly_links (s : State) (h : Nat) (f : Ply → Ply) : (s.modPly h f).links = s.links := rfl
@[simp] theorem State.modPly_soOut (s : State) (h : Nat) (f : Ply → Ply) : (s.modPly h f).soOut = s.soOut := rfl
@[simp] theorem State.modPly_soNext (s : State) (h : Nat) (f : Ply → Ply) : (s.modPly h f).soNext = s.soNext := rfl
@[simp] theorem State.modPly_seen (s : State) (h : Nat) (f : Ply → Ply) : (s.modPly h f).seen = s.seen := rfl
@[simp] theorem State.modPly_probes (s : State) (h : Nat) (f : Ply → Ply) : (s.modPly h f).probes = s.probes := rfl
@[simp] theorem State.modPly_l2 (s : State) (h : Nat) (f : Ply → Ply) : (s.modPly h f).l2 = s.l2 := rfl
@[simp] theorem State.modPly_nets (s : State) (h : Nat) (f : Ply → Ply) : (s.modPly h f).nets = s.nets := rfl
@[simp] theorem State.modPly_rxs (s : State) (h : Nat) (f : Ply → Ply) : (s.modPly h f).rxs = s.rxs := rfl
@[simp] theorem State.modPly_netServes (s : State) (h : Nat) (f : Ply → Ply) : (s.modPly h f).netServes = s.netServes := rfl
@[simp] theorem State.modPly_recs (s : State) (h : Nat) (f : Ply → Ply) : (s.modPly h f).recs = s.recs := rfl
@[simp] theorem State.modPly_partitions (s : State) (h : Nat) (f : Ply → Ply) : (s.modPly h f).partitions = s.partitions := rfl
@[simp] theorem State.modPly_budgets (s : State) (h : Nat) (f : Ply → Ply) : (s.modPly h f).budgets = s.budgets := rfl
@[simp] theorem State.modPly_retired (s : State) (h : Nat) (f : Ply → Ply) : (s.modPly h f).retired = s.retired := rfl
@[simp] theorem State.modPly_channels (s : State) (h : Nat) (f : Ply → Ply) : (s.modPly h f).channels = s.channels := rfl
@[simp] theorem State.modPly_pkgs (s : State) (h : Nat) (f : Ply → Ply) : (s.modPly h f).pkgs = s.pkgs := rfl
@[simp] theorem State.modPly_outs (s : State) (h : Nat) (f : Ply → Ply) : (s.modPly h f).outs = s.outs := rfl

@[simp] theorem State.putCore_clock (s : State) (c : Core) : (s.putCore c).clock = s.clock := rfl
@[simp] theorem State.putCore_agenda (s : State) (c : Core) : (s.putCore c).agenda = s.agenda := rfl
@[simp] theorem State.putCore_cur (s : State) (c : Core) : (s.putCore c).cur = s.cur := rfl
@[simp] theorem State.putCore_freeCtr (s : State) (c : Core) : (s.putCore c).freeCtr = s.freeCtr := rfl
@[simp] theorem State.putCore_nextId (s : State) (c : Core) : (s.putCore c).nextId = s.nextId := rfl
@[simp] theorem State.putCore_plies (s : State) (c : Core) : (s.putCore c).plies = s.plies := rfl
@[simp] theorem State.putCore_mem (s : State) (c : Core) : (s.putCore c).mem = s.mem := rfl
@[simp] theorem State.putCore_codes (s : State) (c : Core) : (s.putCore c).codes = s.codes := rfl
@[simp] theorem State.putCore_tagFail (s : State) (c : Core) : (s.putCore c).tagFail = s.tagFail := rfl
@[simp] theorem State.putCore_owners (s : State) (c : Core) : (s.putCore c).owners = s.owners := rfl
@[simp] theorem State.putCore_roots (s : State) (c : Core) : (s.putCore c).roots = s.roots := rfl
@[simp] theorem State.putCore_ranges (s : State) (c : Core) : (s.putCore c).ranges = s.ranges := rfl
@[simp] theorem State.putCore_frameCaches (s : State) (c : Core) : (s.putCore c).frameCaches = s.frameCaches := rfl
@[simp] theorem State.putCore_promos (s : State) (c : Core) : (s.putCore c).promos = s.promos := rfl
@[simp] theorem State.putCore_enclaves (s : State) (c : Core) : (s.putCore c).enclaves = s.enclaves := rfl
@[simp] theorem State.putCore_epoch (s : State) (c : Core) : (s.putCore c).epoch = s.epoch := rfl
@[simp] theorem State.putCore_creations (s : State) (c : Core) : (s.putCore c).creations = s.creations := rfl
@[simp] theorem State.putCore_lastEnc (s : State) (c : Core) : (s.putCore c).lastEnc = s.lastEnc := rfl
@[simp] theorem State.putCore_log (s : State) (c : Core) : (s.putCore c).log = s.log := rfl
@[simp] theorem State.putCore_corrected (s : State) (c : Core) : (s.putCore c).corrected = s.corrected := rfl
@[simp] theorem State.putCore_ops (s : State) (c : Core) : (s.putCore c).ops = s.ops := rfl
@[simp] theorem State.putCore_skeins (s : State) (c : Core) : (s.putCore c).skeins = s.skeins := rfl
@[simp] theorem State.putCore_pairs (s : State) (c : Core) : (s.putCore c).pairs = s.pairs := rfl
@[simp] theorem State.putCore_launches (s : State) (c : Core) : (s.putCore c).launches = s.launches := rfl
@[simp] theorem State.putCore_specs (s : State) (c : Core) : (s.putCore c).specs = s.specs := rfl
@[simp] theorem State.putCore_waiters (s : State) (c : Core) : (s.putCore c).waiters = s.waiters := rfl
@[simp] theorem State.putCore_msgs (s : State) (c : Core) : (s.putCore c).msgs = s.msgs := rfl
@[simp] theorem State.putCore_flits (s : State) (c : Core) : (s.putCore c).flits = s.flits := rfl
@[simp] theorem State.putCore_links (s : State) (c : Core) : (s.putCore c).links = s.links := rfl
@[simp] theorem State.putCore_soOut (s : State) (c : Core) : (s.putCore c).soOut = s.soOut := rfl
@[simp] theorem State.putCore_soNext (s : State) (c : Core) : (s.putCore c).soNext = s.soNext := rfl
@[simp] theorem State.putCore_seen (s : State) (c : Core) : (s.putCore c).seen = s.seen := rfl
@[simp] theorem State.putCore_probes (s : State) (c : Core) : (s.putCore c).probes = s.probes := rfl
@[simp] theorem State.putCore_l2 (s : State) (c : Core) : (s.putCore c).l2 = s.l2 := rfl
@[simp] theorem State.putCore_nets (s : State) (c : Core) : (s.putCore c).nets = s.nets := rfl
@[simp] theorem State.putCore_rxs (s : State) (c : Core) : (s.putCore c).rxs = s.rxs := rfl
@[simp] theorem State.putCore_netServes (s : State) (c : Core) : (s.putCore c).netServes = s.netServes := rfl
@[simp] theorem State.putCore_recs (s : State) (c : Core) : (s.putCore c).recs = s.recs := rfl
@[simp] theorem State.putCore_partitions (s : State) (c : Core) : (s.putCore c).partitions = s.partitions := rfl
@[simp] theorem State.putCore_budgets (s : State) (c : Core) : (s.putCore c).budgets = s.budgets := rfl
@[simp] theorem State.putCore_retired (s : State) (c : Core) : (s.putCore c).retired = s.retired := rfl
@[simp] theorem State.putCore_channels (s : State) (c : Core) : (s.putCore c).channels = s.channels := rfl
@[simp] theorem State.putCore_pkgs (s : State) (c : Core) : (s.putCore c).pkgs = s.pkgs := rfl
@[simp] theorem State.putCore_outs (s : State) (c : Core) : (s.putCore c).outs = s.outs := rfl

@[simp] theorem State.putCarve_clock (s : State) (h : Nat) (c : Carve) : (s.putCarve h c).clock = s.clock := rfl
@[simp] theorem State.putCarve_agenda (s : State) (h : Nat) (c : Carve) : (s.putCarve h c).agenda = s.agenda := rfl
@[simp] theorem State.putCarve_cur (s : State) (h : Nat) (c : Carve) : (s.putCarve h c).cur = s.cur := rfl
@[simp] theorem State.putCarve_freeCtr (s : State) (h : Nat) (c : Carve) : (s.putCarve h c).freeCtr = s.freeCtr := rfl
@[simp] theorem State.putCarve_nextId (s : State) (h : Nat) (c : Carve) : (s.putCarve h c).nextId = s.nextId := rfl
@[simp] theorem State.putCarve_plies (s : State) (h : Nat) (c : Carve) : (s.putCarve h c).plies = s.plies := rfl
@[simp] theorem State.putCarve_cores (s : State) (h : Nat) (c : Carve) : (s.putCarve h c).cores = s.cores := rfl
@[simp] theorem State.putCarve_mem (s : State) (h : Nat) (c : Carve) : (s.putCarve h c).mem = s.mem := rfl
@[simp] theorem State.putCarve_codes (s : State) (h : Nat) (c : Carve) : (s.putCarve h c).codes = s.codes := rfl
@[simp] theorem State.putCarve_tagFail (s : State) (h : Nat) (c : Carve) : (s.putCarve h c).tagFail = s.tagFail := rfl
@[simp] theorem State.putCarve_owners (s : State) (h : Nat) (c : Carve) : (s.putCarve h c).owners = s.owners := rfl
@[simp] theorem State.putCarve_roots (s : State) (h : Nat) (c : Carve) : (s.putCarve h c).roots = s.roots := rfl
@[simp] theorem State.putCarve_ranges (s : State) (h : Nat) (c : Carve) : (s.putCarve h c).ranges = s.ranges := rfl
@[simp] theorem State.putCarve_frameCaches (s : State) (h : Nat) (c : Carve) : (s.putCarve h c).frameCaches = s.frameCaches := rfl
@[simp] theorem State.putCarve_promos (s : State) (h : Nat) (c : Carve) : (s.putCarve h c).promos = s.promos := rfl
@[simp] theorem State.putCarve_enclaves (s : State) (h : Nat) (c : Carve) : (s.putCarve h c).enclaves = s.enclaves := rfl
@[simp] theorem State.putCarve_epoch (s : State) (h : Nat) (c : Carve) : (s.putCarve h c).epoch = s.epoch := rfl
@[simp] theorem State.putCarve_creations (s : State) (h : Nat) (c : Carve) : (s.putCarve h c).creations = s.creations := rfl
@[simp] theorem State.putCarve_lastEnc (s : State) (h : Nat) (c : Carve) : (s.putCarve h c).lastEnc = s.lastEnc := rfl
@[simp] theorem State.putCarve_log (s : State) (h : Nat) (c : Carve) : (s.putCarve h c).log = s.log := rfl
@[simp] theorem State.putCarve_corrected (s : State) (h : Nat) (c : Carve) : (s.putCarve h c).corrected = s.corrected := rfl
@[simp] theorem State.putCarve_ops (s : State) (h : Nat) (c : Carve) : (s.putCarve h c).ops = s.ops := rfl
@[simp] theorem State.putCarve_skeins (s : State) (h : Nat) (c : Carve) : (s.putCarve h c).skeins = updateWhere (·.handle == h) (fun k => { k with carve := c }) s.skeins := rfl
@[simp] theorem State.putCarve_pairs (s : State) (h : Nat) (c : Carve) : (s.putCarve h c).pairs = s.pairs := rfl
@[simp] theorem State.putCarve_launches (s : State) (h : Nat) (c : Carve) : (s.putCarve h c).launches = s.launches := rfl
@[simp] theorem State.putCarve_specs (s : State) (h : Nat) (c : Carve) : (s.putCarve h c).specs = s.specs := rfl
@[simp] theorem State.putCarve_waiters (s : State) (h : Nat) (c : Carve) : (s.putCarve h c).waiters = s.waiters := rfl
@[simp] theorem State.putCarve_msgs (s : State) (h : Nat) (c : Carve) : (s.putCarve h c).msgs = s.msgs := rfl
@[simp] theorem State.putCarve_flits (s : State) (h : Nat) (c : Carve) : (s.putCarve h c).flits = s.flits := rfl
@[simp] theorem State.putCarve_links (s : State) (h : Nat) (c : Carve) : (s.putCarve h c).links = s.links := rfl
@[simp] theorem State.putCarve_soOut (s : State) (h : Nat) (c : Carve) : (s.putCarve h c).soOut = s.soOut := rfl
@[simp] theorem State.putCarve_soNext (s : State) (h : Nat) (c : Carve) : (s.putCarve h c).soNext = s.soNext := rfl
@[simp] theorem State.putCarve_seen (s : State) (h : Nat) (c : Carve) : (s.putCarve h c).seen = s.seen := rfl
@[simp] theorem State.putCarve_probes (s : State) (h : Nat) (c : Carve) : (s.putCarve h c).probes = s.probes := rfl
@[simp] theorem State.putCarve_l2 (s : State) (h : Nat) (c : Carve) : (s.putCarve h c).l2 = s.l2 := rfl
@[simp] theorem State.putCarve_nets (s : State) (h : Nat) (c : Carve) : (s.putCarve h c).nets = s.nets := rfl
@[simp] theorem State.putCarve_rxs (s : State) (h : Nat) (c : Carve) : (s.putCarve h c).rxs = s.rxs := rfl
@[simp] theorem State.putCarve_netServes (s : State) (h : Nat) (c : Carve) : (s.putCarve h c).netServes = s.netServes := rfl
@[simp] theorem State.putCarve_recs (s : State) (h : Nat) (c : Carve) : (s.putCarve h c).recs = s.recs := rfl
@[simp] theorem State.putCarve_partitions (s : State) (h : Nat) (c : Carve) : (s.putCarve h c).partitions = s.partitions := rfl
@[simp] theorem State.putCarve_budgets (s : State) (h : Nat) (c : Carve) : (s.putCarve h c).budgets = s.budgets := rfl
@[simp] theorem State.putCarve_retired (s : State) (h : Nat) (c : Carve) : (s.putCarve h c).retired = s.retired := rfl
@[simp] theorem State.putCarve_channels (s : State) (h : Nat) (c : Carve) : (s.putCarve h c).channels = s.channels := rfl
@[simp] theorem State.putCarve_pkgs (s : State) (h : Nat) (c : Carve) : (s.putCarve h c).pkgs = s.pkgs := rfl
@[simp] theorem State.putCarve_outs (s : State) (h : Nat) (c : Carve) : (s.putCarve h c).outs = s.outs := rfl

@[simp] theorem State.putPair_clock (s : State) (q : Pair) : (s.putPair q).clock = s.clock := rfl
@[simp] theorem State.putPair_agenda (s : State) (q : Pair) : (s.putPair q).agenda = s.agenda := rfl
@[simp] theorem State.putPair_cur (s : State) (q : Pair) : (s.putPair q).cur = s.cur := rfl
@[simp] theorem State.putPair_freeCtr (s : State) (q : Pair) : (s.putPair q).freeCtr = s.freeCtr := rfl
@[simp] theorem State.putPair_nextId (s : State) (q : Pair) : (s.putPair q).nextId = s.nextId := rfl
@[simp] theorem State.putPair_plies (s : State) (q : Pair) : (s.putPair q).plies = s.plies := rfl
@[simp] theorem State.putPair_cores (s : State) (q : Pair) : (s.putPair q).cores = s.cores := rfl
@[simp] theorem State.putPair_mem (s : State) (q : Pair) : (s.putPair q).mem = s.mem := rfl
@[simp] theorem State.putPair_codes (s : State) (q : Pair) : (s.putPair q).codes = s.codes := rfl
@[simp] theorem State.putPair_tagFail (s : State) (q : Pair) : (s.putPair q).tagFail = s.tagFail := rfl
@[simp] theorem State.putPair_owners (s : State) (q : Pair) : (s.putPair q).owners = s.owners := rfl
@[simp] theorem State.putPair_roots (s : State) (q : Pair) : (s.putPair q).roots = s.roots := rfl
@[simp] theorem State.putPair_ranges (s : State) (q : Pair) : (s.putPair q).ranges = s.ranges := rfl
@[simp] theorem State.putPair_frameCaches (s : State) (q : Pair) : (s.putPair q).frameCaches = s.frameCaches := rfl
@[simp] theorem State.putPair_promos (s : State) (q : Pair) : (s.putPair q).promos = s.promos := rfl
@[simp] theorem State.putPair_enclaves (s : State) (q : Pair) : (s.putPair q).enclaves = s.enclaves := rfl
@[simp] theorem State.putPair_epoch (s : State) (q : Pair) : (s.putPair q).epoch = s.epoch := rfl
@[simp] theorem State.putPair_creations (s : State) (q : Pair) : (s.putPair q).creations = s.creations := rfl
@[simp] theorem State.putPair_lastEnc (s : State) (q : Pair) : (s.putPair q).lastEnc = s.lastEnc := rfl
@[simp] theorem State.putPair_log (s : State) (q : Pair) : (s.putPair q).log = s.log := rfl
@[simp] theorem State.putPair_corrected (s : State) (q : Pair) : (s.putPair q).corrected = s.corrected := rfl
@[simp] theorem State.putPair_ops (s : State) (q : Pair) : (s.putPair q).ops = s.ops := rfl
@[simp] theorem State.putPair_skeins (s : State) (q : Pair) : (s.putPair q).skeins = s.skeins := rfl
@[simp] theorem State.putPair_pairs (s : State) (q : Pair) : (s.putPair q).pairs = updateWhere (·.core == q.core) (fun _ => q) s.pairs := rfl
@[simp] theorem State.putPair_launches (s : State) (q : Pair) : (s.putPair q).launches = s.launches := rfl
@[simp] theorem State.putPair_specs (s : State) (q : Pair) : (s.putPair q).specs = s.specs := rfl
@[simp] theorem State.putPair_waiters (s : State) (q : Pair) : (s.putPair q).waiters = s.waiters := rfl
@[simp] theorem State.putPair_msgs (s : State) (q : Pair) : (s.putPair q).msgs = s.msgs := rfl
@[simp] theorem State.putPair_flits (s : State) (q : Pair) : (s.putPair q).flits = s.flits := rfl
@[simp] theorem State.putPair_links (s : State) (q : Pair) : (s.putPair q).links = s.links := rfl
@[simp] theorem State.putPair_soOut (s : State) (q : Pair) : (s.putPair q).soOut = s.soOut := rfl
@[simp] theorem State.putPair_soNext (s : State) (q : Pair) : (s.putPair q).soNext = s.soNext := rfl
@[simp] theorem State.putPair_seen (s : State) (q : Pair) : (s.putPair q).seen = s.seen := rfl
@[simp] theorem State.putPair_probes (s : State) (q : Pair) : (s.putPair q).probes = s.probes := rfl
@[simp] theorem State.putPair_l2 (s : State) (q : Pair) : (s.putPair q).l2 = s.l2 := rfl
@[simp] theorem State.putPair_nets (s : State) (q : Pair) : (s.putPair q).nets = s.nets := rfl
@[simp] theorem State.putPair_rxs (s : State) (q : Pair) : (s.putPair q).rxs = s.rxs := rfl
@[simp] theorem State.putPair_netServes (s : State) (q : Pair) : (s.putPair q).netServes = s.netServes := rfl
@[simp] theorem State.putPair_recs (s : State) (q : Pair) : (s.putPair q).recs = s.recs := rfl
@[simp] theorem State.putPair_partitions (s : State) (q : Pair) : (s.putPair q).partitions = s.partitions := rfl
@[simp] theorem State.putPair_budgets (s : State) (q : Pair) : (s.putPair q).budgets = s.budgets := rfl
@[simp] theorem State.putPair_retired (s : State) (q : Pair) : (s.putPair q).retired = s.retired := rfl
@[simp] theorem State.putPair_channels (s : State) (q : Pair) : (s.putPair q).channels = s.channels := rfl
@[simp] theorem State.putPair_pkgs (s : State) (q : Pair) : (s.putPair q).pkgs = s.pkgs := rfl
@[simp] theorem State.putPair_outs (s : State) (q : Pair) : (s.putPair q).outs = s.outs := rfl

@[simp] theorem State.putOp_clock (s : State) (o : Op) : (s.putOp o).clock = s.clock := rfl
@[simp] theorem State.putOp_agenda (s : State) (o : Op) : (s.putOp o).agenda = s.agenda := rfl
@[simp] theorem State.putOp_cur (s : State) (o : Op) : (s.putOp o).cur = s.cur := rfl
@[simp] theorem State.putOp_freeCtr (s : State) (o : Op) : (s.putOp o).freeCtr = s.freeCtr := rfl
@[simp] theorem State.putOp_nextId (s : State) (o : Op) : (s.putOp o).nextId = s.nextId := rfl
@[simp] theorem State.putOp_plies (s : State) (o : Op) : (s.putOp o).plies = s.plies := rfl
@[simp] theorem State.putOp_cores (s : State) (o : Op) : (s.putOp o).cores = s.cores := rfl
@[simp] theorem State.putOp_mem (s : State) (o : Op) : (s.putOp o).mem = s.mem := rfl
@[simp] theorem State.putOp_codes (s : State) (o : Op) : (s.putOp o).codes = s.codes := rfl
@[simp] theorem State.putOp_tagFail (s : State) (o : Op) : (s.putOp o).tagFail = s.tagFail := rfl
@[simp] theorem State.putOp_owners (s : State) (o : Op) : (s.putOp o).owners = s.owners := rfl
@[simp] theorem State.putOp_roots (s : State) (o : Op) : (s.putOp o).roots = s.roots := rfl
@[simp] theorem State.putOp_ranges (s : State) (o : Op) : (s.putOp o).ranges = s.ranges := rfl
@[simp] theorem State.putOp_frameCaches (s : State) (o : Op) : (s.putOp o).frameCaches = s.frameCaches := rfl
@[simp] theorem State.putOp_promos (s : State) (o : Op) : (s.putOp o).promos = s.promos := rfl
@[simp] theorem State.putOp_enclaves (s : State) (o : Op) : (s.putOp o).enclaves = s.enclaves := rfl
@[simp] theorem State.putOp_epoch (s : State) (o : Op) : (s.putOp o).epoch = s.epoch := rfl
@[simp] theorem State.putOp_creations (s : State) (o : Op) : (s.putOp o).creations = s.creations := rfl
@[simp] theorem State.putOp_lastEnc (s : State) (o : Op) : (s.putOp o).lastEnc = s.lastEnc := rfl
@[simp] theorem State.putOp_log (s : State) (o : Op) : (s.putOp o).log = s.log := rfl
@[simp] theorem State.putOp_corrected (s : State) (o : Op) : (s.putOp o).corrected = s.corrected := rfl
@[simp] theorem State.putOp_ops (s : State) (o : Op) : (s.putOp o).ops = updateWhere (·.id == o.id) (fun _ => o) s.ops := rfl
@[simp] theorem State.putOp_skeins (s : State) (o : Op) : (s.putOp o).skeins = s.skeins := rfl
@[simp] theorem State.putOp_pairs (s : State) (o : Op) : (s.putOp o).pairs = s.pairs := rfl
@[simp] theorem State.putOp_launches (s : State) (o : Op) : (s.putOp o).launches = s.launches := rfl
@[simp] theorem State.putOp_specs (s : State) (o : Op) : (s.putOp o).specs = s.specs := rfl
@[simp] theorem State.putOp_waiters (s : State) (o : Op) : (s.putOp o).waiters = s.waiters := rfl
@[simp] theorem State.putOp_msgs (s : State) (o : Op) : (s.putOp o).msgs = s.msgs := rfl
@[simp] theorem State.putOp_flits (s : State) (o : Op) : (s.putOp o).flits = s.flits := rfl
@[simp] theorem State.putOp_links (s : State) (o : Op) : (s.putOp o).links = s.links := rfl
@[simp] theorem State.putOp_soOut (s : State) (o : Op) : (s.putOp o).soOut = s.soOut := rfl
@[simp] theorem State.putOp_soNext (s : State) (o : Op) : (s.putOp o).soNext = s.soNext := rfl
@[simp] theorem State.putOp_seen (s : State) (o : Op) : (s.putOp o).seen = s.seen := rfl
@[simp] theorem State.putOp_probes (s : State) (o : Op) : (s.putOp o).probes = s.probes := rfl
@[simp] theorem State.putOp_l2 (s : State) (o : Op) : (s.putOp o).l2 = s.l2 := rfl
@[simp] theorem State.putOp_nets (s : State) (o : Op) : (s.putOp o).nets = s.nets := rfl
@[simp] theorem State.putOp_rxs (s : State) (o : Op) : (s.putOp o).rxs = s.rxs := rfl
@[simp] theorem State.putOp_netServes (s : State) (o : Op) : (s.putOp o).netServes = s.netServes := rfl
@[simp] theorem State.putOp_recs (s : State) (o : Op) : (s.putOp o).recs = s.recs := rfl
@[simp] theorem State.putOp_partitions (s : State) (o : Op) : (s.putOp o).partitions = s.partitions := rfl
@[simp] theorem State.putOp_budgets (s : State) (o : Op) : (s.putOp o).budgets = s.budgets := rfl
@[simp] theorem State.putOp_retired (s : State) (o : Op) : (s.putOp o).retired = s.retired := rfl
@[simp] theorem State.putOp_channels (s : State) (o : Op) : (s.putOp o).channels = s.channels := rfl
@[simp] theorem State.putOp_pkgs (s : State) (o : Op) : (s.putOp o).pkgs = s.pkgs := rfl
@[simp] theorem State.putOp_outs (s : State) (o : Op) : (s.putOp o).outs = s.outs := rfl

@[simp] theorem State.dropOp_clock (s : State) (n : Nat) : (s.dropOp n).clock = s.clock := rfl
@[simp] theorem State.dropOp_agenda (s : State) (n : Nat) : (s.dropOp n).agenda = s.agenda := rfl
@[simp] theorem State.dropOp_cur (s : State) (n : Nat) : (s.dropOp n).cur = s.cur := rfl
@[simp] theorem State.dropOp_freeCtr (s : State) (n : Nat) : (s.dropOp n).freeCtr = s.freeCtr := rfl
@[simp] theorem State.dropOp_nextId (s : State) (n : Nat) : (s.dropOp n).nextId = s.nextId := rfl
@[simp] theorem State.dropOp_plies (s : State) (n : Nat) : (s.dropOp n).plies = s.plies := rfl
@[simp] theorem State.dropOp_cores (s : State) (n : Nat) : (s.dropOp n).cores = s.cores := rfl
@[simp] theorem State.dropOp_mem (s : State) (n : Nat) : (s.dropOp n).mem = s.mem := rfl
@[simp] theorem State.dropOp_codes (s : State) (n : Nat) : (s.dropOp n).codes = s.codes := rfl
@[simp] theorem State.dropOp_tagFail (s : State) (n : Nat) : (s.dropOp n).tagFail = s.tagFail := rfl
@[simp] theorem State.dropOp_owners (s : State) (n : Nat) : (s.dropOp n).owners = s.owners := rfl
@[simp] theorem State.dropOp_roots (s : State) (n : Nat) : (s.dropOp n).roots = s.roots := rfl
@[simp] theorem State.dropOp_ranges (s : State) (n : Nat) : (s.dropOp n).ranges = s.ranges := rfl
@[simp] theorem State.dropOp_frameCaches (s : State) (n : Nat) : (s.dropOp n).frameCaches = s.frameCaches := rfl
@[simp] theorem State.dropOp_promos (s : State) (n : Nat) : (s.dropOp n).promos = s.promos := rfl
@[simp] theorem State.dropOp_enclaves (s : State) (n : Nat) : (s.dropOp n).enclaves = s.enclaves := rfl
@[simp] theorem State.dropOp_epoch (s : State) (n : Nat) : (s.dropOp n).epoch = s.epoch := rfl
@[simp] theorem State.dropOp_creations (s : State) (n : Nat) : (s.dropOp n).creations = s.creations := rfl
@[simp] theorem State.dropOp_lastEnc (s : State) (n : Nat) : (s.dropOp n).lastEnc = s.lastEnc := rfl
@[simp] theorem State.dropOp_log (s : State) (n : Nat) : (s.dropOp n).log = s.log := rfl
@[simp] theorem State.dropOp_corrected (s : State) (n : Nat) : (s.dropOp n).corrected = s.corrected := rfl
@[simp] theorem State.dropOp_ops (s : State) (n : Nat) : (s.dropOp n).ops = s.ops.filter (·.id != n) := rfl
@[simp] theorem State.dropOp_skeins (s : State) (n : Nat) : (s.dropOp n).skeins = s.skeins := rfl
@[simp] theorem State.dropOp_pairs (s : State) (n : Nat) : (s.dropOp n).pairs = s.pairs := rfl
@[simp] theorem State.dropOp_launches (s : State) (n : Nat) : (s.dropOp n).launches = s.launches := rfl
@[simp] theorem State.dropOp_specs (s : State) (n : Nat) : (s.dropOp n).specs = s.specs := rfl
@[simp] theorem State.dropOp_waiters (s : State) (n : Nat) : (s.dropOp n).waiters = s.waiters := rfl
@[simp] theorem State.dropOp_msgs (s : State) (n : Nat) : (s.dropOp n).msgs = s.msgs := rfl
@[simp] theorem State.dropOp_flits (s : State) (n : Nat) : (s.dropOp n).flits = s.flits := rfl
@[simp] theorem State.dropOp_links (s : State) (n : Nat) : (s.dropOp n).links = s.links := rfl
@[simp] theorem State.dropOp_soOut (s : State) (n : Nat) : (s.dropOp n).soOut = s.soOut := rfl
@[simp] theorem State.dropOp_soNext (s : State) (n : Nat) : (s.dropOp n).soNext = s.soNext := rfl
@[simp] theorem State.dropOp_seen (s : State) (n : Nat) : (s.dropOp n).seen = s.seen := rfl
@[simp] theorem State.dropOp_probes (s : State) (n : Nat) : (s.dropOp n).probes = s.probes := rfl
@[simp] theorem State.dropOp_l2 (s : State) (n : Nat) : (s.dropOp n).l2 = s.l2 := rfl
@[simp] theorem State.dropOp_nets (s : State) (n : Nat) : (s.dropOp n).nets = s.nets := rfl
@[simp] theorem State.dropOp_rxs (s : State) (n : Nat) : (s.dropOp n).rxs = s.rxs := rfl
@[simp] theorem State.dropOp_netServes (s : State) (n : Nat) : (s.dropOp n).netServes = s.netServes := rfl
@[simp] theorem State.dropOp_recs (s : State) (n : Nat) : (s.dropOp n).recs = s.recs := rfl
@[simp] theorem State.dropOp_partitions (s : State) (n : Nat) : (s.dropOp n).partitions = s.partitions := rfl
@[simp] theorem State.dropOp_budgets (s : State) (n : Nat) : (s.dropOp n).budgets = s.budgets := rfl
@[simp] theorem State.dropOp_retired (s : State) (n : Nat) : (s.dropOp n).retired = s.retired := rfl
@[simp] theorem State.dropOp_channels (s : State) (n : Nat) : (s.dropOp n).channels = s.channels := rfl
@[simp] theorem State.dropOp_pkgs (s : State) (n : Nat) : (s.dropOp n).pkgs = s.pkgs := rfl
@[simp] theorem State.dropOp_outs (s : State) (n : Nat) : (s.dropOp n).outs = s.outs := rfl

@[simp] theorem State.putEnclave_clock (s : State) (e : Enclave) : (s.putEnclave e).clock = s.clock := rfl
@[simp] theorem State.putEnclave_agenda (s : State) (e : Enclave) : (s.putEnclave e).agenda = s.agenda := rfl
@[simp] theorem State.putEnclave_cur (s : State) (e : Enclave) : (s.putEnclave e).cur = s.cur := rfl
@[simp] theorem State.putEnclave_freeCtr (s : State) (e : Enclave) : (s.putEnclave e).freeCtr = s.freeCtr := rfl
@[simp] theorem State.putEnclave_nextId (s : State) (e : Enclave) : (s.putEnclave e).nextId = s.nextId := rfl
@[simp] theorem State.putEnclave_plies (s : State) (e : Enclave) : (s.putEnclave e).plies = s.plies := rfl
@[simp] theorem State.putEnclave_cores (s : State) (e : Enclave) : (s.putEnclave e).cores = s.cores := rfl
@[simp] theorem State.putEnclave_mem (s : State) (e : Enclave) : (s.putEnclave e).mem = s.mem := rfl
@[simp] theorem State.putEnclave_codes (s : State) (e : Enclave) : (s.putEnclave e).codes = s.codes := rfl
@[simp] theorem State.putEnclave_tagFail (s : State) (e : Enclave) : (s.putEnclave e).tagFail = s.tagFail := rfl
@[simp] theorem State.putEnclave_owners (s : State) (e : Enclave) : (s.putEnclave e).owners = s.owners := rfl
@[simp] theorem State.putEnclave_roots (s : State) (e : Enclave) : (s.putEnclave e).roots = s.roots := rfl
@[simp] theorem State.putEnclave_ranges (s : State) (e : Enclave) : (s.putEnclave e).ranges = s.ranges := rfl
@[simp] theorem State.putEnclave_frameCaches (s : State) (e : Enclave) : (s.putEnclave e).frameCaches = s.frameCaches := rfl
@[simp] theorem State.putEnclave_promos (s : State) (e : Enclave) : (s.putEnclave e).promos = s.promos := rfl
@[simp] theorem State.putEnclave_enclaves (s : State) (e : Enclave) : (s.putEnclave e).enclaves = updateWhere (·.enc == e.enc) (fun _ => e) s.enclaves := rfl
@[simp] theorem State.putEnclave_epoch (s : State) (e : Enclave) : (s.putEnclave e).epoch = s.epoch := rfl
@[simp] theorem State.putEnclave_creations (s : State) (e : Enclave) : (s.putEnclave e).creations = s.creations := rfl
@[simp] theorem State.putEnclave_lastEnc (s : State) (e : Enclave) : (s.putEnclave e).lastEnc = s.lastEnc := rfl
@[simp] theorem State.putEnclave_log (s : State) (e : Enclave) : (s.putEnclave e).log = s.log := rfl
@[simp] theorem State.putEnclave_corrected (s : State) (e : Enclave) : (s.putEnclave e).corrected = s.corrected := rfl
@[simp] theorem State.putEnclave_ops (s : State) (e : Enclave) : (s.putEnclave e).ops = s.ops := rfl
@[simp] theorem State.putEnclave_skeins (s : State) (e : Enclave) : (s.putEnclave e).skeins = s.skeins := rfl
@[simp] theorem State.putEnclave_pairs (s : State) (e : Enclave) : (s.putEnclave e).pairs = s.pairs := rfl
@[simp] theorem State.putEnclave_launches (s : State) (e : Enclave) : (s.putEnclave e).launches = s.launches := rfl
@[simp] theorem State.putEnclave_specs (s : State) (e : Enclave) : (s.putEnclave e).specs = s.specs := rfl
@[simp] theorem State.putEnclave_waiters (s : State) (e : Enclave) : (s.putEnclave e).waiters = s.waiters := rfl
@[simp] theorem State.putEnclave_msgs (s : State) (e : Enclave) : (s.putEnclave e).msgs = s.msgs := rfl
@[simp] theorem State.putEnclave_flits (s : State) (e : Enclave) : (s.putEnclave e).flits = s.flits := rfl
@[simp] theorem State.putEnclave_links (s : State) (e : Enclave) : (s.putEnclave e).links = s.links := rfl
@[simp] theorem State.putEnclave_soOut (s : State) (e : Enclave) : (s.putEnclave e).soOut = s.soOut := rfl
@[simp] theorem State.putEnclave_soNext (s : State) (e : Enclave) : (s.putEnclave e).soNext = s.soNext := rfl
@[simp] theorem State.putEnclave_seen (s : State) (e : Enclave) : (s.putEnclave e).seen = s.seen := rfl
@[simp] theorem State.putEnclave_probes (s : State) (e : Enclave) : (s.putEnclave e).probes = s.probes := rfl
@[simp] theorem State.putEnclave_l2 (s : State) (e : Enclave) : (s.putEnclave e).l2 = s.l2 := rfl
@[simp] theorem State.putEnclave_nets (s : State) (e : Enclave) : (s.putEnclave e).nets = s.nets := rfl
@[simp] theorem State.putEnclave_rxs (s : State) (e : Enclave) : (s.putEnclave e).rxs = s.rxs := rfl
@[simp] theorem State.putEnclave_netServes (s : State) (e : Enclave) : (s.putEnclave e).netServes = s.netServes := rfl
@[simp] theorem State.putEnclave_recs (s : State) (e : Enclave) : (s.putEnclave e).recs = s.recs := rfl
@[simp] theorem State.putEnclave_partitions (s : State) (e : Enclave) : (s.putEnclave e).partitions = s.partitions := rfl
@[simp] theorem State.putEnclave_budgets (s : State) (e : Enclave) : (s.putEnclave e).budgets = s.budgets := rfl
@[simp] theorem State.putEnclave_retired (s : State) (e : Enclave) : (s.putEnclave e).retired = s.retired := rfl
@[simp] theorem State.putEnclave_channels (s : State) (e : Enclave) : (s.putEnclave e).channels = s.channels := rfl
@[simp] theorem State.putEnclave_pkgs (s : State) (e : Enclave) : (s.putEnclave e).pkgs = s.pkgs := rfl
@[simp] theorem State.putEnclave_outs (s : State) (e : Enclave) : (s.putEnclave e).outs = s.outs := rfl

@[simp] theorem State.setOwner_clock (s : State) (a f : Nat) (o : Owner) : (s.setOwner a f o).clock = s.clock := rfl
@[simp] theorem State.setOwner_agenda (s : State) (a f : Nat) (o : Owner) : (s.setOwner a f o).agenda = s.agenda := rfl
@[simp] theorem State.setOwner_cur (s : State) (a f : Nat) (o : Owner) : (s.setOwner a f o).cur = s.cur := rfl
@[simp] theorem State.setOwner_freeCtr (s : State) (a f : Nat) (o : Owner) : (s.setOwner a f o).freeCtr = s.freeCtr := rfl
@[simp] theorem State.setOwner_nextId (s : State) (a f : Nat) (o : Owner) : (s.setOwner a f o).nextId = s.nextId := rfl
@[simp] theorem State.setOwner_plies (s : State) (a f : Nat) (o : Owner) : (s.setOwner a f o).plies = s.plies := rfl
@[simp] theorem State.setOwner_cores (s : State) (a f : Nat) (o : Owner) : (s.setOwner a f o).cores = s.cores := rfl
@[simp] theorem State.setOwner_mem (s : State) (a f : Nat) (o : Owner) : (s.setOwner a f o).mem = s.mem := rfl
@[simp] theorem State.setOwner_codes (s : State) (a f : Nat) (o : Owner) : (s.setOwner a f o).codes = s.codes := rfl
@[simp] theorem State.setOwner_tagFail (s : State) (a f : Nat) (o : Owner) : (s.setOwner a f o).tagFail = s.tagFail := rfl
@[simp] theorem State.setOwner_owners (s : State) (a f : Nat) (o : Owner) : (s.setOwner a f o).owners = SMap.set Owner.free s.owners (frameKey a f) o := rfl
@[simp] theorem State.setOwner_roots (s : State) (a f : Nat) (o : Owner) : (s.setOwner a f o).roots = s.roots := rfl
@[simp] theorem State.setOwner_ranges (s : State) (a f : Nat) (o : Owner) : (s.setOwner a f o).ranges = s.ranges := rfl
@[simp] theorem State.setOwner_frameCaches (s : State) (a f : Nat) (o : Owner) : (s.setOwner a f o).frameCaches = s.frameCaches := rfl
@[simp] theorem State.setOwner_promos (s : State) (a f : Nat) (o : Owner) : (s.setOwner a f o).promos = s.promos := rfl
@[simp] theorem State.setOwner_enclaves (s : State) (a f : Nat) (o : Owner) : (s.setOwner a f o).enclaves = s.enclaves := rfl
@[simp] theorem State.setOwner_epoch (s : State) (a f : Nat) (o : Owner) : (s.setOwner a f o).epoch = s.epoch := rfl
@[simp] theorem State.setOwner_creations (s : State) (a f : Nat) (o : Owner) : (s.setOwner a f o).creations = s.creations := rfl
@[simp] theorem State.setOwner_lastEnc (s : State) (a f : Nat) (o : Owner) : (s.setOwner a f o).lastEnc = s.lastEnc := rfl
@[simp] theorem State.setOwner_log (s : State) (a f : Nat) (o : Owner) : (s.setOwner a f o).log = s.log := rfl
@[simp] theorem State.setOwner_corrected (s : State) (a f : Nat) (o : Owner) : (s.setOwner a f o).corrected = s.corrected := rfl
@[simp] theorem State.setOwner_ops (s : State) (a f : Nat) (o : Owner) : (s.setOwner a f o).ops = s.ops := rfl
@[simp] theorem State.setOwner_skeins (s : State) (a f : Nat) (o : Owner) : (s.setOwner a f o).skeins = s.skeins := rfl
@[simp] theorem State.setOwner_pairs (s : State) (a f : Nat) (o : Owner) : (s.setOwner a f o).pairs = s.pairs := rfl
@[simp] theorem State.setOwner_launches (s : State) (a f : Nat) (o : Owner) : (s.setOwner a f o).launches = s.launches := rfl
@[simp] theorem State.setOwner_specs (s : State) (a f : Nat) (o : Owner) : (s.setOwner a f o).specs = s.specs := rfl
@[simp] theorem State.setOwner_waiters (s : State) (a f : Nat) (o : Owner) : (s.setOwner a f o).waiters = s.waiters := rfl
@[simp] theorem State.setOwner_msgs (s : State) (a f : Nat) (o : Owner) : (s.setOwner a f o).msgs = s.msgs := rfl
@[simp] theorem State.setOwner_flits (s : State) (a f : Nat) (o : Owner) : (s.setOwner a f o).flits = s.flits := rfl
@[simp] theorem State.setOwner_links (s : State) (a f : Nat) (o : Owner) : (s.setOwner a f o).links = s.links := rfl
@[simp] theorem State.setOwner_soOut (s : State) (a f : Nat) (o : Owner) : (s.setOwner a f o).soOut = s.soOut := rfl
@[simp] theorem State.setOwner_soNext (s : State) (a f : Nat) (o : Owner) : (s.setOwner a f o).soNext = s.soNext := rfl
@[simp] theorem State.setOwner_seen (s : State) (a f : Nat) (o : Owner) : (s.setOwner a f o).seen = s.seen := rfl
@[simp] theorem State.setOwner_probes (s : State) (a f : Nat) (o : Owner) : (s.setOwner a f o).probes = s.probes := rfl
@[simp] theorem State.setOwner_l2 (s : State) (a f : Nat) (o : Owner) : (s.setOwner a f o).l2 = s.l2 := rfl
@[simp] theorem State.setOwner_nets (s : State) (a f : Nat) (o : Owner) : (s.setOwner a f o).nets = s.nets := rfl
@[simp] theorem State.setOwner_rxs (s : State) (a f : Nat) (o : Owner) : (s.setOwner a f o).rxs = s.rxs := rfl
@[simp] theorem State.setOwner_netServes (s : State) (a f : Nat) (o : Owner) : (s.setOwner a f o).netServes = s.netServes := rfl
@[simp] theorem State.setOwner_recs (s : State) (a f : Nat) (o : Owner) : (s.setOwner a f o).recs = s.recs := rfl
@[simp] theorem State.setOwner_partitions (s : State) (a f : Nat) (o : Owner) : (s.setOwner a f o).partitions = s.partitions := rfl
@[simp] theorem State.setOwner_budgets (s : State) (a f : Nat) (o : Owner) : (s.setOwner a f o).budgets = s.budgets := rfl
@[simp] theorem State.setOwner_retired (s : State) (a f : Nat) (o : Owner) : (s.setOwner a f o).retired = s.retired := rfl
@[simp] theorem State.setOwner_channels (s : State) (a f : Nat) (o : Owner) : (s.setOwner a f o).channels = s.channels := rfl
@[simp] theorem State.setOwner_pkgs (s : State) (a f : Nat) (o : Owner) : (s.setOwner a f o).pkgs = s.pkgs := rfl
@[simp] theorem State.setOwner_outs (s : State) (a f : Nat) (o : Owner) : (s.setOwner a f o).outs = s.outs := rfl

@[simp] theorem State.putGranule_clock (s : State) (a ia : Nat) (g : Granule) : (s.putGranule a ia g).clock = s.clock := rfl
@[simp] theorem State.putGranule_agenda (s : State) (a ia : Nat) (g : Granule) : (s.putGranule a ia g).agenda = s.agenda := rfl
@[simp] theorem State.putGranule_cur (s : State) (a ia : Nat) (g : Granule) : (s.putGranule a ia g).cur = s.cur := rfl
@[simp] theorem State.putGranule_freeCtr (s : State) (a ia : Nat) (g : Granule) : (s.putGranule a ia g).freeCtr = s.freeCtr := rfl
@[simp] theorem State.putGranule_nextId (s : State) (a ia : Nat) (g : Granule) : (s.putGranule a ia g).nextId = s.nextId := rfl
@[simp] theorem State.putGranule_plies (s : State) (a ia : Nat) (g : Granule) : (s.putGranule a ia g).plies = s.plies := rfl
@[simp] theorem State.putGranule_cores (s : State) (a ia : Nat) (g : Granule) : (s.putGranule a ia g).cores = s.cores := rfl
@[simp] theorem State.putGranule_mem (s : State) (a ia : Nat) (g : Granule) : (s.putGranule a ia g).mem = memWrite s.mem (a / 8 * 8) (bytesLE 8 g.data.toNat) := rfl
@[simp] theorem State.putGranule_tagFail (s : State) (a ia : Nat) (g : Granule) : (s.putGranule a ia g).tagFail = s.tagFail := rfl
@[simp] theorem State.putGranule_owners (s : State) (a ia : Nat) (g : Granule) : (s.putGranule a ia g).owners = s.owners := rfl
@[simp] theorem State.putGranule_roots (s : State) (a ia : Nat) (g : Granule) : (s.putGranule a ia g).roots = s.roots := rfl
@[simp] theorem State.putGranule_ranges (s : State) (a ia : Nat) (g : Granule) : (s.putGranule a ia g).ranges = s.ranges := rfl
@[simp] theorem State.putGranule_frameCaches (s : State) (a ia : Nat) (g : Granule) : (s.putGranule a ia g).frameCaches = s.frameCaches := rfl
@[simp] theorem State.putGranule_promos (s : State) (a ia : Nat) (g : Granule) : (s.putGranule a ia g).promos = s.promos := rfl
@[simp] theorem State.putGranule_enclaves (s : State) (a ia : Nat) (g : Granule) : (s.putGranule a ia g).enclaves = s.enclaves := rfl
@[simp] theorem State.putGranule_epoch (s : State) (a ia : Nat) (g : Granule) : (s.putGranule a ia g).epoch = s.epoch := rfl
@[simp] theorem State.putGranule_creations (s : State) (a ia : Nat) (g : Granule) : (s.putGranule a ia g).creations = s.creations := rfl
@[simp] theorem State.putGranule_lastEnc (s : State) (a ia : Nat) (g : Granule) : (s.putGranule a ia g).lastEnc = s.lastEnc := rfl
@[simp] theorem State.putGranule_log (s : State) (a ia : Nat) (g : Granule) : (s.putGranule a ia g).log = s.log := rfl
@[simp] theorem State.putGranule_corrected (s : State) (a ia : Nat) (g : Granule) : (s.putGranule a ia g).corrected = s.corrected := rfl
@[simp] theorem State.putGranule_ops (s : State) (a ia : Nat) (g : Granule) : (s.putGranule a ia g).ops = s.ops := rfl
@[simp] theorem State.putGranule_skeins (s : State) (a ia : Nat) (g : Granule) : (s.putGranule a ia g).skeins = s.skeins := rfl
@[simp] theorem State.putGranule_pairs (s : State) (a ia : Nat) (g : Granule) : (s.putGranule a ia g).pairs = s.pairs := rfl
@[simp] theorem State.putGranule_launches (s : State) (a ia : Nat) (g : Granule) : (s.putGranule a ia g).launches = s.launches := rfl
@[simp] theorem State.putGranule_specs (s : State) (a ia : Nat) (g : Granule) : (s.putGranule a ia g).specs = s.specs := rfl
@[simp] theorem State.putGranule_waiters (s : State) (a ia : Nat) (g : Granule) : (s.putGranule a ia g).waiters = s.waiters := rfl
@[simp] theorem State.putGranule_msgs (s : State) (a ia : Nat) (g : Granule) : (s.putGranule a ia g).msgs = s.msgs := rfl
@[simp] theorem State.putGranule_flits (s : State) (a ia : Nat) (g : Granule) : (s.putGranule a ia g).flits = s.flits := rfl
@[simp] theorem State.putGranule_links (s : State) (a ia : Nat) (g : Granule) : (s.putGranule a ia g).links = s.links := rfl
@[simp] theorem State.putGranule_soOut (s : State) (a ia : Nat) (g : Granule) : (s.putGranule a ia g).soOut = s.soOut := rfl
@[simp] theorem State.putGranule_soNext (s : State) (a ia : Nat) (g : Granule) : (s.putGranule a ia g).soNext = s.soNext := rfl
@[simp] theorem State.putGranule_seen (s : State) (a ia : Nat) (g : Granule) : (s.putGranule a ia g).seen = s.seen := rfl
@[simp] theorem State.putGranule_probes (s : State) (a ia : Nat) (g : Granule) : (s.putGranule a ia g).probes = s.probes := rfl
@[simp] theorem State.putGranule_l2 (s : State) (a ia : Nat) (g : Granule) : (s.putGranule a ia g).l2 = s.l2 := rfl
@[simp] theorem State.putGranule_nets (s : State) (a ia : Nat) (g : Granule) : (s.putGranule a ia g).nets = s.nets := rfl
@[simp] theorem State.putGranule_rxs (s : State) (a ia : Nat) (g : Granule) : (s.putGranule a ia g).rxs = s.rxs := rfl
@[simp] theorem State.putGranule_netServes (s : State) (a ia : Nat) (g : Granule) : (s.putGranule a ia g).netServes = s.netServes := rfl
@[simp] theorem State.putGranule_recs (s : State) (a ia : Nat) (g : Granule) : (s.putGranule a ia g).recs = s.recs := rfl
@[simp] theorem State.putGranule_partitions (s : State) (a ia : Nat) (g : Granule) : (s.putGranule a ia g).partitions = s.partitions := rfl
@[simp] theorem State.putGranule_budgets (s : State) (a ia : Nat) (g : Granule) : (s.putGranule a ia g).budgets = s.budgets := rfl
@[simp] theorem State.putGranule_retired (s : State) (a ia : Nat) (g : Granule) : (s.putGranule a ia g).retired = s.retired := rfl
@[simp] theorem State.putGranule_channels (s : State) (a ia : Nat) (g : Granule) : (s.putGranule a ia g).channels = s.channels := rfl
@[simp] theorem State.putGranule_pkgs (s : State) (a ia : Nat) (g : Granule) : (s.putGranule a ia g).pkgs = s.pkgs := rfl
@[simp] theorem State.putGranule_outs (s : State) (a ia : Nat) (g : Granule) : (s.putGranule a ia g).outs = s.outs := rfl

@[simp] theorem State.putPkg_clock (s : State) (p : Pkg) : (s.putPkg p).clock = s.clock := rfl
@[simp] theorem State.putPkg_agenda (s : State) (p : Pkg) : (s.putPkg p).agenda = s.agenda := rfl
@[simp] theorem State.putPkg_cur (s : State) (p : Pkg) : (s.putPkg p).cur = s.cur := rfl
@[simp] theorem State.putPkg_freeCtr (s : State) (p : Pkg) : (s.putPkg p).freeCtr = s.freeCtr := rfl
@[simp] theorem State.putPkg_nextId (s : State) (p : Pkg) : (s.putPkg p).nextId = s.nextId := rfl
@[simp] theorem State.putPkg_plies (s : State) (p : Pkg) : (s.putPkg p).plies = s.plies := rfl
@[simp] theorem State.putPkg_cores (s : State) (p : Pkg) : (s.putPkg p).cores = s.cores := rfl
@[simp] theorem State.putPkg_mem (s : State) (p : Pkg) : (s.putPkg p).mem = s.mem := rfl
@[simp] theorem State.putPkg_codes (s : State) (p : Pkg) : (s.putPkg p).codes = s.codes := rfl
@[simp] theorem State.putPkg_tagFail (s : State) (p : Pkg) : (s.putPkg p).tagFail = s.tagFail := rfl
@[simp] theorem State.putPkg_owners (s : State) (p : Pkg) : (s.putPkg p).owners = s.owners := rfl
@[simp] theorem State.putPkg_roots (s : State) (p : Pkg) : (s.putPkg p).roots = s.roots := rfl
@[simp] theorem State.putPkg_ranges (s : State) (p : Pkg) : (s.putPkg p).ranges = s.ranges := rfl
@[simp] theorem State.putPkg_frameCaches (s : State) (p : Pkg) : (s.putPkg p).frameCaches = s.frameCaches := rfl
@[simp] theorem State.putPkg_promos (s : State) (p : Pkg) : (s.putPkg p).promos = s.promos := rfl
@[simp] theorem State.putPkg_enclaves (s : State) (p : Pkg) : (s.putPkg p).enclaves = s.enclaves := rfl
@[simp] theorem State.putPkg_epoch (s : State) (p : Pkg) : (s.putPkg p).epoch = s.epoch := rfl
@[simp] theorem State.putPkg_creations (s : State) (p : Pkg) : (s.putPkg p).creations = s.creations := rfl
@[simp] theorem State.putPkg_lastEnc (s : State) (p : Pkg) : (s.putPkg p).lastEnc = s.lastEnc := rfl
@[simp] theorem State.putPkg_log (s : State) (p : Pkg) : (s.putPkg p).log = s.log := rfl
@[simp] theorem State.putPkg_corrected (s : State) (p : Pkg) : (s.putPkg p).corrected = s.corrected := rfl
@[simp] theorem State.putPkg_ops (s : State) (p : Pkg) : (s.putPkg p).ops = s.ops := rfl
@[simp] theorem State.putPkg_skeins (s : State) (p : Pkg) : (s.putPkg p).skeins = s.skeins := rfl
@[simp] theorem State.putPkg_pairs (s : State) (p : Pkg) : (s.putPkg p).pairs = s.pairs := rfl
@[simp] theorem State.putPkg_launches (s : State) (p : Pkg) : (s.putPkg p).launches = s.launches := rfl
@[simp] theorem State.putPkg_specs (s : State) (p : Pkg) : (s.putPkg p).specs = s.specs := rfl
@[simp] theorem State.putPkg_waiters (s : State) (p : Pkg) : (s.putPkg p).waiters = s.waiters := rfl
@[simp] theorem State.putPkg_msgs (s : State) (p : Pkg) : (s.putPkg p).msgs = s.msgs := rfl
@[simp] theorem State.putPkg_flits (s : State) (p : Pkg) : (s.putPkg p).flits = s.flits := rfl
@[simp] theorem State.putPkg_links (s : State) (p : Pkg) : (s.putPkg p).links = s.links := rfl
@[simp] theorem State.putPkg_soOut (s : State) (p : Pkg) : (s.putPkg p).soOut = s.soOut := rfl
@[simp] theorem State.putPkg_soNext (s : State) (p : Pkg) : (s.putPkg p).soNext = s.soNext := rfl
@[simp] theorem State.putPkg_seen (s : State) (p : Pkg) : (s.putPkg p).seen = s.seen := rfl
@[simp] theorem State.putPkg_probes (s : State) (p : Pkg) : (s.putPkg p).probes = s.probes := rfl
@[simp] theorem State.putPkg_l2 (s : State) (p : Pkg) : (s.putPkg p).l2 = s.l2 := rfl
@[simp] theorem State.putPkg_nets (s : State) (p : Pkg) : (s.putPkg p).nets = s.nets := rfl
@[simp] theorem State.putPkg_rxs (s : State) (p : Pkg) : (s.putPkg p).rxs = s.rxs := rfl
@[simp] theorem State.putPkg_netServes (s : State) (p : Pkg) : (s.putPkg p).netServes = s.netServes := rfl
@[simp] theorem State.putPkg_recs (s : State) (p : Pkg) : (s.putPkg p).recs = s.recs := rfl
@[simp] theorem State.putPkg_partitions (s : State) (p : Pkg) : (s.putPkg p).partitions = s.partitions := rfl
@[simp] theorem State.putPkg_budgets (s : State) (p : Pkg) : (s.putPkg p).budgets = s.budgets := rfl
@[simp] theorem State.putPkg_retired (s : State) (p : Pkg) : (s.putPkg p).retired = s.retired := rfl
@[simp] theorem State.putPkg_channels (s : State) (p : Pkg) : (s.putPkg p).channels = s.channels := rfl
@[simp] theorem State.putPkg_outs (s : State) (p : Pkg) : (s.putPkg p).outs = s.outs := rfl

@[simp] theorem State.putNet_clock (s : State) (r : NetReq) : (s.putNet r).clock = s.clock := rfl
@[simp] theorem State.putNet_agenda (s : State) (r : NetReq) : (s.putNet r).agenda = s.agenda := rfl
@[simp] theorem State.putNet_cur (s : State) (r : NetReq) : (s.putNet r).cur = s.cur := rfl
@[simp] theorem State.putNet_freeCtr (s : State) (r : NetReq) : (s.putNet r).freeCtr = s.freeCtr := rfl
@[simp] theorem State.putNet_nextId (s : State) (r : NetReq) : (s.putNet r).nextId = s.nextId := rfl
@[simp] theorem State.putNet_plies (s : State) (r : NetReq) : (s.putNet r).plies = s.plies := rfl
@[simp] theorem State.putNet_cores (s : State) (r : NetReq) : (s.putNet r).cores = s.cores := rfl
@[simp] theorem State.putNet_mem (s : State) (r : NetReq) : (s.putNet r).mem = s.mem := rfl
@[simp] theorem State.putNet_codes (s : State) (r : NetReq) : (s.putNet r).codes = s.codes := rfl
@[simp] theorem State.putNet_tagFail (s : State) (r : NetReq) : (s.putNet r).tagFail = s.tagFail := rfl
@[simp] theorem State.putNet_owners (s : State) (r : NetReq) : (s.putNet r).owners = s.owners := rfl
@[simp] theorem State.putNet_roots (s : State) (r : NetReq) : (s.putNet r).roots = s.roots := rfl
@[simp] theorem State.putNet_ranges (s : State) (r : NetReq) : (s.putNet r).ranges = s.ranges := rfl
@[simp] theorem State.putNet_frameCaches (s : State) (r : NetReq) : (s.putNet r).frameCaches = s.frameCaches := rfl
@[simp] theorem State.putNet_promos (s : State) (r : NetReq) : (s.putNet r).promos = s.promos := rfl
@[simp] theorem State.putNet_enclaves (s : State) (r : NetReq) : (s.putNet r).enclaves = s.enclaves := rfl
@[simp] theorem State.putNet_epoch (s : State) (r : NetReq) : (s.putNet r).epoch = s.epoch := rfl
@[simp] theorem State.putNet_creations (s : State) (r : NetReq) : (s.putNet r).creations = s.creations := rfl
@[simp] theorem State.putNet_lastEnc (s : State) (r : NetReq) : (s.putNet r).lastEnc = s.lastEnc := rfl
@[simp] theorem State.putNet_log (s : State) (r : NetReq) : (s.putNet r).log = s.log := rfl
@[simp] theorem State.putNet_corrected (s : State) (r : NetReq) : (s.putNet r).corrected = s.corrected := rfl
@[simp] theorem State.putNet_ops (s : State) (r : NetReq) : (s.putNet r).ops = s.ops := rfl
@[simp] theorem State.putNet_skeins (s : State) (r : NetReq) : (s.putNet r).skeins = s.skeins := rfl
@[simp] theorem State.putNet_pairs (s : State) (r : NetReq) : (s.putNet r).pairs = s.pairs := rfl
@[simp] theorem State.putNet_launches (s : State) (r : NetReq) : (s.putNet r).launches = s.launches := rfl
@[simp] theorem State.putNet_specs (s : State) (r : NetReq) : (s.putNet r).specs = s.specs := rfl
@[simp] theorem State.putNet_waiters (s : State) (r : NetReq) : (s.putNet r).waiters = s.waiters := rfl
@[simp] theorem State.putNet_msgs (s : State) (r : NetReq) : (s.putNet r).msgs = s.msgs := rfl
@[simp] theorem State.putNet_flits (s : State) (r : NetReq) : (s.putNet r).flits = s.flits := rfl
@[simp] theorem State.putNet_links (s : State) (r : NetReq) : (s.putNet r).links = s.links := rfl
@[simp] theorem State.putNet_soOut (s : State) (r : NetReq) : (s.putNet r).soOut = s.soOut := rfl
@[simp] theorem State.putNet_soNext (s : State) (r : NetReq) : (s.putNet r).soNext = s.soNext := rfl
@[simp] theorem State.putNet_seen (s : State) (r : NetReq) : (s.putNet r).seen = s.seen := rfl
@[simp] theorem State.putNet_probes (s : State) (r : NetReq) : (s.putNet r).probes = s.probes := rfl
@[simp] theorem State.putNet_l2 (s : State) (r : NetReq) : (s.putNet r).l2 = s.l2 := rfl
@[simp] theorem State.putNet_rxs (s : State) (r : NetReq) : (s.putNet r).rxs = s.rxs := rfl
@[simp] theorem State.putNet_netServes (s : State) (r : NetReq) : (s.putNet r).netServes = s.netServes := rfl
@[simp] theorem State.putNet_recs (s : State) (r : NetReq) : (s.putNet r).recs = s.recs := rfl
@[simp] theorem State.putNet_partitions (s : State) (r : NetReq) : (s.putNet r).partitions = s.partitions := rfl
@[simp] theorem State.putNet_budgets (s : State) (r : NetReq) : (s.putNet r).budgets = s.budgets := rfl
@[simp] theorem State.putNet_retired (s : State) (r : NetReq) : (s.putNet r).retired = s.retired := rfl
@[simp] theorem State.putNet_channels (s : State) (r : NetReq) : (s.putNet r).channels = s.channels := rfl
@[simp] theorem State.putNet_pkgs (s : State) (r : NetReq) : (s.putNet r).pkgs = s.pkgs := rfl
@[simp] theorem State.putNet_outs (s : State) (r : NetReq) : (s.putNet r).outs = s.outs := rfl

@[simp] theorem State.emit_clock (s : State) (o : Out) : (s.emit o).clock = s.clock := rfl
@[simp] theorem State.emit_agenda (s : State) (o : Out) : (s.emit o).agenda = s.agenda := rfl
@[simp] theorem State.emit_cur (s : State) (o : Out) : (s.emit o).cur = s.cur := rfl
@[simp] theorem State.emit_freeCtr (s : State) (o : Out) : (s.emit o).freeCtr = s.freeCtr := rfl
@[simp] theorem State.emit_nextId (s : State) (o : Out) : (s.emit o).nextId = s.nextId := rfl
@[simp] theorem State.emit_plies (s : State) (o : Out) : (s.emit o).plies = s.plies := rfl
@[simp] theorem State.emit_cores (s : State) (o : Out) : (s.emit o).cores = s.cores := rfl
@[simp] theorem State.emit_mem (s : State) (o : Out) : (s.emit o).mem = s.mem := rfl
@[simp] theorem State.emit_codes (s : State) (o : Out) : (s.emit o).codes = s.codes := rfl
@[simp] theorem State.emit_tagFail (s : State) (o : Out) : (s.emit o).tagFail = s.tagFail := rfl
@[simp] theorem State.emit_owners (s : State) (o : Out) : (s.emit o).owners = s.owners := rfl
@[simp] theorem State.emit_roots (s : State) (o : Out) : (s.emit o).roots = s.roots := rfl
@[simp] theorem State.emit_ranges (s : State) (o : Out) : (s.emit o).ranges = s.ranges := rfl
@[simp] theorem State.emit_frameCaches (s : State) (o : Out) : (s.emit o).frameCaches = s.frameCaches := rfl
@[simp] theorem State.emit_promos (s : State) (o : Out) : (s.emit o).promos = s.promos := rfl
@[simp] theorem State.emit_enclaves (s : State) (o : Out) : (s.emit o).enclaves = s.enclaves := rfl
@[simp] theorem State.emit_epoch (s : State) (o : Out) : (s.emit o).epoch = s.epoch := rfl
@[simp] theorem State.emit_creations (s : State) (o : Out) : (s.emit o).creations = s.creations := rfl
@[simp] theorem State.emit_lastEnc (s : State) (o : Out) : (s.emit o).lastEnc = s.lastEnc := rfl
@[simp] theorem State.emit_log (s : State) (o : Out) : (s.emit o).log = s.log := rfl
@[simp] theorem State.emit_corrected (s : State) (o : Out) : (s.emit o).corrected = s.corrected := rfl
@[simp] theorem State.emit_ops (s : State) (o : Out) : (s.emit o).ops = s.ops := rfl
@[simp] theorem State.emit_skeins (s : State) (o : Out) : (s.emit o).skeins = s.skeins := rfl
@[simp] theorem State.emit_pairs (s : State) (o : Out) : (s.emit o).pairs = s.pairs := rfl
@[simp] theorem State.emit_launches (s : State) (o : Out) : (s.emit o).launches = s.launches := rfl
@[simp] theorem State.emit_specs (s : State) (o : Out) : (s.emit o).specs = s.specs := rfl
@[simp] theorem State.emit_waiters (s : State) (o : Out) : (s.emit o).waiters = s.waiters := rfl
@[simp] theorem State.emit_msgs (s : State) (o : Out) : (s.emit o).msgs = s.msgs := rfl
@[simp] theorem State.emit_flits (s : State) (o : Out) : (s.emit o).flits = s.flits := rfl
@[simp] theorem State.emit_links (s : State) (o : Out) : (s.emit o).links = s.links := rfl
@[simp] theorem State.emit_soOut (s : State) (o : Out) : (s.emit o).soOut = s.soOut := rfl
@[simp] theorem State.emit_soNext (s : State) (o : Out) : (s.emit o).soNext = s.soNext := rfl
@[simp] theorem State.emit_seen (s : State) (o : Out) : (s.emit o).seen = s.seen := rfl
@[simp] theorem State.emit_probes (s : State) (o : Out) : (s.emit o).probes = s.probes := rfl
@[simp] theorem State.emit_l2 (s : State) (o : Out) : (s.emit o).l2 = s.l2 := rfl
@[simp] theorem State.emit_nets (s : State) (o : Out) : (s.emit o).nets = s.nets := rfl
@[simp] theorem State.emit_rxs (s : State) (o : Out) : (s.emit o).rxs = s.rxs := rfl
@[simp] theorem State.emit_netServes (s : State) (o : Out) : (s.emit o).netServes = s.netServes := rfl
@[simp] theorem State.emit_recs (s : State) (o : Out) : (s.emit o).recs = s.recs := rfl
@[simp] theorem State.emit_partitions (s : State) (o : Out) : (s.emit o).partitions = s.partitions := rfl
@[simp] theorem State.emit_budgets (s : State) (o : Out) : (s.emit o).budgets = s.budgets := rfl
@[simp] theorem State.emit_retired (s : State) (o : Out) : (s.emit o).retired = s.retired := rfl
@[simp] theorem State.emit_channels (s : State) (o : Out) : (s.emit o).channels = s.channels := rfl
@[simp] theorem State.emit_pkgs (s : State) (o : Out) : (s.emit o).pkgs = s.pkgs := rfl
@[simp] theorem State.emit_outs (s : State) (o : Out) : (s.emit o).outs = s.outs ++ [o] := rfl

@[simp] theorem State.logEvent_clock (s : State) (k : Nat) (l : List Nat) : (s.logEvent k l).clock = s.clock := rfl
@[simp] theorem State.logEvent_agenda (s : State) (k : Nat) (l : List Nat) : (s.logEvent k l).agenda = s.agenda := rfl
@[simp] theorem State.logEvent_cur (s : State) (k : Nat) (l : List Nat) : (s.logEvent k l).cur = s.cur := rfl
@[simp] theorem State.logEvent_freeCtr (s : State) (k : Nat) (l : List Nat) : (s.logEvent k l).freeCtr = s.freeCtr := rfl
@[simp] theorem State.logEvent_nextId (s : State) (k : Nat) (l : List Nat) : (s.logEvent k l).nextId = s.nextId := rfl
@[simp] theorem State.logEvent_plies (s : State) (k : Nat) (l : List Nat) : (s.logEvent k l).plies = s.plies := rfl
@[simp] theorem State.logEvent_cores (s : State) (k : Nat) (l : List Nat) : (s.logEvent k l).cores = s.cores := rfl
@[simp] theorem State.logEvent_mem (s : State) (k : Nat) (l : List Nat) : (s.logEvent k l).mem = s.mem := rfl
@[simp] theorem State.logEvent_codes (s : State) (k : Nat) (l : List Nat) : (s.logEvent k l).codes = s.codes := rfl
@[simp] theorem State.logEvent_tagFail (s : State) (k : Nat) (l : List Nat) : (s.logEvent k l).tagFail = s.tagFail := rfl
@[simp] theorem State.logEvent_owners (s : State) (k : Nat) (l : List Nat) : (s.logEvent k l).owners = s.owners := rfl
@[simp] theorem State.logEvent_roots (s : State) (k : Nat) (l : List Nat) : (s.logEvent k l).roots = s.roots := rfl
@[simp] theorem State.logEvent_ranges (s : State) (k : Nat) (l : List Nat) : (s.logEvent k l).ranges = s.ranges := rfl
@[simp] theorem State.logEvent_frameCaches (s : State) (k : Nat) (l : List Nat) : (s.logEvent k l).frameCaches = s.frameCaches := rfl
@[simp] theorem State.logEvent_promos (s : State) (k : Nat) (l : List Nat) : (s.logEvent k l).promos = s.promos := rfl
@[simp] theorem State.logEvent_enclaves (s : State) (k : Nat) (l : List Nat) : (s.logEvent k l).enclaves = s.enclaves := rfl
@[simp] theorem State.logEvent_epoch (s : State) (k : Nat) (l : List Nat) : (s.logEvent k l).epoch = s.epoch := rfl
@[simp] theorem State.logEvent_creations (s : State) (k : Nat) (l : List Nat) : (s.logEvent k l).creations = s.creations := rfl
@[simp] theorem State.logEvent_lastEnc (s : State) (k : Nat) (l : List Nat) : (s.logEvent k l).lastEnc = s.lastEnc := rfl
@[simp] theorem State.logEvent_log (s : State) (k : Nat) (l : List Nat) : (s.logEvent k l).log = s.log ++ [⟨k, l⟩] := rfl
@[simp] theorem State.logEvent_corrected (s : State) (k : Nat) (l : List Nat) : (s.logEvent k l).corrected = s.corrected := rfl
@[simp] theorem State.logEvent_ops (s : State) (k : Nat) (l : List Nat) : (s.logEvent k l).ops = s.ops := rfl
@[simp] theorem State.logEvent_skeins (s : State) (k : Nat) (l : List Nat) : (s.logEvent k l).skeins = s.skeins := rfl
@[simp] theorem State.logEvent_pairs (s : State) (k : Nat) (l : List Nat) : (s.logEvent k l).pairs = s.pairs := rfl
@[simp] theorem State.logEvent_launches (s : State) (k : Nat) (l : List Nat) : (s.logEvent k l).launches = s.launches := rfl
@[simp] theorem State.logEvent_specs (s : State) (k : Nat) (l : List Nat) : (s.logEvent k l).specs = s.specs := rfl
@[simp] theorem State.logEvent_waiters (s : State) (k : Nat) (l : List Nat) : (s.logEvent k l).waiters = s.waiters := rfl
@[simp] theorem State.logEvent_msgs (s : State) (k : Nat) (l : List Nat) : (s.logEvent k l).msgs = s.msgs := rfl
@[simp] theorem State.logEvent_flits (s : State) (k : Nat) (l : List Nat) : (s.logEvent k l).flits = s.flits := rfl
@[simp] theorem State.logEvent_links (s : State) (k : Nat) (l : List Nat) : (s.logEvent k l).links = s.links := rfl
@[simp] theorem State.logEvent_soOut (s : State) (k : Nat) (l : List Nat) : (s.logEvent k l).soOut = s.soOut := rfl
@[simp] theorem State.logEvent_soNext (s : State) (k : Nat) (l : List Nat) : (s.logEvent k l).soNext = s.soNext := rfl
@[simp] theorem State.logEvent_seen (s : State) (k : Nat) (l : List Nat) : (s.logEvent k l).seen = s.seen := rfl
@[simp] theorem State.logEvent_probes (s : State) (k : Nat) (l : List Nat) : (s.logEvent k l).probes = s.probes := rfl
@[simp] theorem State.logEvent_l2 (s : State) (k : Nat) (l : List Nat) : (s.logEvent k l).l2 = s.l2 := rfl
@[simp] theorem State.logEvent_nets (s : State) (k : Nat) (l : List Nat) : (s.logEvent k l).nets = s.nets := rfl
@[simp] theorem State.logEvent_rxs (s : State) (k : Nat) (l : List Nat) : (s.logEvent k l).rxs = s.rxs := rfl
@[simp] theorem State.logEvent_netServes (s : State) (k : Nat) (l : List Nat) : (s.logEvent k l).netServes = s.netServes := rfl
@[simp] theorem State.logEvent_recs (s : State) (k : Nat) (l : List Nat) : (s.logEvent k l).recs = s.recs := rfl
@[simp] theorem State.logEvent_partitions (s : State) (k : Nat) (l : List Nat) : (s.logEvent k l).partitions = s.partitions := rfl
@[simp] theorem State.logEvent_budgets (s : State) (k : Nat) (l : List Nat) : (s.logEvent k l).budgets = s.budgets := rfl
@[simp] theorem State.logEvent_retired (s : State) (k : Nat) (l : List Nat) : (s.logEvent k l).retired = s.retired := rfl
@[simp] theorem State.logEvent_channels (s : State) (k : Nat) (l : List Nat) : (s.logEvent k l).channels = s.channels := rfl
@[simp] theorem State.logEvent_pkgs (s : State) (k : Nat) (l : List Nat) : (s.logEvent k l).pkgs = s.pkgs := rfl
@[simp] theorem State.logEvent_outs (s : State) (k : Nat) (l : List Nat) : (s.logEvent k l).outs = s.outs := rfl

@[simp] theorem State.launchFlit_clock (s : State) (m : Msg) (u : Nat) (h : Bool × Nat) : (s.launchFlit m u h).clock = s.clock := rfl
@[simp] theorem State.launchFlit_agenda (s : State) (m : Msg) (u : Nat) (h : Bool × Nat) : (s.launchFlit m u h).agenda = s.agenda := rfl
@[simp] theorem State.launchFlit_cur (s : State) (m : Msg) (u : Nat) (h : Bool × Nat) : (s.launchFlit m u h).cur = s.cur := rfl
@[simp] theorem State.launchFlit_freeCtr (s : State) (m : Msg) (u : Nat) (h : Bool × Nat) : (s.launchFlit m u h).freeCtr = s.freeCtr := rfl
@[simp] theorem State.launchFlit_nextId (s : State) (m : Msg) (u : Nat) (h : Bool × Nat) : (s.launchFlit m u h).nextId = s.nextId + 2 := rfl
@[simp] theorem State.launchFlit_plies (s : State) (m : Msg) (u : Nat) (h : Bool × Nat) : (s.launchFlit m u h).plies = s.plies := rfl
@[simp] theorem State.launchFlit_cores (s : State) (m : Msg) (u : Nat) (h : Bool × Nat) : (s.launchFlit m u h).cores = s.cores := rfl
@[simp] theorem State.launchFlit_mem (s : State) (m : Msg) (u : Nat) (h : Bool × Nat) : (s.launchFlit m u h).mem = s.mem := rfl
@[simp] theorem State.launchFlit_codes (s : State) (m : Msg) (u : Nat) (h : Bool × Nat) : (s.launchFlit m u h).codes = s.codes := rfl
@[simp] theorem State.launchFlit_tagFail (s : State) (m : Msg) (u : Nat) (h : Bool × Nat) : (s.launchFlit m u h).tagFail = s.tagFail := rfl
@[simp] theorem State.launchFlit_owners (s : State) (m : Msg) (u : Nat) (h : Bool × Nat) : (s.launchFlit m u h).owners = s.owners := rfl
@[simp] theorem State.launchFlit_roots (s : State) (m : Msg) (u : Nat) (h : Bool × Nat) : (s.launchFlit m u h).roots = s.roots := rfl
@[simp] theorem State.launchFlit_ranges (s : State) (m : Msg) (u : Nat) (h : Bool × Nat) : (s.launchFlit m u h).ranges = s.ranges := rfl
@[simp] theorem State.launchFlit_frameCaches (s : State) (m : Msg) (u : Nat) (h : Bool × Nat) : (s.launchFlit m u h).frameCaches = s.frameCaches := rfl
@[simp] theorem State.launchFlit_promos (s : State) (m : Msg) (u : Nat) (h : Bool × Nat) : (s.launchFlit m u h).promos = s.promos := rfl
@[simp] theorem State.launchFlit_enclaves (s : State) (m : Msg) (u : Nat) (h : Bool × Nat) : (s.launchFlit m u h).enclaves = s.enclaves := rfl
@[simp] theorem State.launchFlit_epoch (s : State) (m : Msg) (u : Nat) (h : Bool × Nat) : (s.launchFlit m u h).epoch = s.epoch := rfl
@[simp] theorem State.launchFlit_creations (s : State) (m : Msg) (u : Nat) (h : Bool × Nat) : (s.launchFlit m u h).creations = s.creations := rfl
@[simp] theorem State.launchFlit_lastEnc (s : State) (m : Msg) (u : Nat) (h : Bool × Nat) : (s.launchFlit m u h).lastEnc = s.lastEnc := rfl
@[simp] theorem State.launchFlit_log (s : State) (m : Msg) (u : Nat) (h : Bool × Nat) : (s.launchFlit m u h).log = s.log := rfl
@[simp] theorem State.launchFlit_corrected (s : State) (m : Msg) (u : Nat) (h : Bool × Nat) : (s.launchFlit m u h).corrected = s.corrected := rfl
@[simp] theorem State.launchFlit_ops (s : State) (m : Msg) (u : Nat) (h : Bool × Nat) : (s.launchFlit m u h).ops = s.ops := rfl
@[simp] theorem State.launchFlit_skeins (s : State) (m : Msg) (u : Nat) (h : Bool × Nat) : (s.launchFlit m u h).skeins = s.skeins := rfl
@[simp] theorem State.launchFlit_pairs (s : State) (m : Msg) (u : Nat) (h : Bool × Nat) : (s.launchFlit m u h).pairs = s.pairs := rfl
@[simp] theorem State.launchFlit_launches (s : State) (m : Msg) (u : Nat) (h : Bool × Nat) : (s.launchFlit m u h).launches = s.launches := rfl
@[simp] theorem State.launchFlit_specs (s : State) (m : Msg) (u : Nat) (h : Bool × Nat) : (s.launchFlit m u h).specs = s.specs := rfl
@[simp] theorem State.launchFlit_waiters (s : State) (m : Msg) (u : Nat) (h : Bool × Nat) : (s.launchFlit m u h).waiters = s.waiters := rfl
@[simp] theorem State.launchFlit_msgs (s : State) (m : Msg) (u : Nat) (h : Bool × Nat) : (s.launchFlit m u h).msgs = s.msgs := rfl
@[simp] theorem State.launchFlit_soOut (s : State) (m : Msg) (u : Nat) (h : Bool × Nat) : (s.launchFlit m u h).soOut = s.soOut := rfl
@[simp] theorem State.launchFlit_soNext (s : State) (m : Msg) (u : Nat) (h : Bool × Nat) : (s.launchFlit m u h).soNext = s.soNext := rfl
@[simp] theorem State.launchFlit_seen (s : State) (m : Msg) (u : Nat) (h : Bool × Nat) : (s.launchFlit m u h).seen = s.seen := rfl
@[simp] theorem State.launchFlit_probes (s : State) (m : Msg) (u : Nat) (h : Bool × Nat) : (s.launchFlit m u h).probes = s.probes := rfl
@[simp] theorem State.launchFlit_l2 (s : State) (m : Msg) (u : Nat) (h : Bool × Nat) : (s.launchFlit m u h).l2 = s.l2 := rfl
@[simp] theorem State.launchFlit_nets (s : State) (m : Msg) (u : Nat) (h : Bool × Nat) : (s.launchFlit m u h).nets = s.nets := rfl
@[simp] theorem State.launchFlit_rxs (s : State) (m : Msg) (u : Nat) (h : Bool × Nat) : (s.launchFlit m u h).rxs = s.rxs := rfl
@[simp] theorem State.launchFlit_netServes (s : State) (m : Msg) (u : Nat) (h : Bool × Nat) : (s.launchFlit m u h).netServes = s.netServes := rfl
@[simp] theorem State.launchFlit_recs (s : State) (m : Msg) (u : Nat) (h : Bool × Nat) : (s.launchFlit m u h).recs = s.recs := rfl
@[simp] theorem State.launchFlit_partitions (s : State) (m : Msg) (u : Nat) (h : Bool × Nat) : (s.launchFlit m u h).partitions = s.partitions := rfl
@[simp] theorem State.launchFlit_budgets (s : State) (m : Msg) (u : Nat) (h : Bool × Nat) : (s.launchFlit m u h).budgets = s.budgets := rfl
@[simp] theorem State.launchFlit_retired (s : State) (m : Msg) (u : Nat) (h : Bool × Nat) : (s.launchFlit m u h).retired = s.retired := rfl
@[simp] theorem State.launchFlit_channels (s : State) (m : Msg) (u : Nat) (h : Bool × Nat) : (s.launchFlit m u h).channels = s.channels := rfl
@[simp] theorem State.launchFlit_pkgs (s : State) (m : Msg) (u : Nat) (h : Bool × Nat) : (s.launchFlit m u h).pkgs = s.pkgs := rfl
@[simp] theorem State.launchFlit_outs (s : State) (m : Msg) (u : Nat) (h : Bool × Nat) : (s.launchFlit m u h).outs = s.outs := rfl

@[simp] theorem Ply.putCourse_handle (p : Ply) (c : Course) : (p.putCourse c).handle = p.handle := rfl
@[simp] theorem Ply.putCourse_enc (p : Ply) (c : Course) : (p.putCourse c).enc = p.enc := rfl
@[simp] theorem Ply.putCourse_asid (p : Ply) (c : Course) : (p.putCourse c).asid = p.asid := rfl
@[simp] theorem Ply.putCourse_launch (p : Ply) (c : Course) : (p.putCourse c).launch = p.launch := rfl
@[simp] theorem Ply.putCourse_skein (p : Ply) (c : Course) : (p.putCourse c).skein = p.skein := rfl
@[simp] theorem Ply.putCourse_core (p : Ply) (c : Course) : (p.putCourse c).core = p.core := rfl
@[simp] theorem Ply.putCourse_part (p : Ply) (c : Course) : (p.putCourse c).part = p.part := rfl
@[simp] theorem Ply.putCourse_slot (p : Ply) (c : Course) : (p.putCourse c).slot = p.slot := rfl
@[simp] theorem Ply.putCourse_base (p : Ply) (c : Course) : (p.putCourse c).base = p.base := rfl
@[simp] theorem Ply.putCourse_group (p : Ply) (c : Course) : (p.putCourse c).group = p.group := rfl
@[simp] theorem Ply.putCourse_width (p : Ply) (c : Course) : (p.putCourse c).width = p.width := rfl
@[simp] theorem Ply.putCourse_window (p : Ply) (c : Course) : (p.putCourse c).window = p.window := rfl
@[simp] theorem Ply.putCourse_level (p : Ply) (c : Course) : (p.putCourse c).level = p.level := rfl
@[simp] theorem Ply.putCourse_role (p : Ply) (c : Course) : (p.putCourse c).role = p.role := rfl
@[simp] theorem Ply.putCourse_index (p : Ply) (c : Course) : (p.putCourse c).index = p.index := rfl
@[simp] theorem Ply.putCourse_plies (p : Ply) (c : Course) : (p.putCourse c).plies = p.plies := rfl
@[simp] theorem Ply.putCourse_skeinIndex (p : Ply) (c : Course) : (p.putCourse c).skeinIndex = p.skeinIndex := rfl
@[simp] theorem Ply.putCourse_hank (p : Ply) (c : Course) : (p.putCourse c).hank = p.hank := rfl
@[simp] theorem Ply.putCourse_cone (p : Ply) (c : Course) : (p.putCourse c).cone = p.cone := rfl
@[simp] theorem Ply.putCourse_fs (p : Ply) (c : Course) : (p.putCourse c).fs = p.fs := rfl
@[simp] theorem Ply.putCourse_h (p : Ply) (c : Course) : (p.putCourse c).h = p.h := rfl
@[simp] theorem Ply.putCourse_cause (p : Ply) (c : Course) : (p.putCourse c).cause = p.cause := rfl
@[simp] theorem Ply.putCourse_epc (p : Ply) (c : Course) : (p.putCourse c).epc = p.epc := rfl
@[simp] theorem Ply.putCourse_tvec (p : Ply) (c : Course) : (p.putCourse c).tvec = p.tvec := rfl
@[simp] theorem Ply.putCourse_plyCtl (p : Ply) (c : Course) : (p.putCourse c).plyCtl = p.plyCtl := rfl
@[simp] theorem Ply.putCourse_stale (p : Ply) (c : Course) : (p.putCourse c).stale = p.stale := rfl
@[simp] theorem Ply.putCourse_chart (p : Ply) (c : Course) : (p.putCourse c).chart = p.chart := rfl
@[simp] theorem Ply.putCourse_chartBase (p : Ply) (c : Course) : (p.putCourse c).chartBase = p.chartBase := rfl
@[simp] theorem Ply.putCourse_gaugeBase (p : Ply) (c : Course) : (p.putCourse c).gaugeBase = p.gaugeBase := rfl
@[simp] theorem Ply.putCourse_tensionBase (p : Ply) (c : Course) : (p.putCourse c).tensionBase = p.tensionBase := rfl
@[simp] theorem Ply.putCourse_fibres (p : Ply) (c : Course) : (p.putCourse c).fibres = p.fibres := rfl
@[simp] theorem Ply.putCourse_courses (p : Ply) (c : Course) : (p.putCourse c).courses = updateWhere (·.id == c.id) (fun _ => c) p.courses := rfl
@[simp] theorem Ply.putCourse_s (p : Ply) (c : Course) : (p.putCourse c).s = p.s := rfl
@[simp] theorem Ply.putCourse_qm (p : Ply) (c : Course) : (p.putCourse c).qm = p.qm := rfl
@[simp] theorem Ply.putCourse_flight (p : Ply) (c : Course) : (p.putCourse c).flight = p.flight := rfl
@[simp] theorem Ply.putCourse_upsets (p : Ply) (c : Course) : (p.putCourse c).upsets = p.upsets := rfl
@[simp] theorem Ply.putCourse_deferred (p : Ply) (c : Course) : (p.putCourse c).deferred = p.deferred := rfl
@[simp] theorem Ply.putCourse_handler (p : Ply) (c : Course) : (p.putCourse c).handler = p.handler := rfl
@[simp] theorem Ply.putCourse_gauge (p : Ply) (c : Course) : (p.putCourse c).gauge = p.gauge := rfl
@[simp] theorem Ply.putCourse_overrun (p : Ply) (c : Course) : (p.putCourse c).overrun = p.overrun := rfl
@[simp] theorem Ply.putCourse_lost (p : Ply) (c : Course) : (p.putCourse c).lost = p.lost := rfl
@[simp] theorem Ply.putCourse_hub (p : Ply) (c : Course) : (p.putCourse c).hub = p.hub := rfl
@[simp] theorem Ply.putCourse_residence (p : Ply) (c : Course) : (p.putCourse c).residence = p.residence := rfl
@[simp] theorem Ply.putCourse_saved (p : Ply) (c : Course) : (p.putCourse c).saved = p.saved := rfl
@[simp] theorem Ply.putCourse_saveAsked (p : Ply) (c : Course) : (p.putCourse c).saveAsked = p.saveAsked := rfl
@[simp] theorem Ply.putCourse_hold (p : Ply) (c : Course) : (p.putCourse c).hold = p.hold := rfl
@[simp] theorem Ply.putCourse_boost (p : Ply) (c : Course) : (p.putCourse c).boost = p.boost := rfl
@[simp] theorem Ply.putCourse_exiting (p : Ply) (c : Course) : (p.putCourse c).exiting = p.exiting := rfl
@[simp] theorem Ply.putCourse_eligibleSince (p : Ply) (c : Course) : (p.putCourse c).eligibleSince = p.eligibleSince := rfl
@[simp] theorem Ply.putCourse_sliceStart (p : Ply) (c : Course) : (p.putCourse c).sliceStart = p.sliceStart := rfl

@[simp] theorem Ply.dropCourse_handle (p : Ply) (n : Nat) : (p.dropCourse n).handle = p.handle := rfl
@[simp] theorem Ply.dropCourse_enc (p : Ply) (n : Nat) : (p.dropCourse n).enc = p.enc := rfl
@[simp] theorem Ply.dropCourse_asid (p : Ply) (n : Nat) : (p.dropCourse n).asid = p.asid := rfl
@[simp] theorem Ply.dropCourse_launch (p : Ply) (n : Nat) : (p.dropCourse n).launch = p.launch := rfl
@[simp] theorem Ply.dropCourse_skein (p : Ply) (n : Nat) : (p.dropCourse n).skein = p.skein := rfl
@[simp] theorem Ply.dropCourse_core (p : Ply) (n : Nat) : (p.dropCourse n).core = p.core := rfl
@[simp] theorem Ply.dropCourse_part (p : Ply) (n : Nat) : (p.dropCourse n).part = p.part := rfl
@[simp] theorem Ply.dropCourse_slot (p : Ply) (n : Nat) : (p.dropCourse n).slot = p.slot := rfl
@[simp] theorem Ply.dropCourse_base (p : Ply) (n : Nat) : (p.dropCourse n).base = p.base := rfl
@[simp] theorem Ply.dropCourse_group (p : Ply) (n : Nat) : (p.dropCourse n).group = p.group := rfl
@[simp] theorem Ply.dropCourse_width (p : Ply) (n : Nat) : (p.dropCourse n).width = p.width := rfl
@[simp] theorem Ply.dropCourse_window (p : Ply) (n : Nat) : (p.dropCourse n).window = p.window := rfl
@[simp] theorem Ply.dropCourse_level (p : Ply) (n : Nat) : (p.dropCourse n).level = p.level := rfl
@[simp] theorem Ply.dropCourse_role (p : Ply) (n : Nat) : (p.dropCourse n).role = p.role := rfl
@[simp] theorem Ply.dropCourse_index (p : Ply) (n : Nat) : (p.dropCourse n).index = p.index := rfl
@[simp] theorem Ply.dropCourse_plies (p : Ply) (n : Nat) : (p.dropCourse n).plies = p.plies := rfl
@[simp] theorem Ply.dropCourse_skeinIndex (p : Ply) (n : Nat) : (p.dropCourse n).skeinIndex = p.skeinIndex := rfl
@[simp] theorem Ply.dropCourse_hank (p : Ply) (n : Nat) : (p.dropCourse n).hank = p.hank := rfl
@[simp] theorem Ply.dropCourse_cone (p : Ply) (n : Nat) : (p.dropCourse n).cone = p.cone := rfl
@[simp] theorem Ply.dropCourse_fs (p : Ply) (n : Nat) : (p.dropCourse n).fs = p.fs := rfl
@[simp] theorem Ply.dropCourse_h (p : Ply) (n : Nat) : (p.dropCourse n).h = p.h := rfl
@[simp] theorem Ply.dropCourse_cause (p : Ply) (n : Nat) : (p.dropCourse n).cause = p.cause := rfl
@[simp] theorem Ply.dropCourse_epc (p : Ply) (n : Nat) : (p.dropCourse n).epc = p.epc := rfl
@[simp] theorem Ply.dropCourse_tvec (p : Ply) (n : Nat) : (p.dropCourse n).tvec = p.tvec := rfl
@[simp] theorem Ply.dropCourse_plyCtl (p : Ply) (n : Nat) : (p.dropCourse n).plyCtl = p.plyCtl := rfl
@[simp] theorem Ply.dropCourse_stale (p : Ply) (n : Nat) : (p.dropCourse n).stale = p.stale := rfl
@[simp] theorem Ply.dropCourse_chart (p : Ply) (n : Nat) : (p.dropCourse n).chart = p.chart := rfl
@[simp] theorem Ply.dropCourse_chartBase (p : Ply) (n : Nat) : (p.dropCourse n).chartBase = p.chartBase := rfl
@[simp] theorem Ply.dropCourse_gaugeBase (p : Ply) (n : Nat) : (p.dropCourse n).gaugeBase = p.gaugeBase := rfl
@[simp] theorem Ply.dropCourse_tensionBase (p : Ply) (n : Nat) : (p.dropCourse n).tensionBase = p.tensionBase := rfl
@[simp] theorem Ply.dropCourse_fibres (p : Ply) (n : Nat) : (p.dropCourse n).fibres = p.fibres := rfl
@[simp] theorem Ply.dropCourse_courses (p : Ply) (n : Nat) : (p.dropCourse n).courses = p.courses.filter (·.id != n) := rfl
@[simp] theorem Ply.dropCourse_s (p : Ply) (n : Nat) : (p.dropCourse n).s = p.s := rfl
@[simp] theorem Ply.dropCourse_qm (p : Ply) (n : Nat) : (p.dropCourse n).qm = p.qm := rfl
@[simp] theorem Ply.dropCourse_flight (p : Ply) (n : Nat) : (p.dropCourse n).flight = p.flight := rfl
@[simp] theorem Ply.dropCourse_upsets (p : Ply) (n : Nat) : (p.dropCourse n).upsets = p.upsets := rfl
@[simp] theorem Ply.dropCourse_deferred (p : Ply) (n : Nat) : (p.dropCourse n).deferred = p.deferred := rfl
@[simp] theorem Ply.dropCourse_handler (p : Ply) (n : Nat) : (p.dropCourse n).handler = p.handler := rfl
@[simp] theorem Ply.dropCourse_gauge (p : Ply) (n : Nat) : (p.dropCourse n).gauge = p.gauge := rfl
@[simp] theorem Ply.dropCourse_overrun (p : Ply) (n : Nat) : (p.dropCourse n).overrun = p.overrun := rfl
@[simp] theorem Ply.dropCourse_lost (p : Ply) (n : Nat) : (p.dropCourse n).lost = p.lost := rfl
@[simp] theorem Ply.dropCourse_hub (p : Ply) (n : Nat) : (p.dropCourse n).hub = p.hub := rfl
@[simp] theorem Ply.dropCourse_residence (p : Ply) (n : Nat) : (p.dropCourse n).residence = p.residence := rfl
@[simp] theorem Ply.dropCourse_saved (p : Ply) (n : Nat) : (p.dropCourse n).saved = p.saved := rfl
@[simp] theorem Ply.dropCourse_saveAsked (p : Ply) (n : Nat) : (p.dropCourse n).saveAsked = p.saveAsked := rfl
@[simp] theorem Ply.dropCourse_hold (p : Ply) (n : Nat) : (p.dropCourse n).hold = p.hold := rfl
@[simp] theorem Ply.dropCourse_boost (p : Ply) (n : Nat) : (p.dropCourse n).boost = p.boost := rfl
@[simp] theorem Ply.dropCourse_exiting (p : Ply) (n : Nat) : (p.dropCourse n).exiting = p.exiting := rfl
@[simp] theorem Ply.dropCourse_eligibleSince (p : Ply) (n : Nat) : (p.dropCourse n).eligibleSince = p.eligibleSince := rfl
@[simp] theorem Ply.dropCourse_sliceStart (p : Ply) (n : Nat) : (p.dropCourse n).sliceStart = p.sliceStart := rfl

@[simp] theorem Ply.modFibre_handle (p : Ply) (f : Nat) (g : Fibre → Fibre) : (p.modFibre f g).handle = p.handle := rfl
@[simp] theorem Ply.modFibre_enc (p : Ply) (f : Nat) (g : Fibre → Fibre) : (p.modFibre f g).enc = p.enc := rfl
@[simp] theorem Ply.modFibre_asid (p : Ply) (f : Nat) (g : Fibre → Fibre) : (p.modFibre f g).asid = p.asid := rfl
@[simp] theorem Ply.modFibre_launch (p : Ply) (f : Nat) (g : Fibre → Fibre) : (p.modFibre f g).launch = p.launch := rfl
@[simp] theorem Ply.modFibre_skein (p : Ply) (f : Nat) (g : Fibre → Fibre) : (p.modFibre f g).skein = p.skein := rfl
@[simp] theorem Ply.modFibre_core (p : Ply) (f : Nat) (g : Fibre → Fibre) : (p.modFibre f g).core = p.core := rfl
@[simp] theorem Ply.modFibre_part (p : Ply) (f : Nat) (g : Fibre → Fibre) : (p.modFibre f g).part = p.part := rfl
@[simp] theorem Ply.modFibre_slot (p : Ply) (f : Nat) (g : Fibre → Fibre) : (p.modFibre f g).slot = p.slot := rfl
@[simp] theorem Ply.modFibre_base (p : Ply) (f : Nat) (g : Fibre → Fibre) : (p.modFibre f g).base = p.base := rfl
@[simp] theorem Ply.modFibre_group (p : Ply) (f : Nat) (g : Fibre → Fibre) : (p.modFibre f g).group = p.group := rfl
@[simp] theorem Ply.modFibre_width (p : Ply) (f : Nat) (g : Fibre → Fibre) : (p.modFibre f g).width = p.width := rfl
@[simp] theorem Ply.modFibre_window (p : Ply) (f : Nat) (g : Fibre → Fibre) : (p.modFibre f g).window = p.window := rfl
@[simp] theorem Ply.modFibre_level (p : Ply) (f : Nat) (g : Fibre → Fibre) : (p.modFibre f g).level = p.level := rfl
@[simp] theorem Ply.modFibre_role (p : Ply) (f : Nat) (g : Fibre → Fibre) : (p.modFibre f g).role = p.role := rfl
@[simp] theorem Ply.modFibre_index (p : Ply) (f : Nat) (g : Fibre → Fibre) : (p.modFibre f g).index = p.index := rfl
@[simp] theorem Ply.modFibre_plies (p : Ply) (f : Nat) (g : Fibre → Fibre) : (p.modFibre f g).plies = p.plies := rfl
@[simp] theorem Ply.modFibre_skeinIndex (p : Ply) (f : Nat) (g : Fibre → Fibre) : (p.modFibre f g).skeinIndex = p.skeinIndex := rfl
@[simp] theorem Ply.modFibre_hank (p : Ply) (f : Nat) (g : Fibre → Fibre) : (p.modFibre f g).hank = p.hank := rfl
@[simp] theorem Ply.modFibre_cone (p : Ply) (f : Nat) (g : Fibre → Fibre) : (p.modFibre f g).cone = p.cone := rfl
@[simp] theorem Ply.modFibre_fs (p : Ply) (f : Nat) (g : Fibre → Fibre) : (p.modFibre f g).fs = p.fs := rfl
@[simp] theorem Ply.modFibre_h (p : Ply) (f : Nat) (g : Fibre → Fibre) : (p.modFibre f g).h = p.h := rfl
@[simp] theorem Ply.modFibre_cause (p : Ply) (f : Nat) (g : Fibre → Fibre) : (p.modFibre f g).cause = p.cause := rfl
@[simp] theorem Ply.modFibre_epc (p : Ply) (f : Nat) (g : Fibre → Fibre) : (p.modFibre f g).epc = p.epc := rfl
@[simp] theorem Ply.modFibre_tvec (p : Ply) (f : Nat) (g : Fibre → Fibre) : (p.modFibre f g).tvec = p.tvec := rfl
@[simp] theorem Ply.modFibre_plyCtl (p : Ply) (f : Nat) (g : Fibre → Fibre) : (p.modFibre f g).plyCtl = p.plyCtl := rfl
@[simp] theorem Ply.modFibre_stale (p : Ply) (f : Nat) (g : Fibre → Fibre) : (p.modFibre f g).stale = p.stale := rfl
@[simp] theorem Ply.modFibre_chart (p : Ply) (f : Nat) (g : Fibre → Fibre) : (p.modFibre f g).chart = p.chart := rfl
@[simp] theorem Ply.modFibre_chartBase (p : Ply) (f : Nat) (g : Fibre → Fibre) : (p.modFibre f g).chartBase = p.chartBase := rfl
@[simp] theorem Ply.modFibre_gaugeBase (p : Ply) (f : Nat) (g : Fibre → Fibre) : (p.modFibre f g).gaugeBase = p.gaugeBase := rfl
@[simp] theorem Ply.modFibre_tensionBase (p : Ply) (f : Nat) (g : Fibre → Fibre) : (p.modFibre f g).tensionBase = p.tensionBase := rfl
@[simp] theorem Ply.modFibre_fibres (p : Ply) (f : Nat) (g : Fibre → Fibre) : (p.modFibre f g).fibres = p.fibres.modify f g := rfl
@[simp] theorem Ply.modFibre_courses (p : Ply) (f : Nat) (g : Fibre → Fibre) : (p.modFibre f g).courses = p.courses := rfl
@[simp] theorem Ply.modFibre_s (p : Ply) (f : Nat) (g : Fibre → Fibre) : (p.modFibre f g).s = p.s := rfl
@[simp] theorem Ply.modFibre_qm (p : Ply) (f : Nat) (g : Fibre → Fibre) : (p.modFibre f g).qm = p.qm := rfl
@[simp] theorem Ply.modFibre_flight (p : Ply) (f : Nat) (g : Fibre → Fibre) : (p.modFibre f g).flight = p.flight := rfl
@[simp] theorem Ply.modFibre_upsets (p : Ply) (f : Nat) (g : Fibre → Fibre) : (p.modFibre f g).upsets = p.upsets := rfl
@[simp] theorem Ply.modFibre_deferred (p : Ply) (f : Nat) (g : Fibre → Fibre) : (p.modFibre f g).deferred = p.deferred := rfl
@[simp] theorem Ply.modFibre_handler (p : Ply) (f : Nat) (g : Fibre → Fibre) : (p.modFibre f g).handler = p.handler := rfl
@[simp] theorem Ply.modFibre_gauge (p : Ply) (f : Nat) (g : Fibre → Fibre) : (p.modFibre f g).gauge = p.gauge := rfl
@[simp] theorem Ply.modFibre_overrun (p : Ply) (f : Nat) (g : Fibre → Fibre) : (p.modFibre f g).overrun = p.overrun := rfl
@[simp] theorem Ply.modFibre_lost (p : Ply) (f : Nat) (g : Fibre → Fibre) : (p.modFibre f g).lost = p.lost := rfl
@[simp] theorem Ply.modFibre_hub (p : Ply) (f : Nat) (g : Fibre → Fibre) : (p.modFibre f g).hub = p.hub := rfl
@[simp] theorem Ply.modFibre_residence (p : Ply) (f : Nat) (g : Fibre → Fibre) : (p.modFibre f g).residence = p.residence := rfl
@[simp] theorem Ply.modFibre_saved (p : Ply) (f : Nat) (g : Fibre → Fibre) : (p.modFibre f g).saved = p.saved := rfl
@[simp] theorem Ply.modFibre_saveAsked (p : Ply) (f : Nat) (g : Fibre → Fibre) : (p.modFibre f g).saveAsked = p.saveAsked := rfl
@[simp] theorem Ply.modFibre_hold (p : Ply) (f : Nat) (g : Fibre → Fibre) : (p.modFibre f g).hold = p.hold := rfl
@[simp] theorem Ply.modFibre_boost (p : Ply) (f : Nat) (g : Fibre → Fibre) : (p.modFibre f g).boost = p.boost := rfl
@[simp] theorem Ply.modFibre_exiting (p : Ply) (f : Nat) (g : Fibre → Fibre) : (p.modFibre f g).exiting = p.exiting := rfl
@[simp] theorem Ply.modFibre_eligibleSince (p : Ply) (f : Nat) (g : Fibre → Fibre) : (p.modFibre f g).eligibleSince = p.eligibleSince := rfl
@[simp] theorem Ply.modFibre_sliceStart (p : Ply) (f : Nat) (g : Fibre → Fibre) : (p.modFibre f g).sliceStart = p.sliceStart := rfl
theorem Ply.modFibres_eq (p : Ply) (l : List Nat) (g : Nat → Fibre → Fibre) :
    p.modFibres l g = { p with fibres := (p.modFibres l g).fibres } := by
  induction l generalizing p with
  | nil => rfl
  | cons f r ih =>
    show (p.modFibre f (g f)).modFibres r g = { p with fibres := ((p.modFibre f (g f)).modFibres r g).fibres }
    rw [ih]
    rfl

@[simp] theorem Ply.modFibres_handle (p : Ply) (l : List Nat) (g : Nat → Fibre → Fibre) :
    (p.modFibres l g).handle = p.handle := by
  have h := congrArg Ply.handle (p.modFibres_eq l g); exact h
@[simp] theorem Ply.modFibres_enc (p : Ply) (l : List Nat) (g : Nat → Fibre → Fibre) :
    (p.modFibres l g).enc = p.enc := by
  have h := congrArg Ply.enc (p.modFibres_eq l g); exact h
@[simp] theorem Ply.modFibres_asid (p : Ply) (l : List Nat) (g : Nat → Fibre → Fibre) :
    (p.modFibres l g).asid = p.asid := by
  have h := congrArg Ply.asid (p.modFibres_eq l g); exact h
@[simp] theorem Ply.modFibres_launch (p : Ply) (l : List Nat) (g : Nat → Fibre → Fibre) :
    (p.modFibres l g).launch = p.launch := by
  have h := congrArg Ply.launch (p.modFibres_eq l g); exact h
@[simp] theorem Ply.modFibres_skein (p : Ply) (l : List Nat) (g : Nat → Fibre → Fibre) :
    (p.modFibres l g).skein = p.skein := by
  have h := congrArg Ply.skein (p.modFibres_eq l g); exact h
@[simp] theorem Ply.modFibres_core (p : Ply) (l : List Nat) (g : Nat → Fibre → Fibre) :
    (p.modFibres l g).core = p.core := by
  have h := congrArg Ply.core (p.modFibres_eq l g); exact h
@[simp] theorem Ply.modFibres_part (p : Ply) (l : List Nat) (g : Nat → Fibre → Fibre) :
    (p.modFibres l g).part = p.part := by
  have h := congrArg Ply.part (p.modFibres_eq l g); exact h
@[simp] theorem Ply.modFibres_slot (p : Ply) (l : List Nat) (g : Nat → Fibre → Fibre) :
    (p.modFibres l g).slot = p.slot := by
  have h := congrArg Ply.slot (p.modFibres_eq l g); exact h
@[simp] theorem Ply.modFibres_base (p : Ply) (l : List Nat) (g : Nat → Fibre → Fibre) :
    (p.modFibres l g).base = p.base := by
  have h := congrArg Ply.base (p.modFibres_eq l g); exact h
@[simp] theorem Ply.modFibres_group (p : Ply) (l : List Nat) (g : Nat → Fibre → Fibre) :
    (p.modFibres l g).group = p.group := by
  have h := congrArg Ply.group (p.modFibres_eq l g); exact h
@[simp] theorem Ply.modFibres_width (p : Ply) (l : List Nat) (g : Nat → Fibre → Fibre) :
    (p.modFibres l g).width = p.width := by
  have h := congrArg Ply.width (p.modFibres_eq l g); exact h
@[simp] theorem Ply.modFibres_window (p : Ply) (l : List Nat) (g : Nat → Fibre → Fibre) :
    (p.modFibres l g).window = p.window := by
  have h := congrArg Ply.window (p.modFibres_eq l g); exact h
@[simp] theorem Ply.modFibres_level (p : Ply) (l : List Nat) (g : Nat → Fibre → Fibre) :
    (p.modFibres l g).level = p.level := by
  have h := congrArg Ply.level (p.modFibres_eq l g); exact h
@[simp] theorem Ply.modFibres_role (p : Ply) (l : List Nat) (g : Nat → Fibre → Fibre) :
    (p.modFibres l g).role = p.role := by
  have h := congrArg Ply.role (p.modFibres_eq l g); exact h
@[simp] theorem Ply.modFibres_index (p : Ply) (l : List Nat) (g : Nat → Fibre → Fibre) :
    (p.modFibres l g).index = p.index := by
  have h := congrArg Ply.index (p.modFibres_eq l g); exact h
@[simp] theorem Ply.modFibres_plies (p : Ply) (l : List Nat) (g : Nat → Fibre → Fibre) :
    (p.modFibres l g).plies = p.plies := by
  have h := congrArg Ply.plies (p.modFibres_eq l g); exact h
@[simp] theorem Ply.modFibres_skeinIndex (p : Ply) (l : List Nat) (g : Nat → Fibre → Fibre) :
    (p.modFibres l g).skeinIndex = p.skeinIndex := by
  have h := congrArg Ply.skeinIndex (p.modFibres_eq l g); exact h
@[simp] theorem Ply.modFibres_hank (p : Ply) (l : List Nat) (g : Nat → Fibre → Fibre) :
    (p.modFibres l g).hank = p.hank := by
  have h := congrArg Ply.hank (p.modFibres_eq l g); exact h
@[simp] theorem Ply.modFibres_cone (p : Ply) (l : List Nat) (g : Nat → Fibre → Fibre) :
    (p.modFibres l g).cone = p.cone := by
  have h := congrArg Ply.cone (p.modFibres_eq l g); exact h
@[simp] theorem Ply.modFibres_fs (p : Ply) (l : List Nat) (g : Nat → Fibre → Fibre) :
    (p.modFibres l g).fs = p.fs := by
  have h := congrArg Ply.fs (p.modFibres_eq l g); exact h
@[simp] theorem Ply.modFibres_h (p : Ply) (l : List Nat) (g : Nat → Fibre → Fibre) :
    (p.modFibres l g).h = p.h := by
  have h := congrArg Ply.h (p.modFibres_eq l g); exact h
@[simp] theorem Ply.modFibres_cause (p : Ply) (l : List Nat) (g : Nat → Fibre → Fibre) :
    (p.modFibres l g).cause = p.cause := by
  have h := congrArg Ply.cause (p.modFibres_eq l g); exact h
@[simp] theorem Ply.modFibres_epc (p : Ply) (l : List Nat) (g : Nat → Fibre → Fibre) :
    (p.modFibres l g).epc = p.epc := by
  have h := congrArg Ply.epc (p.modFibres_eq l g); exact h
@[simp] theorem Ply.modFibres_tvec (p : Ply) (l : List Nat) (g : Nat → Fibre → Fibre) :
    (p.modFibres l g).tvec = p.tvec := by
  have h := congrArg Ply.tvec (p.modFibres_eq l g); exact h
@[simp] theorem Ply.modFibres_plyCtl (p : Ply) (l : List Nat) (g : Nat → Fibre → Fibre) :
    (p.modFibres l g).plyCtl = p.plyCtl := by
  have h := congrArg Ply.plyCtl (p.modFibres_eq l g); exact h
@[simp] theorem Ply.modFibres_stale (p : Ply) (l : List Nat) (g : Nat → Fibre → Fibre) :
    (p.modFibres l g).stale = p.stale := by
  have h := congrArg Ply.stale (p.modFibres_eq l g); exact h
@[simp] theorem Ply.modFibres_chart (p : Ply) (l : List Nat) (g : Nat → Fibre → Fibre) :
    (p.modFibres l g).chart = p.chart := by
  have h := congrArg Ply.chart (p.modFibres_eq l g); exact h
@[simp] theorem Ply.modFibres_chartBase (p : Ply) (l : List Nat) (g : Nat → Fibre → Fibre) :
    (p.modFibres l g).chartBase = p.chartBase := by
  have h := congrArg Ply.chartBase (p.modFibres_eq l g); exact h
@[simp] theorem Ply.modFibres_gaugeBase (p : Ply) (l : List Nat) (g : Nat → Fibre → Fibre) :
    (p.modFibres l g).gaugeBase = p.gaugeBase := by
  have h := congrArg Ply.gaugeBase (p.modFibres_eq l g); exact h
@[simp] theorem Ply.modFibres_tensionBase (p : Ply) (l : List Nat) (g : Nat → Fibre → Fibre) :
    (p.modFibres l g).tensionBase = p.tensionBase := by
  have h := congrArg Ply.tensionBase (p.modFibres_eq l g); exact h
@[simp] theorem Ply.modFibres_courses (p : Ply) (l : List Nat) (g : Nat → Fibre → Fibre) :
    (p.modFibres l g).courses = p.courses := by
  have h := congrArg Ply.courses (p.modFibres_eq l g); exact h
@[simp] theorem Ply.modFibres_s (p : Ply) (l : List Nat) (g : Nat → Fibre → Fibre) :
    (p.modFibres l g).s = p.s := by
  have h := congrArg Ply.s (p.modFibres_eq l g); exact h
@[simp] theorem Ply.modFibres_qm (p : Ply) (l : List Nat) (g : Nat → Fibre → Fibre) :
    (p.modFibres l g).qm = p.qm := by
  have h := congrArg Ply.qm (p.modFibres_eq l g); exact h
@[simp] theorem Ply.modFibres_flight (p : Ply) (l : List Nat) (g : Nat → Fibre → Fibre) :
    (p.modFibres l g).flight = p.flight := by
  have h := congrArg Ply.flight (p.modFibres_eq l g); exact h
@[simp] theorem Ply.modFibres_upsets (p : Ply) (l : List Nat) (g : Nat → Fibre → Fibre) :
    (p.modFibres l g).upsets = p.upsets := by
  have h := congrArg Ply.upsets (p.modFibres_eq l g); exact h
@[simp] theorem Ply.modFibres_deferred (p : Ply) (l : List Nat) (g : Nat → Fibre → Fibre) :
    (p.modFibres l g).deferred = p.deferred := by
  have h := congrArg Ply.deferred (p.modFibres_eq l g); exact h
@[simp] theorem Ply.modFibres_handler (p : Ply) (l : List Nat) (g : Nat → Fibre → Fibre) :
    (p.modFibres l g).handler = p.handler := by
  have h := congrArg Ply.handler (p.modFibres_eq l g); exact h
@[simp] theorem Ply.modFibres_gauge (p : Ply) (l : List Nat) (g : Nat → Fibre → Fibre) :
    (p.modFibres l g).gauge = p.gauge := by
  have h := congrArg Ply.gauge (p.modFibres_eq l g); exact h
@[simp] theorem Ply.modFibres_overrun (p : Ply) (l : List Nat) (g : Nat → Fibre → Fibre) :
    (p.modFibres l g).overrun = p.overrun := by
  have h := congrArg Ply.overrun (p.modFibres_eq l g); exact h
@[simp] theorem Ply.modFibres_lost (p : Ply) (l : List Nat) (g : Nat → Fibre → Fibre) :
    (p.modFibres l g).lost = p.lost := by
  have h := congrArg Ply.lost (p.modFibres_eq l g); exact h
@[simp] theorem Ply.modFibres_hub (p : Ply) (l : List Nat) (g : Nat → Fibre → Fibre) :
    (p.modFibres l g).hub = p.hub := by
  have h := congrArg Ply.hub (p.modFibres_eq l g); exact h
@[simp] theorem Ply.modFibres_residence (p : Ply) (l : List Nat) (g : Nat → Fibre → Fibre) :
    (p.modFibres l g).residence = p.residence := by
  have h := congrArg Ply.residence (p.modFibres_eq l g); exact h
@[simp] theorem Ply.modFibres_saved (p : Ply) (l : List Nat) (g : Nat → Fibre → Fibre) :
    (p.modFibres l g).saved = p.saved := by
  have h := congrArg Ply.saved (p.modFibres_eq l g); exact h
@[simp] theorem Ply.modFibres_saveAsked (p : Ply) (l : List Nat) (g : Nat → Fibre → Fibre) :
    (p.modFibres l g).saveAsked = p.saveAsked := by
  have h := congrArg Ply.saveAsked (p.modFibres_eq l g); exact h
@[simp] theorem Ply.modFibres_hold (p : Ply) (l : List Nat) (g : Nat → Fibre → Fibre) :
    (p.modFibres l g).hold = p.hold := by
  have h := congrArg Ply.hold (p.modFibres_eq l g); exact h
@[simp] theorem Ply.modFibres_boost (p : Ply) (l : List Nat) (g : Nat → Fibre → Fibre) :
    (p.modFibres l g).boost = p.boost := by
  have h := congrArg Ply.boost (p.modFibres_eq l g); exact h
@[simp] theorem Ply.modFibres_exiting (p : Ply) (l : List Nat) (g : Nat → Fibre → Fibre) :
    (p.modFibres l g).exiting = p.exiting := by
  have h := congrArg Ply.exiting (p.modFibres_eq l g); exact h
@[simp] theorem Ply.modFibres_eligibleSince (p : Ply) (l : List Nat) (g : Nat → Fibre → Fibre) :
    (p.modFibres l g).eligibleSince = p.eligibleSince := by
  have h := congrArg Ply.eligibleSince (p.modFibres_eq l g); exact h
@[simp] theorem Ply.modFibres_sliceStart (p : Ply) (l : List Nat) (g : Nat → Fibre → Fibre) :
    (p.modFibres l g).sliceStart = p.sliceStart := by
  have h := congrArg Ply.sliceStart (p.modFibres_eq l g); exact h

end Sys2Proof.Machine
end

