-- ==== Sys2Proof/Laws/SubElements.lean ====
section
/-! SUPPORT.  Sub-elements (R106): what is built from sub-elements has them, and integers narrowed to a width. -/

namespace Sys2Proof.Machine

/-- The value that `buildSub` gives, before it is cut to 64 bits. -/
def packSubs (w : Nat) (g : Nat → Nat) (n : Nat) : Nat :=
  (List.range n).foldl (fun a e => a + g e % 2 ^ w * 2 ^ (w * e)) 0

theorem packSubs_succ (w : Nat) (g : Nat → Nat) (n : Nat) :
    packSubs w g (n + 1) = packSubs w g n + g n % 2 ^ w * 2 ^ (w * n) := by
  simp [packSubs, List.range_succ]

theorem packSubs_lt (w : Nat) (g : Nat → Nat) (n : Nat) : packSubs w g n < 2 ^ (w * n) := by
  induction n with
  | zero => simp [packSubs]
  | succ n ih =>
    rw [packSubs_succ, Nat.mul_succ, Nat.pow_add]
    have hm : g n % 2 ^ w + 1 ≤ 2 ^ w := Nat.mod_lt _ (Nat.two_pow_pos w)
    calc packSubs w g n + g n % 2 ^ w * 2 ^ (w * n) < 2 ^ (w * n) + g n % 2 ^ w * 2 ^ (w * n) := by omega
      _ = (g n % 2 ^ w + 1) * 2 ^ (w * n) := by rw [Nat.add_mul, Nat.one_mul, Nat.add_comm]
      _ ≤ 2 ^ w * 2 ^ (w * n) := Nat.mul_le_mul_right _ hm
      _ = 2 ^ (w * n) * 2 ^ w := Nat.mul_comm _ _

theorem packSubs_get (w : Nat) (g : Nat → Nat) (n e : Nat) (he : e < n) :
    packSubs w g n / 2 ^ (w * e) % 2 ^ w = g e % 2 ^ w := by
  induction n with
  | zero => omega
  | succ n ih =>
    rw [packSubs_succ]
    by_cases h : e = n
    · subst h
      rw [Nat.add_mul_div_right _ _ (Nat.two_pow_pos _), Nat.div_eq_of_lt (packSubs_lt w g e), Nat.zero_add, Nat.mod_mod]
    · have hlt : e < n := by omega
      have : g n % 2 ^ w * 2 ^ (w * n) = (g n % 2 ^ w * 2 ^ (w * (n - e - 1)) * 2 ^ w) * 2 ^ (w * e) := by
        have : w * n = w * (n - e - 1) + w + w * e := by
          have : n = (n - e - 1) + 1 + e := by omega
          rw [← Nat.mul_succ, ← Nat.mul_add, ← this]
        rw [this, Nat.pow_add, Nat.pow_add, Nat.mul_assoc, Nat.mul_assoc, Nat.mul_assoc]
      rw [this, Nat.add_mul_div_right _ _ (Nat.two_pow_pos _), Nat.add_mul_mod_self_right]
      exact ih hlt

theorem subs_width (f : Fmt) : f.width * f.subs ≤ 64 := by cases f <;> decide

theorem buildSub_toNat (f : Fmt) (g : Nat → Nat) : (buildSub f g).toNat = packSubs f.width g f.subs := by
  have h := packSubs_lt f.width g f.subs
  have h2 : 2 ^ (f.width * f.subs) ≤ 2 ^ 64 := Nat.pow_le_pow_right (by decide) (subs_width f)
  unfold buildSub
  rw [BitVec.toNat_ofNat]
  exact Nat.mod_eq_of_lt (Nat.lt_of_lt_of_le h h2)

theorem subAt_buildSub (f : Fmt) (g : Nat → Nat) (e : Nat) (he : e < f.subs) :
    subAt f (buildSub f g).toNat e = g e % 2 ^ f.width := by
  rw [buildSub_toNat]
  exact packSubs_get f.width g f.subs e he

theorem wrap_lt (w : Nat) (x : Int) : wrap w x < 2 ^ w := by
  unfold wrap
  have h : (0 : Int) < 2 ^ w := Int.pow_pos (by decide)
  have h1 := Int.emod_lt_of_pos x h
  have h2 := Int.emod_nonneg x (Int.ne_of_gt h)
  have : ((2 ^ w : Nat) : Int) = (2 : Int) ^ w := by simp
  omega

theorem wrap_cast (w : Nat) (x : Int) : (wrap w x : Int) = x % 2 ^ w := by
  unfold wrap
  exact Int.toNat_of_nonneg (Int.emod_nonneg x (Int.ne_of_gt (Int.pow_pos (by decide))))

theorem subAt_wrap (f : Fmt) (g : Nat → Int) (e : Nat) (he : e < f.subs) :
    subAt f (buildSub f fun e => wrap f.width (g e)).toNat e = wrap f.width (g e) := by
  rw [subAt_buildSub _ _ _ he, Nat.mod_eq_of_lt (wrap_lt _ _)]

end Sys2Proof.Machine
end

