-- ==== Sys2Proof/Tests/Slice0.lean ====
section
/-! SUPPORT.  Tests of the decoder against words packed by hand, of the limits of the syntax, and of single steps; and for
every statement with hypotheses a state and operands that meet them. -/

namespace Sys2Proof.Machine

-- The tests are elaborated one after another: many at once would take more memory than one run has.
set_option Elab.async false

/-- A plain head: no chain, no stall, guard p0. -/
def hd0 : Head := ⟨false, 0, 0⟩

/-- A head that no base word has: a guard. -/
def hdG : Head := ⟨false, 0, 1⟩

/-- R13, R16 to R18, R25, R33: what no base word, prefix or plain bind can hold is not well formed: a guard, a stall count of two
words, a source beyond v111 or s7, the code of no temporary, a constant, two sources that fix no format, a reserved saturation,
a bind in a chain. -/
theorem test_wf_of_base_words : ∀ i ∈ ([.nop hdG, .nop ⟨false, 4, 0⟩, .ifence hdG, .rcv hdG, .fend hdG, .yield hdG, .exit hdG,
    .pfx .rne 3 false false 0 false, .bind ⟨true, 0, 0⟩ 0, .movBase hd0 1 (.v 112), .movsBase hd0 1 (.s 8), .taggetBase hd0 1 (.tmp 0),
    .tagsetBase hd0 1 (.imm 1) .i64, .addBase hd0 1 (.v 1) (.special 0), .faddBase hd0 1 .zero .zero, .fmaxBase hd0 1 .zero .zero,
    .ldsBase hdG 1 .zero .zero, .stBase hd0 1 (.v 112) .zero, .qmulBase hd0 1 .zero .zero] : List Instr), i.wf = false := by
  decide +kernel

/-- R34, R53, R57, R89 to R97, R364 to R366: the limits of the control instructions. -/
theorem test_wf_of_control : ∀ i ∈ ([.chartld hd0 0 0 0 9, .chartrd hd0 1 .zero 0, .chartrd hd0 2 (.v 0) 0,
    .bindBr ⟨true, 0, 0⟩ 0 0, .bindBc hdG 1 0 0, .bindCall hd0 .none 0 0, .bindRet hd0 .none 0, .bindJmp hd0 .none 0 0,
    .fork hd0 (.v 1) .zero 0, .fork hd0 .none (.v 1) 0, .elect hd0 (.v 1) 1, .elect hd0 .none 0, .vote hd0 (.s 1) 1 2 1,
    .vote hd0 .none 1 0 0, .phase hd0 256, .sysc hd0 8192, .trap hd0 8192, .eret hd0 (.s 1) 0, .eret hd0 (.v 1) 2, .csrr hd0 .none 0,
    .csrr hd0 (.v 1) 13, .csrw hd0 (.v 1) 0, .csrw hd0 .zero 13, .csrx hd0 .none .zero 0 3, .wfi hd0 (.v 1)] : List Instr),
    i.wf = false := by decide +kernel

/-- R22 to R24, R125, R131 to R145: the limits of the moves and of the integer instructions: a destination, a source code, a
format, a constant that has no place in a sub-element. -/
theorem test_wf_of_integer : ∀ i ∈ ([.mov hd0 (.s 1) .zero, .mov hd0 (.v 1) (.tmp 0), .movi hd0 .none 3 0, .movs hd0 1 (.special 12),
    .add hd0 (.s 1) .zero .zero .i64 false, .add hd0 (.v 1) .zero .zero .f64 false, .sub hd0 (.v 1) (.imm (-9)) .zero .i4 false,
    .mul hd0 (.v 1) (.imm (-1)) .zero .i8 true, .mad hd0 (.v 1) .zero .zero (.special 12) .i64 false, .div hd0 (.v 1) .zero .zero .raw false,
    .abs hd0 (.v 1) (.imm 8) .i4, .and hd0 (.v 1) .zero .zero .poison, .not hd0 (.v 1) (.imm 16) .gq4, .shl hd0 (.v 1) .zero (.imm 8) .i4,
    .clz hd0 (.v 1) .zero .q64, .cmp hd0 (.v 1) .zero .zero .i64 false 6 1 false, .cmp hd0 .none .zero .zero .i64 false 0 0 false,
    .sel hd0 (.v 1) (.imm (-1)) .zero .zero .q32, .addi hd0 (.v 1) .zero 0 .cf32 false, .pand hd0 0 1 1 false false,
    .pnot hd0 0 1 false, .pset hd0 (.tmp 0) 0] : List Instr), i.wf = false := by decide +kernel

/-- R146, R151 to R158: the limits of the floating-point instructions and the conversions. -/
theorem test_wf_of_floating : ∀ i ∈ ([.fadd hd0 (.v 1) .zero .zero .i32 .rne, .fmin hd0 (.v 1) .zero .zero .cf32,
    .fneg hd0 (.v 1) .zero .q64, .fcmp hd0 .none .zero .zero .f32 0 0 false, .fdiv hd0 (.v 1) .zero .zero .cf32 .rne,
    .fdot hd0 (.v 1) .zero .zero .zero .f32, .rcp hd0 (.v 1) .zero .f64, .cvt hd0 (.v 1) .zero .i64 false .rne .f32,
    .cvt hd0 (.v 1) .zero .f32 true .rne .f32, .pack hd0 (.v 1) .zero .zero .i64 false .inherit, .pack hd0 (.v 1) .zero .zero .i32 false .rne,
    .pack hd0 (.v 1) .zero .zero .f16 true .rne, .unpack hd0 (.v 1) .zero .f64 false false, .unpack hd0 (.v 1) .zero .gq8 true false] :
    List Instr), i.wf = false := by decide +kernel

/-- R161, R162, R172 to R183: the limits of the cross-lane and modular instructions. -/
theorem test_wf_of_cross : ∀ i ∈ ([.shfl hd0 (.v 1) .zero .zero .i32 4 0, .shfl hd0 (.v 1) .zero .zero .i32 1 11,
    .shfl hd0 (.v 1) .zero .zero .i8 0 0, .shfl hd0 (.v 1) .zero (.v 1) .i32 1 0, .bcast hd0 (.v 1) .zero (.v 1) .i32 0,
    .lreduce hd0 (.v 1) .zero .raw false 0 0 .inherit, .lreduce hd0 (.v 1) .zero .i32 false 6 0 .inherit,
    .lreduce hd0 (.v 1) .zero .f32 false 3 0 .rne, .lscan hd0 (.v 1) .zero .f32 true 0 0 false .rne,
    .lscan hd0 (.v 1) .zero .i32 false 0 0 false .rne, .swiz hd0 (.v 1) .zero .poison 0, .qset hd0 (.v 1) .q64 0, .qset hd0 .zero .i64 0,
    .qadd hd0 (.v 1) (.imm (-1)) .zero .q64 0, .qred hd0 (.v 1) (.imm (-1)) .q32 true 0, .qbfly hd0 1 .zero .zero .zero .q64 0,
    .hperm hd0 (.v 1) .zero .zero .i8 0, .hauto hd0 (.v 1) .zero (.v 1) .q64 0 0] : List Instr), i.wf = false := by decide +kernel

/-- R197, R205 to R209, R226 to R236: the limits of the instructions of cable pairs and scratchpads. -/
theorem test_wf_of_pairs_and_scratchpads : ∀ i ∈ ([.mma hd0 (.v 1) 0 .zero 0 false false, .mmag hd0 .zero 0 .zero 0 false false 3,
    .accfree hd0 (.v 1) 0, .accld hd0 .zero 0 0 0 .i64, .accst hd0 (.tmp 1) 0 0 0, .mread hd0 0 (.v 1) 0 false 0,
    .lds hd0 (.v 1) (.special 0) 0 .i64, .lds hd0 (.s 1) .zero 0 .i64, .sts hd0 (.imm 1) .zero 0, .ldsfe hd0 (.v 1) .zero 0 .poison,
    .stsfe hd0 (.tmp 1) .zero 0, .sfe hd0 (.special 0) 0 true, .tlook hd0 (.s 1) .zero 0 0, .tset hd0 (.tmp 0) .zero 0,
    .tinv hd0 (.special 13) 0, .racq hd0 0 (.v 1) 0, .rpub hd0 .zero (.v 1), .barinit hd0 (.v 1) .zero, .bararr hd0 (.v 1) .zero .zero,
    .barwait hd0 .zero (.tmp 1)] : List Instr), i.wf = false := by decide +kernel

/-- R250 to R261, R273 to R283, R302 to R305, R315, R351, R392, R394: the limits of the instructions of memory and the system. -/
theorem test_wf_of_memory_and_system : ∀ i ∈ ([.ld hd0 (.v 1) .zero 0 0 .i64 true 7, .ld hd0 (.v 1) .zero 0 0 .i64 false 1,
    .st hd0 (.imm 1) .zero 0 0 false 0, .st hd0 .zero .zero 0 0 false 2, .atom hd0 (.v 1) .zero .zero .zero 0 11,
    .atom hd0 (.v 1) .zero .zero (.v 1) 0 0, .redms hd0 .zero .zero .i32 false 3, .redms hd0 .zero .zero .f32 true 1,
    .redms hd0 .zero .zero .i16 false 0, .pref hd0 .zero 0 2, .fence hd0 0 7 1, .fence hd0 0 0 0, .waitv hd0 (.v 1) .zero .zero .zero 7,
    .wakev hd0 (.s 1) .zero .zero 0 0, .copy hd0 .zero 51 .zero 0 0 false false 0 false, .copy hd0 .zero 0 .zero 0 0 false false 10 false,
    .copy hd0 .zero 0 (.imm 1) 0 0 false false 0 false, .copyl hd0 .zero .zero .zero (.imm 1) 0 0 false, .copyl hd0 (.v 1) .zero .zero .zero 0 0 false,
    .stgpost hd0 (.v 1) .zero .zero 0, .stgadv hd0 (.v 1) .zero false, .npost hd0 (.s 1) (.v 1) .zero 0, .ncqw hd0 (.s 1) .zero .zero 7 0,
    .launch hd0 (.v 1) .zero .zero 0, .rngset hd0 62 .zero 0 0, .atinv hd0 .zero .zero 0 3, .atinv hd0 (.imm 1) .zero 0 1,
    .atinv hd0 .zero (.imm 1) 0 2, .pgq hd0 (.v 1) (.special 0) .zero 0, .ecreate hd0 1 (.v 1) 0, .eenter hd0 1 .zero (.v 1),
    .eseal hd0 1 61 0, .eunseal hd0 1 62 0, .ereport hd0 1 .zero (.v 1) 0] : List Instr), i.wf = false := by decide +kernel

/-- R16, R18 to R25, R33, R34, R59, R60: words that are no instruction: an opcode that is not listed, a bit that must be zero, a
code that the entry forbids. -/
theorem test_reserved_words_are_refused : ([(0x40700000, 0), (0x40C00000, 0), (0x42500000, 0), (0x42C00000, 0), (0x43300000, 0),
    (0x40000001, 0), (0x60100000, 0), (0x40100001, 0), (0xE0000000, 0), (0xC0000001, 0), (0xD8000000, 0), (0xC3000000, 0),
    (0x80000000, 0xA3D1E8E0), (0x800C0000, 0xA3D1E8E0), (0x85C40000, 0xA3D1E8E0), (0x81000000, 0x028077B0), (0x81000000, 0x828077A2),
    (0x81000010, 0x028077A2), (0x80240002, 0), (0x80200000, 0)] : List (IWord × IWord)).all
    (fun t => (decodeWords t.1 t.2).toOption == none) = true := by decide +kernel

/-- Words of R16, R25, R33, R44, packed by hand from the fields of those rules. -/
theorem test_decode_stream : ∀ t ∈ ([
    (0x70000000, 0x00000000, .nop ⟨true, 2, 0⟩),
    (0xCD6B0000, 0x00000000, .pfx .ru 1 false true 0x15 true),
    (0x352FFFFE, 0x00000000, .chartWord true 2 0xA5 0x7FFFE),
    (0x58181000, 0x00000000, .bind ⟨false, 3, 0⟩ 0x81),
    (0x40200000, 0x00000000, .ifence hd0),
    (0x40300000, 0x00000000, .rcv hd0),
    (0x40400000, 0x00000000, .fend hd0),
    (0x40500000, 0x00000000, .yield hd0),
    (0x40600000, 0x00000000, .exit hd0)] : List (IWord × IWord × Instr)),
    (decodeWords t.1 t.2.1).toOption = some t.2.2 ∧ t.2.2.wf = true ∧ encode t.2.2 = (if isLong t.1 then [t.1, t.2.1] else [t.1]) := by decide +kernel

/-- Words of R16, R17, R59 and the entries of the base forms, packed by hand from the fields of those rules. -/
theorem test_decode_base : ∀ t ∈ ([
    (0x408FF7F7, 0x00000000, .movBase hd0 63 (.v 111)),
    (0x40927877, 0x00000000, .movsBase hd0 9 (.tmp 1)),
    (0x40A07FF7, 0x00000000, .taggetBase hd0 1 (.s 7)),
    (0x40B0BB8F, 0x00000000, .tagsetBase hd0 2 .zero .poison),
    (0x410141F8, 0x00000000, .addBase hd0 5 (.v 3) (.s 0)),
    (0x411181F8, 0x00000000, .subBase hd0 6 (.v 3) (.s 0)),
    (0x4121C1F8, 0x00000000, .mulBase hd0 7 (.v 3) (.s 0)),
    (0x413201F8, 0x00000000, .mulhiIBase hd0 8 (.v 3) (.s 0)),
    (0x414241F8, 0x00000000, .mulhiUiBase hd0 9 (.v 3) (.s 0)),
    (0x415281F8, 0x00000000, .minIBase hd0 10 (.v 3) (.s 0)),
    (0x4162C1F8, 0x00000000, .minUiBase hd0 11 (.v 3) (.s 0)),
    (0x417301F8, 0x00000000, .maxIBase hd0 12 (.v 3) (.s 0)),
    (0x418341F8, 0x00000000, .maxUiBase hd0 13 (.v 3) (.s 0)),
    (0x419381F8, 0x00000000, .andBase hd0 14 (.v 3) (.s 0)),
    (0x41A3C1F8, 0x00000000, .orBase hd0 15 (.v 3) (.s 0)),
    (0x41B401F8, 0x00000000, .xorBase hd0 16 (.v 3) (.s 0)),
    (0x41C441F8, 0x00000000, .shlBase hd0 17 (.v 3) (.s 0)),
    (0x41D481F8, 0x00000000, .shrBase hd0 18 (.v 3) (.s 0)),
    (0x41E4C1F8, 0x00000000, .sarBase hd0 19 (.v 3) (.s 0)),
    (0x41F501F8, 0x00000000, .rotBase hd0 20 (.v 3) (.s 0)),
    (0x42007B04, 0x00000000, .faddBase hd0 1 (.tmp 7) (.v 4)),
    (0x42107B04, 0x00000000, .fsubBase hd0 1 (.tmp 7) (.v 4)),
    (0x42207B04, 0x00000000, .fmulBase hd0 1 (.tmp 7) (.v 4)),
    (0x42307B04, 0x00000000, .fminBase hd0 1 (.tmp 7) (.v 4)),
    (0x42407B04, 0x00000000, .fmaxBase hd0 1 (.tmp 7) (.v 4)),
    (0x42828A1E, 0x00000000, .ldsBase hd0 10 (.v 20) (.v 30)),
    (0x42928A1E, 0x00000000, .stsBase hd0 10 (.v 20) (.v 30)),
    (0x42A28A1E, 0x00000000, .ldBase hd0 10 (.v 20) (.v 30)),
    (0x42B28A1E, 0x00000000, .stBase hd0 10 (.v 20) (.v 30)),
    (0x43004177, 0x00000000, .qaddBase hd0 1 (.v 2) .zero),
    (0x43104177, 0x00000000, .qsubBase hd0 1 (.v 2) .zero),
    (0x43204177, 0x00000000, .qmulBase hd0 1 (.v 2) .zero)] : List (IWord × IWord × Instr)),
    (decodeWords t.1 t.2.1).toOption = some t.2.2 ∧ t.2.2.wf = true ∧ encode t.2.2 = (if isLong t.1 then [t.1, t.2.1] else [t.1]) := by decide +kernel

/-- Words of R53, R57, R34, R89 to R97, R364 to R366, packed by hand from the fields of those rules. -/
theorem test_decode_control : ∀ t ∈ ([
    (0x80040045, 0xA3C1FFC0, .chartld hd0 7 (-64) 5 8),
    (0x80080000, 0x9F404009, .chartrd hd0 62 (.s 1) 9),
    (0x8022651C, 0x81FFFFFE, .bindBr ⟨false, 0, 0x13⟩ 0x81 (-2)),
    (0x80240414, 0x01000004, .bindBc hd0 5 1 4),
    (0x80280044, 0x02000006, .bindCall hd0 (.v 17) 2 6),
    (0x802C040C, 0x04000000, .bindRet hd0 (.s 3) 4),
    (0x80300024, 0x087FFFFF, .bindJmp hd0 (.v 9) 8 0x7FFFFF),
    (0x80400000, 0x816FE000, .fork hd0 (.s 2) (.imm (-1)) 0x2000),
    (0x80440000, 0x8251E8E1, .elect hd0 (.s 4) 1),
    (0x8048000B, 0x8251E8F9, .vote hd0 (.s 4) 9 3 5),
    (0x804C0000, 0xA3D1C0FF, .phase hd0 255),
    (0x80500000, 0xA3D1DFFF, .sysc hd0 8191),
    (0x80600000, 0xA3D1C04D, .trap hd0 77),
    (0x80640000, 0xA3C268E2, .eret hd0 (.s 9) 2),
    (0x80680000, 0x03D1C00C, .csrr hd0 (.v 7) 12),
    (0x806C0000, 0xA3F10005, .csrw hd0 (.imm 4) 5),
    (0x80700002, 0x84424004, .csrx hd0 (.s 8) (.s 9) 4 2),
    (0x80740000, 0xA3D1E8E0, .halt hd0),
    (0x80780000, 0xA3FFE8E0, .wfi hd0 (.imm 63))] : List (IWord × IWord × Instr)),
    (decodeWords t.1 t.2.1).toOption = some t.2.2 ∧ t.2.2.wf = true ∧ encode t.2.2 = (if isLong t.1 then [t.1, t.2.1] else [t.1]) := by decide +kernel

/-- Words of R123 to R128, packed by hand from the fields of those rules. -/
theorem test_decode_moves : ∀ t ∈ ([
    (0xA8807800, 0x7FD4E8E0, .mov ⟨true, 13, 3⟩ (.v 255) (.special 11)),
    (0x808404FF, 0x89ABCDEF, .movi hd0 (.s 63) 3 0x89ABCDEF),
    (0x80880000, 0x80D1A8E0, .movs hd0 1 (.tmp 7)),
    (0x808C0000, 0x8080A8EF, .tagset hd0 (.s 1) (.v 2) .poison),
    (0x808C0001, 0xA3F7E8E0, .tagsetFl hd0 (.imm 31)),
    (0x80900000, 0xA380A8E0, .tagget hd0 .none (.v 2)),
    (0x80900001, 0x0351E8E0, .taggetFl hd0 (.v 6))] : List (IWord × IWord × Instr)),
    (decodeWords t.1 t.2.1).toOption = some t.2.2 ∧ t.2.2.wf = true ∧ encode t.2.2 = (if isLong t.1 then [t.1, t.2.1] else [t.1]) := by decide +kernel

/-- Words of R135 to R145, packed by hand from the fields of those rules. -/
theorem test_decode_integer : ∀ t ∈ ([
    (0x81000000, 0x028077A2, .add hd0 (.v 5) (.v 1) (.imm (-3)) .i32 false),
    (0x81040000, 0x028077A2, .sub hd0 (.v 5) (.v 1) (.imm (-3)) .i32 false),
    (0x81080000, 0x028077A2, .mul hd0 (.v 5) (.v 1) (.imm (-3)) .i32 false),
    (0x810C0000, 0x028077A2, .mulhi hd0 (.v 5) (.v 1) (.imm (-3)) .i32 false),
    (0x8110040C, 0x02804053, .mad hd0 (.v 5) (.v 1) (.v 2) (.s 3) .i16 true),
    (0x81140000, 0x02804055, .div hd0 (.v 5) (.v 1) (.v 2) .i4 true),
    (0x81180000, 0x02804055, .rem hd0 (.v 5) (.v 1) (.v 2) .i4 true),
    (0x811C0000, 0x02804055, .min hd0 (.v 5) (.v 1) (.v 2) .i4 true),
    (0x81200000, 0x02804055, .max hd0 (.v 5) (.v 1) (.v 2) .i4 true),
    (0x81240000, 0x028068E1, .abs hd0 (.v 5) (.v 1) .i64),
    (0x81280000, 0x028068E1, .neg hd0 (.v 5) (.v 1) .i64),
    (0x812C0000, 0x0280404E, .and hd0 (.v 5) (.v 1) (.v 2) .gq4),
    (0x81300000, 0x0280404E, .or hd0 (.v 5) (.v 1) (.v 2) .gq4),
    (0x81340000, 0x0280404E, .xor hd0 (.v 5) (.v 1) (.v 2) .gq4),
    (0x81380000, 0x0280404E, .andn hd0 (.v 5) (.v 1) (.v 2) .gq4),
    (0x813C0000, 0x028068EA, .not hd0 (.v 5) (.v 1) .cf32),
    (0x81400000, 0x02804044, .shl hd0 (.v 5) (.v 1) (.v 2) .i8),
    (0x81440000, 0x02804044, .shr hd0 (.v 5) (.v 1) (.v 2) .i8),
    (0x81480000, 0x02804044, .sar hd0 (.v 5) (.v 1) (.v 2) .i8),
    (0x814C0000, 0x02804044, .rot hd0 (.v 5) (.v 1) (.v 2) .i8),
    (0x81500000, 0x028068E2, .clz hd0 (.v 5) (.v 1) .i32),
    (0x81540000, 0x028068E2, .popc hd0 (.v 5) (.v 1) .i32),
    (0x815800CD, 0xA3804052, .cmp hd0 .none (.v 1) (.v 2) .i32 true 5 9 true),
    (0x815C000C, 0x02804047, .sel hd0 (.v 5) (.v 1) (.v 2) (.v 3) .f32),
    (0x81600001, 0x02806000, .addi hd0 (.v 5) (.v 1) 0x2000 .i64 false),
    (0x81800119, 0xA3D1E8E1, .pand hd0 1 2 3 false true),
    (0x81840119, 0xA3D1E8E1, .por hd0 1 2 3 false true),
    (0x81880119, 0xA3D1E8E1, .pxor hd0 1 2 3 false true),
    (0x818C0081, 0xA3D1E8E1, .pnot hd0 1 2 true),
    (0x81900000, 0x6451E8E0, .pget hd0 200),
    (0x81940400, 0xA38068E2, .pset hd0 (.v 1) 0x4001)] : List (IWord × IWord × Instr)),
    (decodeWords t.1 t.2.1).toOption = some t.2.2 ∧ t.2.2.wf = true ∧ encode t.2.2 = (if isLong t.1 then [t.1, t.2.1] else [t.1]) := by decide +kernel

/-- Words of R146 to R158, packed by hand from the fields of those rules. -/
theorem test_decode_floating : ∀ t ∈ ([
    (0x82000005, 0x0280404A, .fadd hd0 (.v 5) (.v 1) (.v 2) .cf32 .rna),
    (0x82040005, 0x0280404A, .fsub hd0 (.v 5) (.v 1) (.v 2) .cf32 .rna),
    (0x82080005, 0x0280404A, .fmul hd0 (.v 5) (.v 1) (.v 2) .cf32 .rna),
    (0x820C001C, 0x01810126, .fma hd0 (.v 3) (.v 4) (.v 9) (.v 7) .f64),
    (0x82100000, 0x02804049, .fmin hd0 (.v 5) (.v 1) (.v 2) .bf16),
    (0x82140000, 0x02804049, .fmax hd0 (.v 5) (.v 1) (.v 2) .bf16),
    (0x82180000, 0x028068E8, .fabs hd0 (.v 5) (.v 1) .f16),
    (0x821C0000, 0x028068EA, .fneg hd0 (.v 5) (.v 1) .cf32),
    (0x8220000F, 0x02804047, .fcmp hd0 (.v 5) (.v 1) (.v 2) .f32 7 1 false),
    (0x82240003, 0x02804047, .fdiv hd0 (.v 5) (.v 1) (.v 2) .f32 .ru),
    (0x82280004, 0x028068E7, .fsqrt hd0 (.v 5) (.v 1) .f32 .rd),
    (0x822C000C, 0x02804049, .fdot hd0 (.v 5) (.v 1) (.v 2) (.v 3) .bf16),
    (0x82400000, 0x028068E7, .rcp hd0 (.v 5) (.v 1) .f32),
    (0x82440000, 0x028068E7, .rsqrt hd0 (.v 5) (.v 1) .f32),
    (0x82480000, 0x028068E7, .exp2 hd0 (.v 5) (.v 1) .f32),
    (0x824C0000, 0x028068E7, .log2 hd0 (.v 5) (.v 1) .f32),
    (0x82500000, 0x028068E7, .sin hd0 (.v 5) (.v 1) .f32),
    (0x82540000, 0x028068E7, .cos hd0 (.v 5) (.v 1) .f32),
    (0x82580000, 0x028068E7, .tanh hd0 (.v 5) (.v 1) .f32),
    (0x8280003A, 0x028068F2, .cvt hd0 (.v 5) (.v 1) .i32 true .rz .f32),
    (0x82840001, 0x02804048, .pack hd0 (.v 5) (.v 1) (.v 2) .f16 false .rne),
    (0x82880001, 0x028068ED, .unpack hd0 (.v 5) (.v 1) .gq8 false true)] : List (IWord × IWord × Instr)),
    (decodeWords t.1 t.2.1).toOption = some t.2.2 ∧ t.2.2.wf = true ∧ encode t.2.2 = (if isLong t.1 then [t.1, t.2.1] else [t.1]) := by decide +kernel

/-- Words of R161, R173, R182, R183, packed by hand from the fields of those rules. -/
theorem test_decode_cross : ∀ t ∈ ([
    (0x82A0002B, 0x02807822, .shfl hd0 (.v 5) (.v 1) (.imm 1) .i32 3 5),
    (0x82A40050, 0x02806042, .bcast hd0 (.v 5) (.v 1) (.s 2) .i32 10),
    (0x82A80112, 0x028068E7, .lreduce hd0 (.v 5) (.v 1) .f32 false 2 2 .rne),
    (0x82AC00A5, 0x028068F1, .lscan hd0 (.v 5) (.v 1) .i64 true 5 4 true .inherit),
    (0x82B0001B, 0x028068E2, .swiz hd0 (.v 5) (.v 1) .i32 0x1B),
    (0x83000001, 0xA3F468EB, .qset hd0 (.imm 17) .q64 1),
    (0x83040002, 0x0180404C, .qadd hd0 (.v 3) (.v 1) (.v 2) .q32 2),
    (0x83080002, 0x0180404C, .qsub hd0 (.v 3) (.v 1) (.v 2) .q32 2),
    (0x830C0002, 0x0180404C, .qmul hd0 (.v 3) (.v 1) (.v 2) .q32 2),
    (0x83100709, 0x018078AB, .qmac hd0 (.v 3) (.v 1) (.imm 5) (.imm 2) .q64 1),
    (0x83140003, 0x018068FC, .qred hd0 (.v 3) (.v 1) .q32 true 3),
    (0x83180725, 0x0100798B, .qbfly hd0 2 (.v 1) (.imm 12) (.imm 9) .q64 1),
    (0x831C0725, 0x0100798B, .qibfly hd0 2 (.v 1) (.imm 12) (.imm 9) .q64 1),
    (0x8320051E, 0x01804057, .hperm hd0 (.v 3) (.v 1) (.v 2) .f32 5),
    (0x83240029, 0x018078AB, .hauto hd0 (.v 3) (.v 1) (.imm 5) .q64 1 10)] : List (IWord × IWord × Instr)),
    (decodeWords t.1 t.2.1).toOption = some t.2.2 ∧ t.2.2.wf = true ∧ encode t.2.2 = (if isLong t.1 then [t.1, t.2.1] else [t.1]) := by decide +kernel

/-- Words of R197, R205 to R209, packed by hand from the fields of those rules. -/
theorem test_decode_matrix : ∀ t ∈ ([
    (0x83800000, 0x828420DA, .mma hd0 (.s 5) 16 (.s 6) 2 true true),
    (0x83840001, 0xE00428E7, .mmai hd0 (.imm 0) 16 .zero 7 false false true),
    (0x83880002, 0x828420CA, .mmag hd0 (.s 5) 16 (.s 6) 2 true false 2),
    (0x838C0000, 0x828420C1, .mmac hd0 (.s 5) 16 (.s 6) 1 false),
    (0x83A00000, 0x82D1E8E3, .accalloc hd0 5 3),
    (0x83A40002, 0x82D1E8EB, .acctry hd0 5 3 9),
    (0x83A80000, 0x82D1E8E3, .accfree hd0 (.s 5) 3),
    (0x83AC0000, 0xEFD1E8E3, .acczero hd0 (.imm 31) 3),
    (0x83B00051, 0x82C18100, .accld hd0 (.s 5) 6 256 1 .cf32),
    (0x83B40001, 0x82C1BF00, .accst hd0 (.s 5) 6 (-256) 1),
    (0x83B80003, 0x104168EA, .mread hd0 32 (.s 5) 2 true 6)] : List (IWord × IWord × Instr)),
    (decodeWords t.1 t.2.1).toOption = some t.2.2 ∧ t.2.2.wf = true ∧ encode t.2.2 = (if isLong t.1 then [t.1, t.2.1] else [t.1]) := by decide +kernel

/-- Words of R226 to R236, packed by hand from the fields of those rules. -/
theorem test_decode_scratchpad : ∀ t ∈ ([
    (0x84000007, 0x01804008, .lds hd0 (.v 3) (.v 1) 8 .f32),
    (0x84040000, 0x81807FF8, .sts hd0 (.s 3) (.v 1) (-8)),
    (0x84080001, 0x01804008, .ldsfe hd0 (.v 3) (.v 1) 8 .i64),
    (0x840C0000, 0xA3804008, .stsfe hd0 .zero (.v 1) 8),
    (0x84100001, 0xA3804008, .sfe hd0 (.v 1) 8 true),
    (0x84200002, 0x018068F2, .tlook hd0 (.v 3) (.v 1) 2 5),
    (0x84240000, 0xA3804043, .tset hd0 (.v 1) (.v 2) 3),
    (0x84280000, 0xA3D1C043, .tinv hd0 (.v 2) 3),
    (0x84400000, 0x81F068E4, .racq hd0 3 (.imm 1) 4),
    (0x84440000, 0xA3F06060, .rpub hd0 (.imm 1) (.s 3)),
    (0x84480000, 0x81F068E4, .rtake hd0 3 (.imm 1) 4),
    (0x844C0000, 0xA3F06060, .rrel hd0 (.imm 1) (.s 3)),
    (0x84600000, 0xA3F06060, .barinit hd0 (.imm 1) (.s 3)),
    (0x84640000, 0x81706060, .bararr hd0 (.s 2) (.imm 1) (.s 3)),
    (0x84680000, 0xA3F06060, .barwait hd0 (.imm 1) (.s 3))] : List (IWord × IWord × Instr)),
    (decodeWords t.1 t.2.1).toOption = some t.2.2 ∧ t.2.2.wf = true ∧ encode t.2.2 = (if isLong t.1 then [t.1, t.2.1] else [t.1]) := by decide +kernel

/-- Words of R250 to R261, R273, R275, R276, R282, R283, R392, R394, R351, packed by hand from the fields of those rules. -/
theorem test_decode_memory : ∀ t ∈ ([
    (0x84800689, 0x00C08008, .ld hd0 (.v 1) (.s 2) 8 1 .i64 true 6),
    (0x84840382, 0x00C08008, .st hd0 (.v 1) (.s 2) 8 2 true 3),
    (0x84880012, 0x00808075, .atom hd0 (.v 1) (.v 2) (.v 3) (.v 4) 5 10),
    (0x848C0002, 0xA3808072, .redms hd0 (.v 2) (.v 3) .i32 true 2),
    (0x84900001, 0xA3808040, .pref hd0 (.v 2) 64 1),
    (0x84A00015, 0xA3D1E8F2, .fence hd0 2 6 0x0A),
    (0x84A40000, 0xA3D1E8E2, .waitf hd0 2),
    (0x84A80010, 0x00808066, .waitv hd0 (.v 1) (.v 2) (.v 3) (.v 4) 6),
    (0x84AC0001, 0x00808072, .wakev hd0 (.v 1) (.v 2) (.v 3) 2 6),
    (0x85000120, 0xE042A8E2, .copy hd0 (.imm 0) 10 .zero 2 0 false false 9 false),
    (0x85040711, 0x80C0A07A, .copyl hd0 (.s 1) (.s 2) (.s 3) (.imm 4) 2 3 true),
    (0x850800FA, 0xA3C08040, .cmap hd0 2 64 2 31),
    (0x85200000, 0x80C0B864, .stgpost hd0 (.s 1) (.s 2) (.imm 3) 4),
    (0x85240000, 0xA3F0E041, .stgadv hd0 (.imm 3) (.s 2) true),
    (0x85400000, 0x80C0B864, .npost hd0 (.s 1) (.s 2) (.imm 3) 4),
    (0x85440004, 0x82C1A0E6, .ncqw hd0 (.s 5) (.s 6) (.s 7) 6 16),
    (0x85600000, 0x80FFE064, .launch hd0 (.s 1) (.imm 63) (.s 3) 4)] : List (IWord × IWord × Instr)),
    (decodeWords t.1 t.2.1).toOption = some t.2.2 ∧ t.2.2.wf = true ∧ encode t.2.2 = (if isLong t.1 then [t.1, t.2.1] else [t.1]) := by decide +kernel

/-- Words of R302, R303, R305, R315, packed by hand from the fields of those rules. -/
theorem test_decode_system : ∀ t ∈ ([
    (0x85800003, 0xA3CF607C, .rngset hd0 61 (.s 3) 4 15),
    (0x85840000, 0xA3C06064, .atinv hd0 (.s 1) (.s 3) 4 0),
    (0x85880000, 0x01006064, .pgq hd0 (.v 2) (.v 1) (.s 3) 4),
    (0x85A00000, 0x80C0A8E4, .ecreate hd0 1 (.s 2) 4),
    (0x85A40000, 0x80C0A8E4, .eadd hd0 1 (.s 2) 4),
    (0x85A40000, 0x80C0A8EC, .eaddDev hd0 1 (.s 2) 4),
    (0x85A80000, 0x80C0A8E4, .einit hd0 1 (.s 2) 4),
    (0x85AC0000, 0x80C0A060, .eenter hd0 1 (.s 2) (.s 3)),
    (0x85B00000, 0xA3D1E8E0, .eexit hd0),
    (0x85B40000, 0x80CF28E4, .eseal hd0 1 60 4),
    (0x85B80000, 0x80CF68E4, .eunseal hd0 1 61 4),
    (0x85BC0000, 0x80C0A064, .ereport hd0 1 (.s 2) (.s 3) 4),
    (0x85C00000, 0x80C0A8E4, .edestroy hd0 1 (.s 2) 4)] : List (IWord × IWord × Instr)),
    (decodeWords t.1 t.2.1).toOption = some t.2.2 ∧ t.2.2.wf = true ∧ encode t.2.2 = (if isLong t.1 then [t.1, t.2.1] else [t.1]) := by decide +kernel
/-! ### States and operands that meet the hypotheses of the statements -/

/-- A state in which an instruction of `len` bytes of the one ply stands to issue, the ply being as `f` makes it. -/
def onPly (f : Ply → Ply) (len : Nat := 8) : State :=
  { State.reset with nextId := 3, plies := [f (placedPly 1 2 0)], cur := some { ply := 1, course := 2, addr := placeVa, len } }

/-- The issue of an instruction, where it has one. -/
def issueOf (s : State) (i : Instr) : Issue :=
  (s.issue i).getD ⟨placedPly 0 0 0, placedPly 0 0 0, Course.fresh 0 0 [] 0, i, shapeOf i, headOfInstr i, 0, 0, 0, 0, 0, 0, none, [], 0, []⟩

/-- `Issues`, computed. -/
def issuesB (s : State) (i : Instr) (extra : Issue → List FaultAt) (adjust : Issue → Issue := id) : Bool :=
  let x := adjust (issueOf s i)
  (s.issue i).isSome && (s.wordFaults x (extra x)).isEmpty
    && (match x.sh.slot with | some n => decide (s.sbCount x.course n < 63) | none => true)
    && !x.interlock (s.longDests x.ply.handle x.course) && (s.struck x).isEmpty
    && !x.stallBreach (s.longDests x.ply.handle x.course)

theorem issue_eq (s : State) (i : Instr) (h : (s.issue i).isSome = true) : s.issue i = some (issueOf s i) := by
  unfold issueOf
  cases hx : s.issue i with
  | none => rw [hx] at h; cases h
  | some x => rfl

theorem issues_of (s : State) (i : Instr) (extra : Issue → List FaultAt) (adjust : Issue → Issue)
    (h : issuesB s i extra adjust = true) : Issues s i extra (adjust (issueOf s i)) adjust := by
  simp only [issuesB, Bool.and_eq_true, List.isEmpty_iff, Bool.not_eq_true'] at h
  obtain ⟨⟨⟨⟨⟨h1, h2⟩, h3⟩, h4⟩, h5⟩, h6⟩ := h
  refine ⟨by rw [issue_eq s i h1]; rfl, h2, ?_, h4, h5, h6⟩
  intro n hn
  rw [hn] at h3
  simpa using h3

/-- Some state and issue meet the hypotheses of a statement about an instruction. -/
def Meets (i : Instr) (extra : Issue → List FaultAt) (ok : State → Issue → Prop) (adjust : State → Issue → Issue := fun _ => id) : Prop :=
  ∃ s x, Issues s i extra x (adjust s) ∧ ok s x

theorem meets_as (s : State) {i : Instr} {extra : Issue → List FaultAt} {ok : State → Issue → Prop} {adjust : State → Issue → Issue}
    (h : issuesB s i extra (adjust s) = true) (hok : ok s (adjust s (issueOf s i))) : Meets i extra ok adjust :=
  ⟨s, adjust s (issueOf s i), issues_of s i extra (adjust s) h, hok⟩

theorem meets_of (s : State) {i : Instr} {extra : Issue → List FaultAt} {ok : State → Issue → Prop}
    (h : issuesB s i extra = true) (hok : ok s (issueOf s i)) : Meets i extra ok := meets_as s h hok

theorem meets_each (s : State) {l : List Instr} {extra : Issue → List FaultAt} {ok : State → Issue → Prop}
    (h : l.all (issuesB s · extra) = true) (hok : ∀ i ∈ l, ok s (issueOf s i)) : ∀ i ∈ l, Meets i extra ok :=
  fun i hi => meets_of s (List.all_eq_true.mp h i hi) (hok i hi)

/-- `Holds`, computed. -/
def holdsB (x : Issue) (g : Nat) (f : Fmt) (src : Src) : Bool :=
  match src with
  | .zero | .imm _ => true
  | .special k => k == 1 || f == .i64
  | src => (x.reg g src).tag == f && f != .poison && (x.reg g src).val &&& reservedBits f == 0

theorem holds_iff (x : Issue) (g : Nat) (f : Fmt) (src : Src) : Holds x g f src ↔ holdsB x g f src = true := by
  cases src <;> simp [Holds, holdsB, and_assoc]

/-- `Readable`, computed. -/
def readableB (x : Issue) (g : Nat) (src : Src) : Bool :=
  match src with
  | .zero | .imm _ | .special _ => true
  | src => (x.reg g src).tag != .poison

theorem readable_iff (x : Issue) (g : Nat) (src : Src) : Readable x g src ↔ readableB x g src = true := by
  cases src <;> simp [Readable, readableB]

/-- Every fibre holds these values of a format in v1, v2 and v3, the ply in s1, s2 and s3 as I64. -/
def lanesPly (f : Fmt) (a b c : Word) (p : Ply) : Ply :=
  { p with fibres := p.fibres.map fun y => { y with v := [(1, ⟨a, f⟩), (2, ⟨b, f⟩), (3, ⟨c, f⟩)] }
           s := [(1, ⟨a, .i64⟩), (2, ⟨b, .i64⟩), (3, ⟨c, .i64⟩)] }

/-- Only fibre 0 is live, and its course is alone. -/
def alonePly (p : Ply) : Ply := { p with courses := [Course.fresh 2 0 [0] placeVa] }

def lanes (f : Fmt) (a b c : Word) (ctl : Word := 4) : State := onPly fun p => { lanesPly f a b c p with plyCtl := ctl }

/-- The tree of ASID 0 that `placeTree` gives a reset state, written out. -/
def tree : State :=
  { State.reset with
    mem := [(65538, 2), (65543, 0x40), (69633, 0x20), (69634, 1), (69639, 0x40), (73738, 3), (73743, 0x9E), (131073, 0x10), (131074, 1), (131079, 0x40)]
    roots := [(0, some 65536)]
    owners := [(1, { Owner.free with state := 1 }), (2, { Owner.free with state := 1 }),
      (3, { state := 1, kind := 1, ceil := 7, enc := 0, gen := 0, iapg := 1 })] }

theorem tree_is_placed : tree = State.reset.placeTree := by decide +kernel

/-- A state as `onPly` makes it, with these bytes at the address of the instruction. -/
def onPage (bytes : List Byte) (f : Ply → Ply) (len : Nat := 8) : State :=
  { tree with nextId := 3, plies := [f (placedPly 1 2 0)], cur := some { ply := 1, course := 2, addr := placeVa, len }, mem := memWrite tree.mem (flat 0 (3 * 65536)) bytes }

/-- The words of a list, as bytes. -/
def wordBytes (l : List Nat) : List Byte := l.flatMap (bytesLE 4)

theorem ok_of {ε α : Type} {e : Except ε α} {v : α} (h : e.toOption = some v) : e = .ok v := by
  cases e with
  | error _ => cases h
  | ok w => simpa [Except.toOption] using h

/-- The bytes of instructions. -/
def codeOf (l : List Instr) : List Byte := (l.flatMap encode).flatMap fun (w : BitVec 32) => bytesLE 4 w.toNat

/-- An operation of ply 1, of its course `c`, with these fibres outstanding. -/
def opOf (id c : Nat) (left : List Nat) (dests : List Target) (body : OpBody) (addr : Nat := 0) (counted : Bool := true)
    (perFibre : Bool := false) : Op where
  id := id
  ply := 1
  course := c
  addr := addr
  time := 0
  stall := 0
  counted := counted
  perFibre := perFibre
  left := left
  dests := dests
  asid := 0
  pages := []
  body := body

theorem met_LongIntegerResultsAreExactThenNarrowed :
    ∀ i ∈ ([.add hd0 (.v 5) (.v 1) (.v 2) .i32 false, .sub hd0 (.v 5) (.v 1) (.v 2) .i32 true, .mul hd0 (.v 5) (.v 1) (.v 2) .i32 false,
      .mulhi hd0 (.v 5) (.v 1) (.v 2) .i32 true, .mad hd0 (.v 5) (.v 1) (.v 2) (.v 3) .i32 false, .min hd0 (.v 5) (.v 1) (.v 2) .i32 false,
      .max hd0 (.v 5) (.v 1) (.v 2) .i32 true, .abs hd0 (.v 5) (.v 1) .i32, .neg hd0 (.v 5) (.v 1) .i32,
      .addi hd0 (.v 5) (.v 1) (-1) .i32 false] : List Instr), Meets i noExtra fun _ x => AllHold .i32 [.v 1, .v 2, .v 3] x :=
  meets_each (lanes .i32 0x8000000000000001 0xFFFFFFFF7FFFFFFF 5) (by decide +kernel)
    (by simp only [AllHold, holds_iff]; decide +kernel)

theorem met_BaseIntegerResultsFollowTheirSources :
    ∀ i ∈ ([.addBase hd0 5 (.v 1) (.v 2), .subBase hd0 5 (.v 1) (.v 2), .mulBase hd0 5 (.v 1) (.v 2), .mulhiIBase hd0 5 (.v 1) (.v 2),
      .mulhiUiBase hd0 5 (.v 1) (.v 2), .minIBase hd0 5 (.v 1) (.v 2), .minUiBase hd0 5 (.v 1) (.v 2), .maxIBase hd0 5 (.v 1) (.v 2),
      .maxUiBase hd0 5 (.v 1) (.v 2)] : List Instr), Meets i noExtra fun _ x => BaseHold Fmt.isInt [.v 1, .v 2] x :=
  meets_each (lanes .i16 0x8000000000000001 0xFFFFFFFF7FFFFFFF 5) (by decide +kernel)
    (by simp only [BaseHold, holds_iff, readable_iff]; decide +kernel)

/-- A division by zero in one element and an overflow in another, without divtrap. -/
theorem met_DivisionTruncatesAndItsCornersRaiseFlags :
    (∀ i ∈ ([.div hd0 (.v 5) (.v 1) (.v 2) .i32 false, .rem hd0 (.v 5) (.v 1) (.v 2) .i32 false] : List Instr),
      Meets i noExtra fun _ x => AllHold .i32 [.v 1, .v 2] x ∧ x.ply.divtrap = false ∧ ∃ g ∈ x.active,
        intElem x g .i32 false (.v 2) 0 = 0 ∧ intElem x g .i32 false (.v 1) 1 = -(2 ^ 31) ∧ intElem x g .i32 false (.v 2) 1 = -1)
    ∧ ∀ i ∈ ([.div hd0 (.v 5) (.v 1) (.v 2) .i32 false, .rem hd0 (.v 5) (.v 1) (.v 2) .i32 false] : List Instr),
      Meets i noExtra fun _ x => AllHold .i32 [.v 1, .v 2] x ∧ x.ply.divtrap = true ∧ ∀ g ∈ x.active, ∀ e < 2,
        intElem x g .i32 false (.v 2) e ≠ 0 ∧ intElem x g .i32 false (.v 2) e ≠ -1 :=
  ⟨meets_each (lanes .i32 0x8000000000000007 0xFFFFFFFF00000000 0) (by decide +kernel)
      (by simp only [AllHold, holds_iff]; decide +kernel),
    meets_each (lanes .i32 0x8000000000000007 0x0000000200000003 0 6) (by decide +kernel)
      (by simp only [AllHold, holds_iff]; decide +kernel)⟩

theorem met_DivisionTrapsUnderDivtrap :
    (Meets (.div hd0 (.v 5) (.v 1) (.v 2) .i32 false) noExtra fun _ x => x.active = [0] ∧ x.course.fibres = [0]
      ∧ 0 < x.ply.fibres.length ∧ AllHold .i32 [.v 1, .v 2] x ∧ x.hub = false ∧ x.ply.divtrap = true
      ∧ intElem x 0 .i32 false (.v 2) 0 = 0)
    ∧ Meets (.rem hd0 (.v 5) (.v 1) (.v 2) .i32 false) noExtra fun _ x => x.active = [0] ∧ x.course.fibres = [0]
      ∧ 0 < x.ply.fibres.length ∧ AllHold .i32 [.v 1, .v 2] x ∧ x.hub = false ∧ x.ply.divtrap = true
      ∧ intElem x 0 .i32 false (.v 1) 1 = -(2 ^ 31) ∧ intElem x 0 .i32 false (.v 2) 1 = -1 :=
  ⟨meets_of (onPly fun p => { lanesPly .i32 0x8000000000000007 0xFFFFFFFF00000000 0 (alonePly p) with plyCtl := 6 }) (by decide +kernel)
      (by simp only [AllHold, holds_iff]; decide +kernel),
    meets_of (onPly fun p => { lanesPly .i32 0x8000000000000007 0xFFFFFFFF00000002 0 (alonePly p) with plyCtl := 6 }) (by decide +kernel)
      (by simp only [AllHold, holds_iff]; decide +kernel)⟩

/-- The two sources have different tags. -/
theorem met_BitwiseResultsBitByBit :
    ∀ i ∈ ([.and hd0 (.v 5) (.v 1) (.s 2) .f32, .or hd0 (.v 5) (.v 1) (.s 2) .gq4, .xor hd0 (.v 5) (.v 1) (.s 2) .q64,
      .andn hd0 (.v 5) (.v 1) (.s 2) .raw, .not hd0 (.v 5) (.v 1) .i4, .andBase hd0 5 (.v 1) (.s 2), .orBase hd0 5 (.v 1) (.s 2),
      .xorBase hd0 5 (.v 1) (.s 2)] : List Instr), Meets i noExtra fun _ x => AllReadable [.v 1, .s 2] x :=
  meets_each (lanes .i8 0x8000000000000001 0xFFFFFFFF7FFFFFFF 5) (by decide +kernel)
    (by simp only [AllReadable, readable_iff]; decide +kernel)

/-- Counts of 0, of the width and beyond it. -/
theorem met_ShiftsMoveTheBitsOfEachElement :
    (∀ i ∈ ([.shl hd0 (.v 5) (.v 1) (.v 2) .i16, .shr hd0 (.v 5) (.v 1) (.v 2) .i16, .sar hd0 (.v 5) (.v 1) (.v 2) .i16,
      .rot hd0 (.v 5) (.v 1) (.v 2) .i16] : List Instr), Meets i noExtra fun _ x => AllHold .i16 [.v 1, .v 2] x)
    ∧ ∀ i ∈ ([.shlBase hd0 5 (.v 1) (.v 2), .shrBase hd0 5 (.v 1) (.v 2), .sarBase hd0 5 (.v 1) (.v 2),
      .rotBase hd0 5 (.v 1) (.v 2)] : List Instr), Meets i noExtra fun _ x => BaseHold Fmt.isInt [.v 1, .v 2] x :=
  ⟨meets_each (lanes .i16 0x8000000000000001 0x0000000F00100011 0) (by decide +kernel) (by simp only [AllHold, holds_iff]; decide +kernel),
    meets_each (lanes .i16 0x8000000000000001 0x0000000F00100011 0) (by decide +kernel)
      (by simp only [BaseHold, holds_iff, readable_iff]; decide +kernel)⟩

theorem met_CountsComparisonsAndSelection :
    (∀ i ∈ ([.clz hd0 (.v 5) (.v 1) .i32, .popc hd0 (.v 5) (.v 1) .i32, .cmp hd0 (.v 5) (.v 1) (.v 2) .i32 false 2 3 true,
      .cmp hd0 .none (.v 1) (.v 2) .i32 true 5 3 false] : List Instr), Meets i noExtra fun _ x => AllHold .i32 [.v 1, .v 2] x)
    ∧ Meets (.sel hd0 (.v 5) (.v 1) (.v 2) (.imm 1) .f32) noExtra fun _ x =>
      AllHold .f32 [.v 1, .v 2] x ∧ AllHold Fmt.f32.index [.imm 1] x :=
  ⟨meets_each (lanes .i32 0 0x80000000 0) (by decide +kernel) (by simp only [AllHold, holds_iff]; decide +kernel),
    meets_of (lanes .f32 0 0x80000000 0) (by decide +kernel) (by simp only [AllHold, holds_iff]; decide +kernel)⟩

theorem met_PredicateOperations :
    (∀ i ∈ ([.pand hd0 1 0 2 false true, .por hd0 1 0 2 false true, .pxor hd0 1 0 2 false true, .pnot hd0 1 0 false, .pget hd0 5] : List Instr),
      Meets i noExtra fun _ _ => True)
    ∧ Meets (.pset hd0 (.v 1) 0x4001) noExtra fun _ x => ∀ g ∈ x.active, Holds x g .i64 (.v 1) ∨ Holds x g .raw (.v 1) :=
  ⟨meets_each (lanes .i64 0 0 0) (by decide +kernel) (fun _ _ => trivial),
    meets_of (lanes .i64 0x8002 0 0) (by decide +kernel) (by simp only [holds_iff]; decide +kernel)⟩

/-- A poisoned source for MOV, a destination that is not poisoned for MOVI.HI. -/
theorem met_MovesCopyValueAndTag :
    (∀ i ∈ ([.mov hd0 (.v 5) (.v 1), .movBase hd0 5 (.v 1), .movi hd0 (.v 5) 0 1, .movi hd0 (.v 5) 1 1, .movi hd0 (.v 5) 2 1,
      .tagget hd0 (.v 5) (.v 1), .taggetBase hd0 5 (.v 1)] : List Instr), Meets i noExtra fun _ _ => True)
    ∧ (Meets (.movi hd0 (.v 1) 3 1) noExtra fun _ x => ∀ g ∈ x.active, (x.oldDst g (.v 1)).tag ≠ .poison)
    ∧ ∀ i ∈ ([.tagset hd0 (.v 5) (.v 1) .poison, .tagsetBase hd0 5 (.v 1) .gq4] : List Instr),
      Meets i noExtra fun _ x => AllReadable [.v 1] x :=
  ⟨meets_each (lanes .poison 3 0 0) (by decide +kernel) (fun _ _ => trivial), meets_of (lanes .f32 3 0 0) (by decide +kernel) (by decide +kernel),
    meets_each (lanes .f32 3 0 0) (by decide +kernel) (by simp only [AllReadable, readable_iff]; decide +kernel)⟩

theorem met_ScalarMovesAndStickyFlags :
    (∀ i ∈ ([.movs hd0 7 (.v 1), .movsBase hd0 7 (.v 1), .tagset hd0 (.s 7) (.v 1) .f32, .tagget hd0 (.s 7) (.v 1), .tagsetFl hd0 (.v 1),
      .taggetFl hd0 (.v 5), .taggetFl hd0 (.s 7)] : List Instr), Meets i noExtra fun _ x => x.flagsPending = false
        ∧ Readable x (x.active.headD 0) (.v 1) ∧ ∀ g ∈ x.active, Holds x g .i64 (.v 1) ∨ Holds x g .raw (.v 1)) :=
  meets_each (lanes .i64 0x1F 0 0) (by decide +kernel) (by simp only [holds_iff, readable_iff]; decide +kernel)

/-- 1.5 stands at a pattern of binary16; 1 + 2^-11 stands in the middle above one; 2^16 overflows. -/
theorem met_RoundingPicksTheNeighbourOfTheMode :
    IsBin bin16
    ∧ (0x3E00 < bin16.top * 2 ^ bin16.f ∧ leScaled (patSig bin16 0x3E00) (patExp bin16 0x3E00) 3 (-1)
      ∧ ¬ leScaled (patSig bin16 0x3E01) (patExp bin16 0x3E01) 3 (-1))
    ∧ (0x3C00 < bin16.top * 2 ^ bin16.f ∧ leScaled (patSig bin16 0x3C00) (patExp bin16 0x3C00) 2049 (-11)
      ∧ ¬ leScaled (patSig bin16 0x3C01) (patExp bin16 0x3C01) 2049 (-11))
    ∧ leScaled (patSig bin16 (bin16.top * 2 ^ bin16.f)) (patExp bin16 (bin16.top * 2 ^ bin16.f)) 1 16 := by
  simp only [IsBin, leScaled]
  decide +kernel

theorem met_FloatArithmeticRoundsOnce :
    (∀ i ∈ ([.fadd hd0 (.v 5) (.v 1) (.v 2) .f32 .rz, .fsub hd0 (.v 5) (.v 1) (.v 2) .f32 .inherit, .fmul hd0 (.v 5) (.v 1) (.v 2) .f32 .ru,
      .fma hd0 (.v 5) (.v 1) (.v 2) (.v 3) .f32, .fdiv hd0 (.v 5) (.v 1) (.v 2) .f32 .rd, .fsqrt hd0 (.v 5) (.v 1) .f32 .rna] : List Instr),
      Meets i noExtra fun _ x => AllHold .f32 [.v 1, .v 2, .v 3] x ∧ NoTraps x)
    ∧ ∀ i ∈ ([.faddBase hd0 5 (.v 1) (.v 2), .fsubBase hd0 5 (.v 1) (.v 2), .fmulBase hd0 5 (.v 1) (.v 2)] : List Instr),
      Meets i noExtra fun _ x => BaseHold Fmt.isFlt5 [.v 1, .v 2] x ∧ NoTraps x :=
  ⟨meets_each (lanes .f32 0x3F8000007F800000 0x00000001C0490FDB 0) (by decide +kernel)
      (by simp only [AllHold, holds_iff, NoTraps]; decide +kernel),
    meets_each (lanes .bf16 0x3F8000007F800000 0x00000001C0490FDB 0) (by decide +kernel)
      (by simp only [BaseHold, holds_iff, readable_iff, NoTraps]; decide +kernel)⟩

theorem met_ComplexArithmeticRoundsEachPart :
    ∀ i ∈ ([.fadd hd0 (.v 5) (.v 1) (.v 2) .cf32 .rz, .fsub hd0 (.v 5) (.v 1) (.v 2) .cf32 .inherit, .fmul hd0 (.v 5) (.v 1) (.v 2) .cf32 .ru,
      .fma hd0 (.v 5) (.v 1) (.v 2) (.v 3) .cf32, .fneg hd0 (.v 5) (.v 1) .cf32] : List Instr),
      Meets i noExtra fun _ x => AllHold .cf32 [.v 1, .v 2, .v 3] x ∧ NoTraps x :=
  meets_each (lanes .cf32 0x3F8000007F800000 0x00000001C0490FDB 0) (by decide +kernel)
    (by simp only [AllHold, holds_iff, NoTraps]; decide +kernel)

/-- A NaN and a number, and two numbers. -/
theorem met_FloatSelectionSignsAndComparison :
    (∀ i ∈ ([.fmin hd0 (.v 5) (.v 1) (.v 2) .f32, .fmax hd0 (.v 5) (.v 1) (.v 2) .f32, .fabs hd0 (.v 5) (.v 1) .f32,
      .fneg hd0 (.v 5) (.v 1) .f32, .fcmp hd0 (.v 5) (.v 1) (.v 2) .f32 2 1 true] : List Instr),
      Meets i noExtra fun _ x => AllHold .f32 [.v 1, .v 2] x ∧ NoTraps x ∧ x.ftz = false ∧ ∀ g ∈ x.active,
        (num x g .f32 (.v 1) 0).isNan = true ∧ (num x g .f32 (.v 1) 1).cmp (num x g .f32 (.v 2) 1) = -1)
    ∧ ∀ i ∈ ([.fminBase hd0 5 (.v 1) (.v 2), .fmaxBase hd0 5 (.v 1) (.v 2)] : List Instr),
      Meets i noExtra fun _ x => BaseHold Fmt.isFlt4 [.v 1, .v 2] x ∧ NoTraps x :=
  ⟨meets_each (lanes .f32 0x3F8000007FA00000 0x40490FDB3F800000 0) (by decide +kernel)
      (by simp only [AllHold, holds_iff, NoTraps]; decide +kernel),
    meets_each (lanes .f32 0x3F8000007FA00000 0x40490FDB3F800000 0) (by decide +kernel)
      (by simp only [BaseHold, holds_iff, readable_iff, NoTraps]; decide +kernel)⟩

theorem met_DotSpecialFunctionsAndConversions :
    (Meets (.fdot hd0 (.v 5) (.v 1) (.v 2) .zero .f16) noExtra fun _ x =>
      AllHold .f16 [.v 1, .v 2] x ∧ AllHold .f32 [.zero] x ∧ NoTraps x)
    ∧ (∀ i ∈ ([.rcp hd0 (.v 5) (.v 1) .f16, .rsqrt hd0 (.v 5) (.v 1) .f16, .exp2 hd0 (.v 5) (.v 1) .f16, .log2 hd0 (.v 5) (.v 1) .f16,
      .sin hd0 (.v 5) (.v 1) .f16, .cos hd0 (.v 5) (.v 1) .f16, .tanh hd0 (.v 5) (.v 1) .f16, .cvt hd0 (.v 5) (.v 1) .i16 true .rz .f16,
      .cvt hd0 (.v 5) (.v 1) .bf16 false .inherit .f16, .cvt hd0 (.v 5) (.v 1) .f16 false .rz .f16, .unpack hd0 (.v 5) (.v 1) .f16 false true] : List Instr),
      Meets i noExtra fun _ x => AllHold .f16 [.v 1] x ∧ NoTraps x)
    ∧ (∀ i ∈ ([.cvt hd0 (.v 5) (.v 1) .f32 true .rz .i32, .pack hd0 (.v 5) (.v 1) (.v 2) .i16 true .inherit,
      .unpack hd0 (.v 5) (.v 1) .i32 true false] : List Instr), Meets i noExtra fun _ x => AllHold .i32 [.v 1, .v 2] x ∧ NoTraps x)
    ∧ (Meets (.pack hd0 (.v 5) (.v 1) (.v 2) .bf16 false .ru) noExtra fun _ x => AllHold Fmt.bf16.packSrc [.v 1, .v 2] x ∧ NoTraps x)
    ∧ Meets (.unpack hd0 (.v 5) (.v 1) .gq4 false true) noExtra fun _ x => AllHold .gq4 [.v 1] x :=
  ⟨meets_of (lanes .f16 0x3C007C0000010000 0x7C00FFFF3C00C000 0) (by decide +kernel) (by simp only [AllHold, holds_iff, NoTraps]; decide +kernel),
    meets_each (lanes .f16 0x3C007C0000010000 0 0) (by decide +kernel) (by simp only [AllHold, holds_iff, NoTraps]; decide +kernel),
    meets_each (lanes .i32 0x80000000FFFFFFFF 5 0) (by decide +kernel) (by simp only [AllHold, holds_iff, NoTraps]; decide +kernel),
    meets_of (lanes .f32 0x3F8000017F800000 5 0) (by decide +kernel) (by simp only [AllHold, holds_iff, NoTraps]; decide +kernel),
    meets_of (lanes .gq4 0x123456789ABCDEF0 5 0) (by decide +kernel) (by simp only [AllHold, holds_iff]; decide +kernel)⟩

theorem met_SpecialFunctionsHaveTheirSpecialValues : IsBin bin32 ∧ IsBin bin16 ∧ IsBin binB16 ∧ 0 < 1 := by
  simp only [IsBin]; decide
theorem met_PermutationsDeliverTheNamedElement :
    (∀ i ∈ ([.shfl hd0 (.v 5) (.v 1) (.imm 3) .i16 0 0, .shfl hd0 (.v 5) (.v 1) (.imm 3) .i16 0 3, .hperm hd0 (.v 5) (.v 1) (.imm 3) .i16 2] : List Instr),
      Meets i noExtra fun _ x => AllHold .i16 [.v 1] x ∧ AllHold Fmt.i16.index [.imm 3] x)
    ∧ (∀ i ∈ ([.shfl hd0 (.v 5) (.v 1) (.s 2) .i16 1 0, .shfl hd0 (.v 5) (.v 1) (.s 2) .i16 2 4, .shfl hd0 (.v 5) (.v 1) (.s 2) .i16 3 10,
      .bcast hd0 (.v 5) (.v 1) (.s 2) .i16 3] : List Instr), Meets i noExtra fun _ x => AllHold .i16 [.v 1] x ∧ UniformCtl x (.s 2))
    ∧ Meets (.swiz hd0 (.v 5) (.v 1) .i16 0x1B) noExtra fun _ x => AllHold .i16 [.v 1] x :=
  ⟨meets_each (lanes .i16 0x0004000300020001 2 0) (by decide +kernel) (by simp only [AllHold, holds_iff]; decide +kernel),
    meets_each (lanes .i16 0x0004000300020001 2 0) (by decide +kernel) (by simp only [AllHold, UniformCtl, holds_iff]; decide +kernel),
    meets_of (lanes .i16 0x0004000300020001 2 0) (by decide +kernel) (by simp only [AllHold, holds_iff]; decide +kernel)⟩

theorem met_ReductionsAndScansCombineSegments :
    ∀ i ∈ ([.lreduce hd0 (.v 5) (.v 1) .i32 false 0 3 .inherit, .lscan hd0 (.v 5) (.v 1) .i32 true 5 0 true .inherit] : List Instr),
      Meets i noExtra fun _ x => AllHold .i32 [.v 1] x ∧ NoTraps x :=
  meets_each (lanes .i32 0x0000000300000001 2 0) (by decide +kernel) (by simp only [AllHold, NoTraps, holds_iff]; decide +kernel)

theorem met_IntegerCombinationIsExact : Fmt.i8.isInt = true ∧ ∀ y ∈ [255, 0, 128], y < 2 ^ Fmt.i8.width := by decide

/-- The modulus 17 in modulus register 1, and a residue that is not below it. -/
def modular (f : Fmt) : State :=
  onPly fun p => { lanesPly f 20 5 2 p with qm := [(0, (qsetValue f 17).getD QMod.empty), (1, (qsetValue f 17).getD QMod.empty)] }

theorem modular_ok (f : Fmt) (i : Instr) (n : Nat) (h : qsetValue f 17 = some ((issueOf (modular f) i).modulus n)) :
    ModOk (issueOf (modular f) i) n f := ⟨17, h⟩

theorem met_ModularResultsAreExactResidues :
    (∀ i ∈ ([.qadd hd0 (.v 5) (.v 1) (.v 2) .q64 1, .qsub hd0 (.v 5) (.v 1) (.v 2) .q64 1, .qmul hd0 (.v 5) (.v 1) (.v 2) .q64 1,
      .qmac hd0 (.v 5) (.v 1) (.v 2) (.v 3) .q64 1, .qbfly hd0 6 (.v 1) (.v 2) (.v 3) .q64 1, .qibfly hd0 6 (.v 1) (.v 2) (.v 3) .q64 1,
      .qred hd0 (.v 5) (.v 1) .q64 false 1] : List Instr), Meets i noExtra fun _ x => AllHold .q64 [.v 1, .v 2, .v 3] x ∧ ModOk x 1 .q64 ∧ NoTraps x)
    ∧ (∀ i ∈ ([.qaddBase hd0 5 (.v 1) (.v 2), .qsubBase hd0 5 (.v 1) (.v 2), .qmulBase hd0 5 (.v 1) (.v 2)] : List Instr),
      Meets i noExtra fun _ x => BaseHold (· == .q64) [.v 1, .v 2] x ∧ ModOk x 0 .q64 ∧ NoTraps x)
    ∧ Meets (.qred hd0 (.v 5) (.s 1) .q64 false 1) noExtra fun _ x => AllHold Fmt.q64.qint [.s 1] x ∧ ModOk x 1 .q64 := by
  refine ⟨meets_each (modular .q64) (by decide +kernel) fun i hi => ?_, meets_each (modular .q64) (by decide +kernel) fun i hi => ?_,
    meets_of (modular .q64) (by decide +kernel) ⟨by simp only [AllHold, holds_iff]; decide +kernel, modular_ok _ _ _ (by decide +kernel)⟩⟩
  · refine ⟨?_, modular_ok _ _ _ ?_, ?_⟩ <;> revert i hi <;> (try simp only [AllHold, NoTraps, holds_iff]) <;> decide +kernel
  · refine ⟨?_, modular_ok _ _ _ ?_, ?_⟩ <;> revert i hi <;> (try simp only [BaseHold, NoTraps, holds_iff, readable_iff]) <;> decide +kernel

/-- An odd number and an even one, over the eight elements of the ply. -/
theorem met_AutomorphismMovesCoefficients :
    ∀ i ∈ ([.hauto hd0 (.v 5) (.v 1) (.imm 5) .q64 1 3, .hauto hd0 (.v 5) (.v 1) (.imm 2) .q64 1 0] : List Instr), Meets i noExtra fun _ x =>
      AllHold .q64 [.v 1] x ∧ ModOk x 1 .q64 ∧ NoTraps x ∧ segment x .q64 3 = 2 ^ 3 ∧ segment x .q64 0 = 2 ^ 3 :=
  meets_each (modular .q64) (by decide +kernel) fun i hi => by
    refine ⟨?_, modular_ok _ _ _ ?_, ?_⟩ <;> revert i hi <;> (try simp only [AllHold, NoTraps, segment, holds_iff]) <;> decide +kernel

/-- A legal modulus, one above the limit of Q32, and no active fibre. -/
theorem met_QsetLoadsTheBarrettConstant :
    (Meets (.qset hd0 (.s 1) .q64 1) noExtra fun _ x => UniformCtl x (.s 1) ∧ x.active ≠ [] ∧ 2 ≤ (x.uniform (.s 1)).toNat
      ∧ (x.uniform (.s 1)).toNat < 2 ^ 62)
    ∧ (Meets (.qset hd0 (.s 1) .q32 1) noExtra fun _ x => UniformCtl x (.s 1) ∧ x.active ≠ [] ∧ 2 ^ 31 ≤ (x.uniform (.s 1)).toNat ∧ NoTraps x)
    ∧ Meets (.qset ⟨false, 0, 0x10⟩ (.s 1) .q32 1) noExtra fun _ x => UniformCtl x (.s 1) ∧ x.active = [] :=
  ⟨meets_of (lanes .i64 (2 ^ 62 - 1) 0 0) (by decide +kernel) (by simp only [UniformCtl, holds_iff]; decide +kernel),
    meets_of (lanes .i64 (2 ^ 31) 0 0) (by decide +kernel) (by simp only [UniformCtl, NoTraps, holds_iff]; decide +kernel),
    meets_of (lanes .i64 (2 ^ 31) 0 0) (by decide +kernel) (by simp only [UniformCtl, holds_iff]; decide +kernel)⟩

/-- A ply with all five traps enabled, whose modulus registers hold 17. -/
def trapping (f : Fmt) (a b : Word) : State :=
  onPly fun p => { lanesPly f a b 3 p with plyCtl := 0x7C4, qm := [(0, (qsetValue f 17).getD QMod.empty), (1, (qsetValue f 17).getD QMod.empty)] }

/-- The traps stand, and no prefix takes them away. -/
def TrapsOn (x : Issue) : Prop := x.ply.te = 31 ∧ x.hub = false ∧ x.nox = false ∧ ∀ g ∈ x.active, g < x.ply.fibres.length

theorem met_EnabledTrapParksTheFibre :
    (∀ i ∈ ([.fadd hd0 (.v 5) (.v 1) (.v 2) .f32 .rz, .fmul hd0 (.v 5) (.v 1) (.v 2) .f32 .ru, .fma hd0 (.v 5) (.v 1) (.v 2) (.v 3) .f32,
      .fdiv hd0 (.v 5) (.v 1) (.v 2) .f32 .rd, .fsqrt hd0 (.v 5) (.v 1) .f32 .rna, .fmin hd0 (.v 5) (.v 1) (.v 2) .f32,
      .fcmp hd0 (.v 5) (.v 1) (.v 2) .f32 2 1 true, .cvt hd0 (.v 5) (.v 1) .i32 true .rz .f32, .unpack hd0 (.v 5) (.v 1) .f32 false true,
      .lreduce hd0 (.v 5) (.v 1) .f32 false 0 3 .inherit, .rcp hd0 (.v 5) (.v 1) .f32] : List Instr),
      Meets i noExtra fun _ x => AllHold .f32 [.v 1, .v 2, .v 3] x ∧ TrapsOn x)
    ∧ (∀ i ∈ ([.faddBase hd0 5 (.v 1) (.v 2), .fmaxBase hd0 5 (.v 1) (.v 2)] : List Instr),
      Meets i noExtra fun _ x => BaseHold Fmt.isFlt4 [.v 1, .v 2] x ∧ TrapsOn x)
    ∧ (∀ i ∈ ([.fmul hd0 (.v 5) (.v 1) (.v 2) .cf32 .ru, .fma hd0 (.v 5) (.v 1) (.v 2) (.v 3) .cf32] : List Instr),
      Meets i noExtra fun _ x => AllHold .cf32 [.v 1, .v 2, .v 3] x ∧ TrapsOn x)
    ∧ (Meets (.fdot hd0 (.v 5) (.v 1) (.v 2) .zero .f16) noExtra fun _ x =>
      AllHold .f16 [.v 1, .v 2] x ∧ AllHold .f32 [.zero] x ∧ TrapsOn x)
    ∧ (∀ i ∈ ([.qadd hd0 (.v 5) (.v 1) (.v 2) .q64 1, .qbfly hd0 6 (.v 1) (.v 2) (.v 3) .q64 1, .hauto hd0 (.v 5) (.v 1) (.imm 2) .q64 1 0] : List Instr),
      Meets i noExtra fun _ x => AllHold .q64 [.v 1, .v 2, .v 3] x ∧ ModOk x 1 .q64 ∧ segment x .q64 0 = 2 ^ 3 ∧ TrapsOn x)
    ∧ Meets (.qset hd0 (.s 1) .q32 1) noExtra fun _ x =>
      UniformCtl x (.s 1) ∧ x.ply.te.getLsbD 0 = true ∧ qsetValue .q32 (x.uniform (.s 1)).toNat = none ∧ TrapsOn x := by
  refine ⟨meets_each (trapping .f32 0x3F8000007FA00000 0x4049FFFF00000000) (by decide +kernel) ?_,
    meets_each (trapping .f32 0x3F8000007FA00000 0x4049FFFF00000000) (by decide +kernel) ?_,
    meets_each (trapping .cf32 0x3F8000007FA00000 0x4049FFFF00000000) (by decide +kernel) ?_,
    meets_of (trapping .f16 0x3F8000007FA00000 0x4049FFFF00000000) (by decide +kernel) ?_,
    meets_each (trapping .q64 20 5) (by decide +kernel) ?_,
    meets_of (trapping .q64 (2 ^ 31) 5) (by decide +kernel) ?_⟩
  case refine_5 =>
    intro i hi
    refine ⟨?_, ⟨17, ?_⟩, ?_⟩ <;> revert i hi <;> (try simp only [AllHold, TrapsOn, segment, holds_iff]) <;> decide +kernel
  all_goals simp only [AllHold, BaseHold, TrapsOn, UniformCtl, holds_iff, readable_iff]; decide +kernel

/-- Entry 0x17 of the chart of core 0 is the ADD of chapter 1, without holes. -/
def charted : State :=
  { onPly id 4 with cores := [{ Core.empty 0 with charts := [(0, some ⟨(0, 0), 0, [(0x17, 0x80000000028077A281000000)]⟩)] }] }

theorem met_PlainWordsOfTheStream :
    (Meets (.nop hd0) noExtra fun _ _ => True)
    ∧ (issuesB (onPage (wordBytes [0x40200000, 0x40100000]) id 4) (.ifence hd0) noExtra = true
      ∧ (onPage (wordBytes [0x40200000, 0x40100000]) id 4).chartldBusy 1 = false
      ∧ (onPage (wordBytes [0x40200000, 0x40100000]) id 4).owing 1 3 (List.range 8) true = false)
    ∧ (charted.issue (.chartWord false 0 0x17 0)).isSome = true
    ∧ (let x := issueOf charted (.chartWord false 0 0x17 0)
      let e := ChartSlot.entry (charted.chartOf x.ply) 0x17
      chartValid e = true ∧ x.ply.stale.getLsbD (0x17 / 32) = false ∧ expandEntry e false 0 0 = some (0x81000000, 0x028077A2)
        ∧ (decodeWords 0x81000000 0x028077A2).toOption = some (.add hd0 (.v 5) (.v 1) (.imm (-3)) .i32 false)) :=
  ⟨meets_of (onPly id 4) (by decide +kernel) trivial, by decide +kernel, by decide +kernel, by decide +kernel⟩

/-- An entry with a hole of six bits in D: the filler 3 expands, its bits 0 and 1 are taken, and 7 is the entry's bit outside. -/
theorem met_ChartWordsFillOnlyTheirHoles :
    let e : ChartEntry := 0x80000050000077A281000000
    expandEntry e true 2 3 = some (0xB1000000, 0x018077A2) ∧ (opLayout ((chartW1 e).extractLsb' 18 9).toNat).isSome = true
      ∧ chartValid e = true ∧ entryLoads e = true ∧ (expandEntry e true 2 (2 ^ 18)) = none
      ∧ holesOf e = [] ++ (holesOf e).headD ⟨0, 0, 0⟩ :: [] := by decide +kernel

theorem met_PrefixJoinsTheRunState :
    let s := onPage (wordBytes [0xC8000000, 0x820C001C, 0x01810127]) id 4
    let p := placedPly 1 2 0
    s.cur = some { ply := 1, course := 2, addr := placeVa, len := 4 } ∧ s.ply 1 = some p ∧ p.course 2 = some (Course.fresh 2 0 (List.range 8) placeVa)
      ∧ s.look p (placeVa + 4) = .found (.fma hd0 (.v 3) (.v 4) (.v 9) (.v 7) .f32) 8
      ∧ s.standsFor p (.fma hd0 (.v 3) (.v 4) (.v 9) (.v 7) .f32) = some (.fma hd0 (.v 3) (.v 4) (.v 9) (.v 7) .f32)
      ∧ orphanBefore ⟨.rz, 0, false, false, 0, false, placeVa⟩ (shapeOf (.fma hd0 (.v 3) (.v 4) (.v 9) (.v 7) .f32)) = false := by
  decide +kernel

/-- Registers s1 and v1 hold a target. -/
def branching : State := lanes .i64 0x20000 0 5

theorem met_BindsStartNewRunsAtTheirTargets :
    (∀ i ∈ ([.bind hd0 1] : List Instr), Meets i noExtra fun _ x => NoDeferred x)
    ∧ (Meets (.bindBr hd0 1 (-2)) (misaligned · (-2)) fun _ x => NoDeferred x)
    ∧ (Meets (.bindBc hd0 3 1 2) (misaligned · 2) fun _ x => NoDeferred x ∧ x.course.fibres ≠ [] ∧ (x.reg 0 (.s 3)).tag = .i64)
    ∧ (∀ i ∈ ([.bindCall hd0 (.s 4) 0 2, .bindCall hd0 (.v 4) 0 2, .bindCall hd0 .none 0 2] : List Instr),
      Meets i (misaligned · 2) fun _ x => NoDeferred x)
    ∧ (Meets (.bindRet hd0 (.v 1) 0) noExtra fun _ x => NoDeferred x ∧ ∀ f ∈ x.active, (Holds x f .i64 (dstSrc (.v 1))
      ∨ Holds x f .raw (dstSrc (.v 1))) ∧ ((x.reg f (dstSrc (.v 1))).val + 4 * 0).toNat % 8 = 0)
    ∧ Meets (.bindJmp hd0 (.s 1) 0 2) noExtra fun _ x => NoDeferred x ∧ ∀ f ∈ x.active, (Holds x f .i64 (dstSrc (.s 1))
      ∨ Holds x f .raw (dstSrc (.s 1))) ∧ ((x.reg f (dstSrc (.s 1))).val + 4 * 2).toNat % 8 = 0 :=
  ⟨meets_each branching (by decide +kernel) (by simp only [NoDeferred]; decide +kernel),
    meets_of branching (by decide +kernel) (by simp only [NoDeferred]; decide +kernel),
    meets_of branching (by decide +kernel) (by simp only [NoDeferred]; decide +kernel),
    meets_each branching (by decide +kernel) (by simp only [NoDeferred]; decide +kernel),
    meets_of branching (by decide +kernel) (by simp only [NoDeferred, holds_iff]; decide +kernel),
    meets_of branching (by decide +kernel) (by simp only [NoDeferred, holds_iff]; decide +kernel)⟩

theorem met_BindRaisesPendingFaults :
    Meets (.bind hd0 0) noExtra fun _ x => x.hub = false ∧ x.course.fibres = [0] ∧ x.ply.deferred = [⟨0x16, [0], 0x20000, 0⟩] :=
  meets_of (onPly fun p => { alonePly p with deferred := [⟨0x16, [0], 0x20000, 0⟩] }) (by decide +kernel) (by decide +kernel)

/-- The chart image of core 0's ply in page 1: zero entries, which load. -/
def imaged : State := { onPage [] (lanesPly .i64 0x10040 0x17 0) with ops := [opOf 9 2 [0] [] (.chartld 0x10040 2 0)] }

theorem imageEntries_zero (n : Nat) : imageEntries n (List.replicate (12 * n) 0) = List.replicate n 0 := by
  have hz : BitVec.ofNat 96 (ofBytesLE (List.replicate 12 0)) = 0 := by decide +kernel
  induction n with
  | zero => rfl
  | succ n ih =>
    have h : 12 * (n + 1) - 12 = 12 * n := by omega
    have h' : min 12 (12 * (n + 1)) = 12 := by omega
    rw [imageEntries, List.take_replicate, List.drop_replicate, h, h', ih, List.replicate_succ (n := n), hz]

/-- A whole image of zeros is a good one: its entries are invalid, and invalid entries load. -/
theorem zero_image_loads : ∀ e ∈ imageEntries 32 (granuleBytes (List.replicate 48 0)), entryLoads e = true := by
  have h : granuleBytes (List.replicate 48 0) = List.replicate (12 * 32) 0 := by decide +kernel
  have h0 : entryLoads 0 = true := by decide +kernel
  intro e he
  rw [h, imageEntries_zero] at he
  rw [(List.mem_replicate.mp he).2]
  exact h0

theorem met_ChartLoadsCommitAndRead_image : ∀ p, imaged.issuer (opOf 9 2 [0] [] (.chartld 0x10040 2 0)) = some p → (imaged.readFor p 0x10040 48 []).2 = ([], List.replicate 48 0) := by
  have h : (imaged.issuer (opOf 9 2 [0] [] (.chartld 0x10040 2 0))).elim true (fun p => (imaged.readFor p 0x10040 48 []).2 == ([], List.replicate 48 0)) = true := by
    decide +kernel
  intro p hp
  rw [hp] at h
  simpa using h

theorem met_ChartLoadsCommitAndRead :
    (Meets (.chartld hd0 1 0 3 0) noExtra fun s x => x.active ≠ [] ∧ (Holds x (x.active.headD 0) .i64 (.s 1)
      ∨ Holds x (x.active.headD 0) .raw (.s 1)) ∧ ((x.uniform (.s 1)) + (0 : BitVec 14).signExtend 64).toNat % 64 = 0
        ∧ s.rangeFaults x.ply ((x.uniform (.s 1)) + (0 : BitVec 14).signExtend 64).toNat (chartldBytes 0) .read = [])
    ∧ (imaged.op 9 = some (opOf 9 2 [0] [] (.chartld 0x10040 2 0)) ∧ (imaged.issuer (opOf 9 2 [0] [] (.chartld 0x10040 2 0))).isSome = true ∧ imaged.owing 1 9 [0] true = false
      ∧ ∀ q ∈ imaged.ops, ¬ q.id < 9)
    ∧ Meets (.chartrd hd0 6 (.s 2) (-1)) noExtra fun _ x => x.hub = false ∧ x.active ≠ [] ∧ UniformCtl x (.s 2) :=
  ⟨meets_of imaged (by decide +kernel) (by simp only [holds_iff]; decide +kernel), by decide +kernel,
    meets_of imaged (by decide +kernel) (by simp only [UniformCtl, holds_iff]; decide +kernel)⟩

/-- A ply of two courses; only the first, of fibre 0, stands at the instruction. -/
def twoCourses (p : Ply) : Ply :=
  { p with courses := [Course.fresh 2 0 [0] placeVa, { Course.fresh 7 0 (List.range' 1 7) 0x10100 with phase := .blocked [1] }] }

theorem met_FibreInstructions :
    (Meets (.rcv hd0) noExtra fun _ x => (x.hub = false ∧ x.active ≠ []) ∧ ∃ f < x.ply.width, (x.ply.fibre f).live = true
      ∧ f ∉ x.course.fibres ∧ ∀ k ∈ x.ply.courses, k.phase = .rcv → f ∉ k.fibres)
    ∧ (Meets (.rcv hd0) noExtra fun _ x => (x.hub = false ∧ x.active ≠ []) ∧ x.ply.courses = [x.course] ∧ x.ply.saveAsked = none
      ∧ x.course.fibres = x.ply.liveFibres ∧ ∀ f ∈ x.course.fibres, (x.ply.fibre f).handling = false)
    ∧ (∀ i ∈ ([.fend hd0, .yield hd0] : List Instr), Meets i noExtra fun _ x => x.hub = false ∧ x.active ≠ [])
    ∧ (Meets (.exit hd0) noExtra fun s x => (x.hub = false ∧ x.active ≠ []) ∧ x.ply.exitFree x.course x.active = true
      ∧ s.plyBusy x.ply.handle = false ∧ NoDeferred x)
    ∧ Meets (.fork hd0 (.s 5) (.imm 3) 8) (fun x => if wordTarget x ((8 : BitVec 14).signExtend 64) % 8 = 0 then [] else [⟨0x08, 0⟩]) fun s x =>
      (x.hub = false ∧ x.active ≠ []) ∧ UniformCtl x (.imm 3) ∧ x.course.id ≠ s.nextId
      ∧ s.writePending x.ply ((membersOf x.ply.width (x.uniform (.imm 3)).toNat).filter fun f => !(x.ply.fibre f).live) = false
      ∧ (x.ply.fibre 1).live = false :=
  ⟨meets_of (onPage (wordBytes [0x40300000, 0x40100000]) twoCourses 4) (by decide +kernel) (by decide +kernel),
    meets_of (onPage (wordBytes [0x40300000, 0x40100000]) id 4) (by decide +kernel) (by decide +kernel),
    meets_each (onPage (wordBytes [0x40400000, 0x40100000]) id 4) (by decide +kernel) (by decide +kernel),
    meets_of (onPage (wordBytes [0x40600000, 0x40100000]) id 4) (by decide +kernel) (by simp only [NoDeferred]; decide +kernel),
    meets_of (onPly fun p => { alonePly p with fibres := { Fibre.dormant with live := true } :: List.replicate 7 Fibre.dormant })
      (by decide +kernel) (by simp only [UniformCtl, holds_iff]; decide +kernel)⟩

/-- A launch whose gauge image gives phase 1 eight cycles. -/
def gauged : State :=
  { onPly id with launches := [⟨0, 0, 0, 0, 0, 0, [], [], [], Carve.empty, [0, 0x0000000500000003], none, 0, 0, [], 0, [], none, false⟩] }

theorem met_ElectVoteAndPhase :
    (∀ i ∈ ([.elect hd0 (.s 5) 1, .vote hd0 (.s 5) 0 0 1, .vote hd0 (.s 5) 3 1 1, .vote hd0 (.s 5) 3 2 0, .vote hd0 (.s 5) 3 3 15] : List Instr),
      Meets i noExtra fun _ _ => True)
    ∧ Meets (.phase hd0 1) noExtra fun s x => x.hub = false ∧ x.active ≠ [] ∧ ∃ l ∈ s.launches, l.id = x.ply.launch
      ∧ s.launches.find? (·.id == x.ply.launch) = some l
      ∧ bitsOf (l.gauge.getD 1 0).toNat 0 32 + bitsOf (l.gauge.getD 1 0).toNat 32 32 ≠ 0 :=
  ⟨meets_each (onPly id) (by decide +kernel) (fun _ _ => trivial), meets_of gauged (by decide +kernel) (by decide +kernel)⟩

/-! ### Exceptions, control registers, the scheduler -/

theorem met_SystemCallsAndTrapsPark :
    ∀ i ∈ ([.sysc hd0 7, .trap hd0 (-1)] : List Instr), Meets i noExtra fun _ x => x.hub = false ∧ x.active ≠ [] :=
  meets_each (onPly id) (by decide +kernel) (by decide +kernel)

/-- The ply of hub core 0 of package 0. -/
def onHub (k : Hub) (p : Ply) : Ply :=
  { p with hub := some k, core := 864, width := 1, fibres := [{ Fibre.dormant with live := true }], courses := [Course.fresh 2 0 [0] placeVa] }

def hubAt (level : Nat) : Hub := ⟨level, List.replicate 3 { Bank.empty with tvec := 0x30000, taken := true }, false, false, none, none, none, none, 0, none⟩

/-- Hub core 0 with the attributes of the page of the instruction in its TLB. -/
def hubCore : Core := { Core.empty 864 with tlb := [⟨0, 0x10000, 16, 1, 7, 7, 0, false⟩] }

/-- The firewalls between the hub die and die 0 are open to ASID 0. -/
def openPkg : Pkg := { Pkg.fresh 0 with fwDie := [(0, 64), (6, 1)], fwAsid := [(0, [0]), (6, [0])] }

def hubPage (bytes : List Byte) (k : Hub) (len : Nat := 8) : State :=
  { onPage bytes (onHub k) len with cores := [hubCore], pkgs := [openPkg] }

/-- The course stands at position 24 of its run, without temporaries. -/
def latePly (p : Ply) : Ply := { p with courses := p.courses.map fun c => { c with run := ⟨placeVa, 24, [], none⟩ } }

/-- Of the faults of a word, that of a missing temporary, cause 0x05, comes before that of its position, cause 0x06. -/
def BadWord (s : State) (i : Instr) : Prop :=
  let x := ownBeats i s (issueOf s i)
  (s.issue i).isSome = true ∧ x.course.fibres ≠ [] ∧ (⟨0x05, 0⟩ : FaultAt) ∈ s.wordFaults x (entryFaults i x)
    ∧ (⟨0x06, 0⟩ : FaultAt) ∈ s.wordFaults x (entryFaults i x)
    ∧ (∀ e' ∈ s.wordFaults x (entryFaults i x), 0x05 ≤ e'.cause)
    ∧ ∀ e' ∈ s.wordFaults x (entryFaults i x), e'.cause = 0x05 → e' = ⟨0x05, 0⟩

/-- A word of pipe P1, one of the scratchpad, and a load on a hub core. -/
theorem met_WordFaultsParkTheWholeCourse :
    (∀ i ∈ ([.add hd0 (.v 5) (.tmp 1) (.v 2) .i32 false, .lds hd0 (.v 5) (.tmp 1) 0 .i32, .ld hd0 (.v 5) (.tmp 1) 0 0 .i64 false 0] : List Instr),
      Executes i)
    ∧ BadWord (onPly latePly) (.add hd0 (.v 5) (.tmp 1) (.v 2) .i32 false) ∧ BadWord (onPly latePly) (.lds hd0 (.v 5) (.tmp 1) 0 .i32)
    ∧ BadWord (onPly fun p => latePly (onHub (hubAt 1) p)) (.ld hd0 (.v 5) (.tmp 1) 0 0 .i64 false 0) := by
  simp only [List.forall_mem_cons, BadWord]
  exact ⟨⟨⟨by decide +kernel, nofun, nofun⟩, ⟨by decide +kernel, nofun, nofun⟩, ⟨by decide +kernel, nofun, nofun⟩, by simp⟩,
    by decide +kernel, by decide +kernel, by decide +kernel⟩

/-- No access of a ply waits for a translation where the root of its ASID stands in no frame of the supervisor. -/
theorem never_waits (s : State) (p : Ply) (hb : p.hub = none)
    (hw : s.supFrame (coreAper p.core) (s.root (coreAper p.core) p.asid) = false) (va : Nat) (acc : Access) :
    s.xlateFor p va acc ≠ .ok none := by
  have hn (ia : Nat) : s.walk (coreAper p.core) p.asid ia = .invalid 0 ∨ s.walk (coreAper p.core) p.asid ia = .malformed 0 0 := by
    unfold State.walk
    split
    · exact .inl rfl
    · simp [hw]
  intro h
  simp only [State.xlateFor, Ply.bellAt, hb, Option.bind_none, Bool.and_eq_true] at h
  simp only [State.xlate, bind, Except.bind, pure, Except.pure] at h
  cases hi : s.toIa (p.core / 1024) p.asid va with
  | error e => simp [hi] at h
  | ok ia =>
    cases ht : s.translate p.core p.asid va acc <;> rcases hn ia with h' | h' <;> simp [hi, ht, h'] at h <;> split at h <;> simp at h

/-- What the statement of the operand faults asks, but for the operands themselves. -/
def Misreads (s : State) (i : Instr) (f : Issue → Prop) : Prop :=
  let x := ownBeats i s (issueOf s i)
  Executes i ∧ Issues s i (entryFaults i) x (ownBeats i s) ∧ ReadsOperands s i x ∧ x.active = [0] ∧ f x

theorem misreads (s : State) (i : Instr) (f : Issue → Prop) (hi : Executes i) (hx : issuesB s i (entryFaults i) (ownBeats i s) = true)
    (hp : s.pairs = [] ∧ s.specs = [] ∧ aOperand i = none)
    (hb : let x := ownBeats i s (issueOf s i)
      x.flagsPending = false ∧ SMap.get none (s.core x.ply.core).latches x.ply.part = none ∧ x.ply.hub = none
        ∧ s.supFrame (coreAper x.ply.core) (s.root (coreAper x.ply.core) x.ply.asid) = false ∧ x.active = [0])
    (hf : f (ownBeats i s (issueOf s i)))
    (hl : ReadsOperands s (.nop hd0) (ownBeats i s (issueOf s i)) → ReadsOperands s i (ownBeats i s (issueOf s i))) : Misreads s i f := by
  obtain ⟨h1, h2, h3, h4, h5⟩ := hb
  exact ⟨hi, issues_of s i _ _ hx, hl ⟨by simp [State.bound, hp.1], h1, h2, never_waits s _ h3 h4, by simp [State.specOf, hp.2.1],
    by simp [aOperand], trivial⟩, h5, hf⟩

/-- A wrong tag and a poisoned register, read per fibre and by the course as a whole; and where the clauses meet, the first operand
poisoned and the second of a wrong tag. -/
theorem met_OperandFaultsParkTheFibre :
    (Misreads (onPly fun p => alonePly (lanesPly .f32 0 0 0 p)) (.add hd0 (.v 5) (.v 1) .zero .i32 false) fun x =>
      operands (.add hd0 (.v 5) (.v 1) .zero .i32 false) x 0 = [] ++ ⟨false, .v 1, inFmt .i32⟩ :: [⟨false, .zero, inFmt .i32⟩]
        ∧ Operand.Rejected ⟨false, .v 1, inFmt .i32⟩ x 0)
    ∧ (Misreads (onPly fun p => alonePly (lanesPly .f32 0 0 0 p)) (.bcast hd0 (.v 5) (.v 1) (.imm 0) .i32 3) fun x =>
      operands (.bcast hd0 (.v 5) (.v 1) (.imm 0) .i32 3) x 0 = [] ++ ⟨true, .v 1, inFmt .i32⟩ :: [⟨true, .imm 0, asControl⟩]
        ∧ Operand.Rejected ⟨true, .v 1, inFmt .i32⟩ x 0)
    ∧ (Misreads (onPly fun p => alonePly (lanesPly .poison 0 0 0 p)) (.add hd0 (.v 5) .zero (.v 1) .i32 false) fun x =>
      operands (.add hd0 (.v 5) .zero (.v 1) .i32 false) x 0 = [⟨false, .zero, inFmt .i32⟩] ++ ⟨false, .v 1, inFmt .i32⟩ :: []
        ∧ Operand.Poisoned ⟨false, .v 1, inFmt .i32⟩ x 0 ∧ OthersServe (.add hd0 (.v 5) .zero (.v 1) .i32 false) x
        ∧ ∀ o ∈ operands (.add hd0 (.v 5) .zero (.v 1) .i32 false) x 0, ¬ o.Rejected x 0)
    ∧ Misreads (onPly fun p => alonePly { lanesPly .poison 0 0 0 p with s := [(2, ⟨0, .f32⟩)] }) (.add hd0 (.v 5) (.v 1) (.s 2) .i32 false) fun x =>
      operands (.add hd0 (.v 5) (.v 1) (.s 2) .i32 false) x 0 = [⟨false, .v 1, inFmt .i32⟩] ++ ⟨false, .s 2, inFmt .i32⟩ :: []
        ∧ Operand.Rejected ⟨false, .s 2, inFmt .i32⟩ x 0 ∧ ∀ o ∈ [(⟨false, .v 1, inFmt .i32⟩ : Operand)], ¬ o.Rejected x 0 := by
  refine ⟨misreads _ _ _ ⟨by decide +kernel, nofun, nofun⟩ (by decide +kernel) (by decide +kernel) (by decide +kernel) ⟨rfl, ?_⟩ id,
    misreads _ _ _ ⟨by decide +kernel, nofun, nofun⟩ (by decide +kernel) (by decide +kernel) (by decide +kernel) ⟨rfl, ?_⟩ id,
    misreads _ _ _ ⟨by decide +kernel, nofun, nofun⟩ (by decide +kernel) (by decide +kernel) (by decide +kernel) ⟨rfl, ?_⟩ id,
    misreads _ _ _ ⟨by decide +kernel, nofun, nofun⟩ (by decide +kernel) (by decide +kernel) (by decide +kernel) ⟨rfl, ?_⟩ id⟩
  · exact ⟨.inl rfl, by decide +kernel⟩
  · exact ⟨.inl rfl, by decide +kernel⟩
  · refine ⟨⟨rfl, by decide +kernel⟩, trivial, ?_⟩
    change ∀ o ∈ [(⟨false, .zero, inFmt .i32⟩ : Operand), ⟨false, .v 1, inFmt .i32⟩], ¬ o.Rejected _ 0
    simp only [List.forall_mem_cons, Operand.Rejected]
    exact ⟨fun h => (show False by rcases h.1 with h | ⟨k, h, _⟩ <;> cases h), fun h => absurd h.2.1 (by decide +kernel), by simp⟩
  · refine ⟨⟨.inl rfl, by decide +kernel⟩, ?_⟩
    simp only [List.forall_mem_cons, Operand.Rejected]
    exact ⟨fun h => absurd h.2.1 (by decide +kernel), by simp⟩

/-- Two parked courses, in their order of parking. -/
def handed : State :=
  onPly fun p => { p with
    tvec := 0x40000
    courses := [{ Course.fresh 7 1 [4, 5, 6, 7] placeVa with phase := .parked 0x20 9 false false },
      { Course.fresh 2 0 [0, 1, 2, 3] placeVa with phase := .parked 0x17 5 false false }] }

theorem met_HandlerTakesTheCourseParkedFirst :
    let p := handed.plies.headD (placedPly 0 0 0)
    let c := p.courses.getD 1 (Course.fresh 0 0 [] 0)
    handed.ply 1 = some p ∧ p.residence = .resident ∧ p.h = false ∧ p.tvec ≠ 0 ∧ p.exiting = none ∧ p.stops = false ∧ c ∈ p.courses
      ∧ p.courses.Pairwise (fun a b => a.id ≠ b.id)
      ∧ c.phase = .parked 0x17 5 false false ∧ userDirected false 0x17 (p.fibre (c.fibres.headD 0)).eaux = true
      ∧ p.courses.length = 2 ∧ ∀ k ∈ p.courses, k.takeable p = true ∧ (k = c ∨ 5 < k.parkSeq) := by
  decide +kernel

/-- A handler in which the fibres 0 to 3 are; the ERET is followed by a bind. -/
def inHandler : State :=
  onPage (codeOf [.eret hd0 (.s 1) 0, .bind hd0 0]) fun p => { lanesPly .i64 0x20000 0 0 p with
    courses := [Course.fresh 2 0 [0, 1, 2, 3] placeVa, Course.fresh 7 0 [4, 5, 6, 7] 0x20000]
    h := true
    fibres := List.replicate 4 { Fibre.dormant with live := true, handling := true } ++ List.replicate 4 { Fibre.dormant with live := true }
    handler := some ⟨2, ⟨placeVa, 3, [], none⟩, 0x17, [0, 1, 2, 3], [], []⟩ }

theorem met_EretLeavesTheHandler :
    (∀ i ∈ ([.eret hd0 (.s 1) 0, .eret hd0 (.s 1) 1, .eret hd0 (.s 1) 3] : List Instr), Meets i noExtra fun _ x =>
      (x.hub = false ∧ x.active ≠ [] ∧ x.ply.handler = some ⟨2, ⟨placeVa, 3, [], none⟩, 0x17, [0, 1, 2, 3], [], []⟩
        ∧ ∀ f ∈ x.active, f < x.ply.fibres.length ∧ (x.ply.fibre f).handling = true) ∧ ∀ f < 8, f ∉ x.active → (x.ply.fibre f).handling = false)
    ∧ Meets (.eret hd0 (.s 1) 2) noExtra fun _ x =>
      (x.hub = false ∧ x.active ≠ [] ∧ x.ply.handler = some ⟨2, ⟨placeVa, 3, [], none⟩, 0x17, [0, 1, 2, 3], [], []⟩
        ∧ ∀ f ∈ x.active, f < x.ply.fibres.length ∧ (x.ply.fibre f).handling = true)
      ∧ UniformCtl x (.s 1) ∧ (x.uniform (.s 1)).toNat % 8 = 0 := by
  refine ⟨meets_each inHandler (by decide +kernel) ?_, meets_of inHandler (by decide +kernel) ?_⟩
  · decide +kernel
  · simp only [UniformCtl, holds_iff]; decide +kernel

theorem met_HubTrapsAreTakenOnTheCore :
    (Meets (.trap hd0 5) noExtra fun _ x => x.ply.hub = some (hubAt 1) ∧ x.active = [0] ∧ x.course.fibres = [0] ∧ x.ply.courses = [x.course]
      ∧ (hubAt 1).thread = none ∧ (hubAt 1).level < 3 ∧ ((hubAt 1).bank (hubAt 1).level).tvec ≠ 0)
    ∧ Meets (.eret hd0 .zero 0) noExtra fun _ x =>
      x.ply.hub = some (hubAt 2) ∧ x.active = [0] ∧ x.ply.courses = [x.course] ∧ (hubAt 2).level < 3
        ∧ ((hubAt 2).bank (hubAt 2).level).taken = true :=
  ⟨meets_of (onPly (onHub (hubAt 1))) (by decide +kernel) (by decide +kernel),
    meets_of (hubPage (codeOf [.eret hd0 .zero 0, .bind hd0 0]) (hubAt 2)) (by decide +kernel) (by decide +kernel)⟩

theorem met_ControlRegistersReadAndWrite :
    (issuesB (onPly id) (.csrr hd0 (.v 5) 12) (csrBreach · 12 false) = true)
    ∧ (issuesB (onPly id) (.csrr hd0 (.s 5) 0) (csrBreach · 0 false) = true)
    ∧ (∀ i ∈ ([.csrw hd0 (.s 1) 5, .csrx hd0 (.s 5) (.s 1) 5 0, .csrx hd0 (.s 5) (.s 1) 5 1, .csrx hd0 (.s 5) (.s 1) 5 2] : List Instr),
      Meets i (csrBreach · 5 true) fun s x => x.active ≠ [] ∧ UniformCtl x (.s 1)
        ∧ ([fun _ v => v, fun o v => o ||| v, fun o v => o &&& ~~~ v] : List (Word → Word → Word)).all
          (fun f => (s.csrWrite x.ply 5 (f (s.csr x.ply (x.active.headD 0) 5) (x.uniform (.s 1)))).isSome) = true)
    ∧ Meets (.csrw hd0 (.s 1) 10) (csrBreach · 10 true) fun s x => x.active ≠ [] ∧ UniformCtl x (.s 1)
      ∧ (s.csrWrite x.ply 10 (x.uniform (.s 1))).isSome = true :=
  ⟨by decide +kernel, by decide +kernel,
    meets_each (onPly (lanesPly .i64 0x10 0 0)) (by decide +kernel) (by simp only [UniformCtl, holds_iff]; decide +kernel),
    meets_of (onPly fun p => onHub (hubAt 2) (lanesPly .i64 0x8 0 0 p)) (by decide +kernel) (by simp only [UniformCtl, holds_iff]; decide +kernel)⟩

theorem met_HubCoresHaltSleepAndStart :
    (Meets (.halt hd0) noExtra fun s x => x.active ≠ [] ∧ x.ply.hub = some (hubAt 2) ∧ s.plyBusy x.ply.handle = false)
    ∧ (Meets (.wfi hd0 .zero) noExtra fun _ x => x.active ≠ [] ∧ x.ply.hub = some (hubAt 1))
    ∧ (Meets (.wfi hd0 (.imm 40)) noExtra fun _ x => (Src.imm 40) ≠ .zero ∧ x.active ≠ [] ∧ x.ply.hub = some (hubAt 1)
      ∧ Holds x (x.active.headD 0) .i64 (.imm 40))
    ∧ (let k : Hub := { hubAt 1 with wfi := some (some 10) }
      let s := { onPly (onHub k) with clock := 10 }
      ∃ p, s.ply 1 = some p ∧ p.hub = some k ∧ k.wfi = some (some 10) ∧ 10 ≤ s.clock)
    ∧ (∀ p ∈ State.reset.plies, p.isHub = true → p.core ≠ 0 * 1024 + 864 + 47)
    ∧ (let k : Hub := { hubAt 0 with thread := some (1, 0), sliceEnd := 10 }
      let s := { onPly (onHub k) with clock := 10 }
      ∃ p, s.ply 1 = some p ∧ p.hub = some k ∧ k.thread ≠ none ∧ k.leaving = none ∧ k.sliceEnd ≤ s.clock) :=
  ⟨meets_of (hubPage (codeOf [.halt hd0, .bind hd0 0]) (hubAt 2) 4) (by decide +kernel) (by decide +kernel),
    meets_of (hubPage (codeOf [.wfi hd0 .zero, .bind hd0 0]) (hubAt 1)) (by decide +kernel) (by decide +kernel),
    meets_of (hubPage (codeOf [.wfi hd0 (.imm 40), .bind hd0 0]) (hubAt 1)) (by decide +kernel) (by simp only [holds_iff]; decide +kernel),
    ⟨_, rfl, rfl, rfl, by decide +kernel⟩, by decide +kernel, ⟨_, rfl, rfl, by decide +kernel⟩⟩

/-- A ply whose course stands at a write of the control register, with a run of its partition. -/
def writing (csr : BitVec 14) (hub : Option Hub := none) : State :=
  { onPage (codeOf [.csrw hd0 (.imm 8) csr]) (fun p => match hub with | some k => onHub k p | none => p) with
    cores := [{ Core.empty 0 with runs := [⟨0, 0, false, [(1, 2)]⟩] }, hubCore], pkgs := [openPkg] }

theorem met_ControlWriteEventsExecuteTheWrite :
    ∀ w ∈ ([(5, none), (4, none), (11, some (hubAt 1)), (8, some (hubAt 1))] : List (BitVec 14 × Option Hub)),
      let s := writing w.1 w.2
      let p := s.plies.headD (placedPly 0 0 0)
      let c := p.courses.headD (Course.fresh 0 0 [] 0)
      s.ply 1 = some p ∧ p.course 2 = some c ∧ s.mayIssue p c = true ∧ c.chain = [] ∧ s.packedRun p 2 = none
        ∧ s.look p c.run.pc = .found (.csrw hd0 (.imm 8) w.1) 8 := by
  decide +kernel

/-- Two plies wait for a run slot; the one of lower level for 4,096 cycles. -/
def queued : State :=
  { onPly id with clock := 5000, plies := [{ placedPly 1 2 0 with width := 32 }, { placedPly 3 4 4000 with level := 2, width := 32 }] }

theorem met_RunSlotsAreFilledByLevelAndRotation :
    (let s := { queued with plies := queued.plies.map fun (p : Ply) => { p with eligibleSince := 4000 + p.handle } }
      let p := s.plies.getD 1 (placedPly 0 0 0)
      p ∈ s.candidates 0 0 ∧ oldestCourse (s.offers p) = some (Course.fresh 4 4000 (List.range 8) placeVa) ∧ 16 < p.width
        ∧ (s.candidates 0 0).length = 2 ∧ ∀ q ∈ s.candidates 0 0, s.clock - q.eligibleSince < 4096 ∧ (q = p ∨ q.level < p.level))
    ∧ (let p := queued.plies.headD (placedPly 0 0 0)
      p ∈ queued.candidates 0 0 ∧ oldestCourse (queued.offers p) = some (Course.fresh 2 0 (List.range 8) placeVa) ∧ 16 < p.width
        ∧ 4096 ≤ queued.clock - p.eligibleSince ∧ ∀ q ∈ queued.candidates 0 0, q = p ∨ p.eligibleSince < q.eligibleSince) := by
  decide +kernel

theorem met_WaitSetSplitsLateFibres :
    let c : Course := { Course.fresh 2 0 (List.range 8) placeVa with phase := .waitSet 1 0, sb := [⟨9, 0, List.range 8⟩] }
    let p := { placedPly 1 2 0 with courses := [c] }
    let s := { onPly id with plies := [p], clock := 32, ops := [opOf 9 2 [5, 7] [] (.accalloc 1) placeVa true true] }
    s.ply 1 = some p ∧ p.course 2 = some c ∧ c.phase = .waitSet 1 0 ∧ 0 + 32 ≤ s.clock
      ∧ c.fibres.filter (s.completed (s.awaited c 1)) = [0, 1, 2, 3, 4, 6]
      ∧ (c.fibres.filter fun f => !(s.completed (s.awaited c 1) f)) = [5, 7] := by
  decide +kernel

/-! ### The scratchpad, stage rings and barriers -/

/-- `ScratchOk`, computed. -/
def scratchOkB (s : State) (x : Issue) (a b : Src) (off : BitVec 14) (feOnly : Bool) : Bool :=
  x.active.all fun f => (holdsB x f .i64 a || holdsB x f .raw a) && (holdsB x f .i64 b || holdsB x f .raw b)
    && decide (fibreAddr x f a b off % 8 = 0)
    && match (s.carve x.ply.skein).regionAt (fibreAddr x f a b off) with
      | some r => !feOnly || r.kind == 2
      | none => false

theorem scratch_ok (s : State) (x : Issue) (a b : Src) (off : BitVec 14) (feOnly : Bool) (h : scratchOkB s x a b off feOnly = true) :
    ScratchOk s x a b off feOnly := by
  intro f hf
  have hx := List.all_eq_true.mp h f hf
  simp only [Bool.and_eq_true, Bool.or_eq_true, ← holds_iff, decide_eq_true_eq] at hx
  obtain ⟨⟨⟨h1, h2⟩, h3⟩, h4⟩ := hx
  refine ⟨h1, h2, h3, ?_⟩
  cases hr : (s.carve x.ply.skein).regionAt (fibreAddr x f a b off) with
  | none => rw [hr] at h4; cases h4
  | some r =>
    rw [hr] at h4
    refine ⟨r, rfl, fun hfe => ?_⟩
    subst hfe
    simpa using h4

/-- A carve with a plain and a full/empty region, a cache of 8 sets of two lines of 64 bytes, a ring of two slots of 256
bytes, and two barriers. -/
def carve1 : Carve :=
  { Carve.empty with
    regions := [⟨1, 0, 0, 1024, 0⟩, ⟨2, 0, 0, 1024, 1024⟩, ⟨3, 6, 1, 1024, 2048⟩, ⟨4, 2, 8, 512, 3072⟩]
    rings := [⟨2, 8, 3072, 1, 1, 0, 0, [.filled, .free], [], []⟩]
    bars := [⟨0, 0, false, false⟩, ⟨4, 3, true, false⟩] }

def skein1 (c : Carve) : Skein := ⟨0, 0, 0, 0, 0, 0, 0, 1, 0, 0, 0, c, [], 0, false, .resident, none⟩

/-- The ply of `onPly` in a skein with a carve. -/
def carved (c : Carve) (f : Ply → Ply) (len : Nat := 8) : State := { onPly f len with skeins := [skein1 c] }

/-- The granule at the end of the full/empty region, and a poisoned one at the start of the plain region. -/
theorem met_ScratchLoadsBringTheGranule :
    (Meets (.lds hd0 (.v 5) (.v 1) (-1) .i32) noExtra (adjust := beatsAt (.v 1) .zero (-1)) fun s x =>
      x.hub = false ∧ ScratchOk s x (.v 1) .zero (-1) false ∧ ∀ f ∈ x.active,
      Loaded ((s.carve x.ply.skein).granule (fibreAddr x f (.v 1) .zero (-1))) (fibreAddr x f (.v 1) .zero (-1)) .i32 ⟨0, .i32⟩)
    ∧ Meets (.ldsBase hd0 5 (.v 2) .zero) noExtra (adjust := beatsAt (.v 2) .zero 0) fun s x =>
      x.hub = false ∧ ScratchOk s x (.v 2) .zero 0 false ∧ ∀ f ∈ x.active,
      Loaded ((s.carve x.ply.skein).granule (fibreAddr x f (.v 2) .zero 0)) (fibreAddr x f (.v 2) .zero 0) .raw ⟨0, .poison⟩ :=
  ⟨meets_as (carved carve1 (lanesPly .i64 2041 0 0)) (by decide +kernel) ⟨by decide +kernel, scratch_ok _ _ _ _ _ _ (by decide +kernel),
      by simp only [Loaded]; decide +kernel⟩,
    meets_as (carved (carve1.put 0 ⟨0, poisonCode 0⟩) (lanesPly .i64 2041 0 0)) (by decide +kernel) ⟨by decide +kernel,
      scratch_ok _ _ _ _ _ _ (by decide +kernel), by simp only [Loaded]; decide +kernel⟩⟩

theorem met_ScratchStoresPutTheRegister :
    (Meets (.sts hd0 (.v 3) (.v 1) (-8)) noExtra (adjust := beatsAt (.v 1) .zero (-8)) fun s x =>
      x.hub = false ∧ ScratchOk s x (.v 1) .zero (-8) false)
    ∧ Meets (.stsBase hd0 3 (.v 1) (.v 2)) noExtra (adjust := beatsAt (.v 1) (.v 2) 0) fun s x =>
      x.hub = false ∧ ScratchOk s x (.v 1) (.v 2) 0 false :=
  ⟨meets_as (carved carve1 (lanesPly .i64 512 8 7)) (by decide +kernel) ⟨by decide +kernel, scratch_ok _ _ _ _ _ _ (by decide +kernel)⟩,
    meets_as (carved carve1 (lanesPly .i64 512 8 7)) (by decide +kernel) ⟨by decide +kernel, scratch_ok _ _ _ _ _ _ (by decide +kernel)⟩⟩

theorem met_ScratchGranulesReadBack : SMap.wf none carve1.cells = true ∧ 1023 / 8 = 1016 / 8 ∧ 1024 / 8 ≠ 1016 / 8 := by decide

/-- The full/empty word at 1024 as named, and v1 and v3 of fibre 0. -/
def wordAt (full : Bool) : State := carved { carve1 with full := if full then [(128, true)] else [] } fun p => alonePly (lanesPly .i64 1024 0 7 p)

theorem met_FullEmptyAccessesWaitForTheirState :
    let ok (s : State) (x : Issue) : Prop := x.hub = false ∧ x.active = [0] ∧ x.course.fibres = [0]
      ∧ ScratchOk s x (.v 1) .zero 0 true ∧ (∀ r ∈ (s.carve x.ply.skein).waits, r.off / 8 ≠ fibreAddr x 0 (.v 1) .zero 0 / 8)
      ∧ ∀ o ∈ s.ops, o.id < s.nextId
    let beats := beatsAt (.v 1) .zero 0
    let word (s : State) (x : Issue) : Bool := SMap.get false (s.carve x.ply.skein).full (fibreAddr x 0 (.v 1) .zero 0 / 8)
    (Meets (.ldsfe hd0 (.v 5) (.v 1) 0 .i64) noExtra (adjust := beats) fun s x => ok s x ∧ word s x = true
      ∧ Loaded ((s.carve x.ply.skein).granule (fibreAddr x 0 (.v 1) .zero 0)) (fibreAddr x 0 (.v 1) .zero 0) .i64 ⟨0, .i64⟩)
    ∧ (Meets (.ldsfe hd0 (.v 5) (.v 1) 0 .i64) noExtra (adjust := beats) fun s x => ok s x ∧ word s x = false)
    ∧ (Meets (.stsfe hd0 (.v 3) (.v 1) 0) noExtra (adjust := beats) fun s x => ok s x ∧ word s x = false)
    ∧ (Meets (.stsfe hd0 (.v 3) (.v 1) 0) noExtra (adjust := beats) fun s x => ok s x ∧ word s x = true)
    ∧ Meets (.sfe hd0 (.v 1) 0 true) noExtra ok beats :=
  have a (full : Bool) (i : Instr) (h : let x := beatsAt (.v 1) .zero 0 (wordAt full) (issueOf (wordAt full) i)
      x.hub = false ∧ x.active = [0] ∧ x.course.fibres = [0] ∧ scratchOkB (wordAt full) x (.v 1) .zero 0 true = true
      ∧ (∀ r ∈ ((wordAt full).carve x.ply.skein).waits, r.off / 8 ≠ fibreAddr x 0 (.v 1) .zero 0 / 8) ∧ ∀ o ∈ (wordAt full).ops, o.id < (wordAt full).nextId) :=
    And.intro h.1 (And.intro h.2.1 (And.intro h.2.2.1 (And.intro (scratch_ok _ _ _ _ _ _ h.2.2.2.1) h.2.2.2.2)))
  ⟨meets_as (wordAt true) (by decide +kernel) ⟨a true _ (by decide +kernel), by decide +kernel, by simp only [Loaded]; decide +kernel⟩,
    meets_as (wordAt false) (by decide +kernel) ⟨a false _ (by decide +kernel), by decide +kernel⟩,
    meets_as (wordAt false) (by decide +kernel) ⟨a false _ (by decide +kernel), by decide +kernel⟩,
    meets_as (wordAt true) (by decide +kernel) ⟨a true _ (by decide +kernel), by decide +kernel⟩,
    meets_as (wordAt false) (by decide +kernel) (a false _ (by decide +kernel))⟩

/-- The key 0x1234 has tag 9 in set 0, which way 1 holds; its line is at 2112. -/
def cached : State := carved (carve1.setTag 0 1 (some 9)) fun p => alonePly (lanesPly .i64 0x1234 2112 0 p)

def cache1 : Cache := ⟨64, 2, 8, 2048⟩

theorem met_CacheTagsAreLookedUpSetAndCleared :
    (Meets (.tlook hd0 (.v 5) (.v 1) 0 1) noExtra fun s x => (x.hub = false ∧ (s.carve x.ply.skein).cache 0 = some cache1)
      ∧ ∀ f ∈ x.active, CtlOk x f (.v 1))
    ∧ ((1 < cache1.ways ∧ (cached.carve 0).tagOf 0 (cache1.set 0x1234 * cache1.ways + 1) = some (cache1.tag 0x1234))
      ∧ ∀ v < 1, (cached.carve 0).tagOf 0 (cache1.set 0x1234 * cache1.ways + v) ≠ some (cache1.tag 0x1234))
    ∧ (∀ w < cache1.ways, (cached.carve 0).tagOf 0 (cache1.set 0x1434 * cache1.ways + w) ≠ some (cache1.tag 0x1434))
    ∧ (Meets (.tset hd0 (.v 1) (.v 2) 0) noExtra fun s x => x.active = [0] ∧ (x.hub = false ∧ (s.carve x.ply.skein).cache 0 = some cache1)
      ∧ CtlOk x 0 (.v 1) ∧ CtlOk x 0 (.v 2)
      ∧ ((s.carve x.ply.skein).tset 0 cache1 (x.reg 0 (.v 1)).val.toNat (x.reg 0 (.v 2)).val.toNat).isSome = true)
    ∧ Meets (.tinv hd0 (.v 2) 0) noExtra fun s x => x.active = [0] ∧ (x.hub = false ∧ (s.carve x.ply.skein).cache 0 = some cache1)
      ∧ CtlOk x 0 (.v 2) ∧ ((s.carve x.ply.skein).tinv 0 cache1 (x.reg 0 (.v 2)).val.toNat).isSome = true :=
  ⟨meets_of cached (by decide +kernel) (by simp only [CtlOk, holds_iff]; decide +kernel), by decide +kernel, by decide +kernel,
    meets_of cached (by decide +kernel) (by simp only [CtlOk, holds_iff]; decide +kernel),
    meets_of cached (by decide +kernel) (by simp only [CtlOk, holds_iff]; decide +kernel)⟩

/-- The ring whose slots are in these states. -/
def ringIn (a b : SlotState) : Ring := ⟨2, 8, 3072, 1, 1, 0, 0, [a, b], [], []⟩

def ringed (a b : SlotState) : State := carved { carve1 with rings := [ringIn a b] } (lanesPly .i64 0 3328 0)

theorem met_RingCommandsHandOutSlotsInOrder :
    let ring (r : Ring) (s : State) (x : Issue) : Prop := x.hub = false ∧ x.active ≠ [] ∧ UniformCtl x (.s 1)
      ∧ (s.carve x.ply.skein).ring (x.uniform (.s 1)).toNat = some r
    (Meets (.racq hd0 5 (.s 1) 1) noExtra fun s x => ring (ringIn .filled .free) s x ∧ (ringIn .filled .free).acquirers = []
      ∧ (ringIn .filled .free).freeCount ≠ 0)
    ∧ (Meets (.rtake hd0 5 (.s 1) 1) noExtra fun s x => ring (ringIn .filled .free) s x ∧ (ringIn .filled .free).takers = []
      ∧ (ringIn .filled .free).filledCount ≠ 0)
    ∧ (Meets (.rpub hd0 (.s 1) (.s 2)) noExtra fun s x => ring (ringIn .filled .acquired) s x ∧ UniformCtl x (.s 2)
      ∧ (ringIn .filled .acquired).slotAt (x.uniform (.s 2)).toNat = some 1 ∧ (ringIn .filled .acquired).stateOf 1 = .acquired)
    ∧ Meets (.rrel hd0 (.s 1) (.s 2)) noExtra fun s x => ring (ringIn .filled .taken) s x ∧ UniformCtl x (.s 2)
      ∧ (ringIn .filled .taken).slotAt (x.uniform (.s 2)).toNat = some 1 ∧ (ringIn .filled .taken).stateOf 1 = .taken :=
  ⟨meets_of (ringed .filled .free) (by decide +kernel) (by simp only [UniformCtl, holds_iff]; decide +kernel),
    meets_of (ringed .filled .free) (by decide +kernel) (by simp only [UniformCtl, holds_iff]; decide +kernel),
    meets_of (ringed .filled .acquired) (by decide +kernel) (by simp only [UniformCtl, holds_iff]; decide +kernel),
    meets_of (ringed .filled .taken) (by decide +kernel) (by simp only [UniformCtl, holds_iff]; decide +kernel)⟩

/-- Operation 9 waits at ring 0. -/
def ringWait (r : Ring) (body : OpBody) : State :=
  { carved { carve1 with rings := [r] } (fun p => { p with courses := [{ Course.fresh 2 0 (List.range 8) placeVa with phase := .blocked (List.range 8) }] }) with
    ops := [opOf 9 2 (List.range 8) [] body placeVa false] }

/-- The skein, its ring, the operation, its ply and its course stand in that state. -/
def ringWaits (r : Ring) (body : OpBody) : Bool :=
  let s := ringWait r body
  decide (s.skein 0 = some (skein1 { carve1 with rings := [r] })) && decide (({ carve1 with rings := [r] } : Carve).ring 0 = some r)
    && decide (s.op 9 = some (opOf 9 2 (List.range 8) [] body placeVa false))
    && match s.ply 1 with
      | some p => (p.course 2).isSome
      | none => false

theorem met_RingEventsServeTheHeadOfTheQueue :
    (∀ body ∈ ([.ring false 0 5 1 8, .copy (.fend hd0) 0 0 [] .rne 0 (.slotWait [])] : List OpBody),
      let r := { ringIn .filled .free with acquirers := [9, 10] }
      ringWaits r body = true ∧ r.acquirers = 9 :: [10] ∧ r.freeCount ≠ 0)
    ∧ (let r := { ringIn .filled .free with takers := [9] }
      ringWaits r (.ring true 0 5 1 8) = true ∧ r.takers = 9 :: [] ∧ r.filledCount ≠ 0) := by
  decide +kernel

/-- v1 = 1 and v2 = 2 in every fibre and in s1, s2; barrier 1 expects 4, has 3 arrivals and phase 1. -/
theorem met_BarriersCountArrivalsAndFlip :
    let bar (b : Src) (s : State) (x : Issue) : Prop := (4 : Nat) ≠ 0 ∧ x.hub = false ∧ x.active ≠ [] ∧ UniformCtl x (.s 1) ∧ UniformCtl x b
      ∧ (s.carve x.ply.skein).bars[(x.uniform (.s 1)).toNat]? = some (⟨4, 3, true, false⟩ : Barrier)
    (Meets (.barinit hd0 (.s 1) (.s 2)) noExtra (bar (.s 2)))
    ∧ (Meets (.bararr hd0 (.v 5) (.s 1) (.s 2)) noExtra (bar (.s 2)))
    ∧ (Meets (.barwait hd0 (.s 1) (.s 2)) noExtra fun s x => bar (.s 2) s x ∧ true ≠ (x.uniform (.s 2)).getLsbD 0)
    ∧ (Meets (.barwait hd0 (.s 1) (.s 3)) noExtra fun s x => bar (.s 3) s x ∧ true = (x.uniform (.s 3)).getLsbD 0) :=
  ⟨meets_of (carved carve1 (lanesPly .i64 1 2 3)) (by decide +kernel) (by simp only [UniformCtl, holds_iff]; decide +kernel),
    meets_of (carved carve1 (lanesPly .i64 1 2 3)) (by decide +kernel) (by simp only [UniformCtl, holds_iff]; decide +kernel),
    meets_of (carved carve1 (lanesPly .i64 1 2 3)) (by decide +kernel) (by simp only [UniformCtl, holds_iff]; decide +kernel),
    meets_of (carved carve1 (lanesPly .i64 1 2 3)) (by decide +kernel) (by simp only [UniformCtl, holds_iff]; decide +kernel)⟩

/-- Two, five and nine arrivals at that barrier: one phase in each case. -/
theorem test_barrier_arrivals :
    (⟨4, 1, false, false⟩ : Barrier).arrive 2 = ⟨4, 3, false, false⟩ ∧ (⟨4, 3, true, false⟩ : Barrier).arrive 1 = ⟨4, 0, false, false⟩
      ∧ (⟨4, 3, true, false⟩ : Barrier).arrive 5 = ⟨4, 3, false, true⟩ := by decide

/-! ### Cable pairs -/

/-- A ply of 32 fibres, with registers v0 to v31 of a tag, and in s1 to s3 values. -/
def widePly (f : Fmt) (a b c : Word) (p : Ply) : Ply :=
  { p with
    width := 32, courses := [Course.fresh 2 0 (List.range 32) placeVa]
    fibres := List.replicate 32 { Fibre.dormant with live := true, v := (List.range 32).map fun n => (n, (⟨0, f⟩ : Reg)) }
    s := [(1, ⟨a, .i64⟩), (2, ⟨b, .i64⟩), (3, ⟨c, .i64⟩)] }

/-- The block that the names below give: name 2, physical block 5, with a tag. -/
def block1 (tag : Fmt) : AccBlock := ⟨2, 5, true, false, tag, []⟩

def bind1 (tag : Fmt) : PairBind := ⟨0, 6, 4, [block1 tag], []⟩

def pair1 (tag : Fmt) : Pair := ⟨0, [bind1 tag], [], [], [], [], 0, [], false⟩

/-- A tile region of 16 KiB at 0. -/
def tileCarve : Carve := { Carve.empty with regions := [⟨1, 0, 0, 16384, 0⟩] }

/-- A ply of a skein pair that holds that block. -/
def paired (tag : Fmt) (f : Ply → Ply) (q : Pair := pair1 tag) : State :=
  { onPage [] f with skeins := [skein1 tileCarve, { skein1 tileCarve with handle := 6, core := 1 }], pairs := [q] }

/-- s1 names the block and s2 the tile at 256. -/
theorem met_MatrixOperationsEnterThePairQueue :
    let ok (tag : Fmt) (i : Instr) (s : State) (x : Issue) : Prop :=
      (x.active ≠ [] ∧ UniformCtl x (.s 1) ∧ s.bound x.ply = some (pair1 tag, bind1 tag) ∧ (x.uniform (.s 1)).toNat < 32
        ∧ (bind1 tag).named (x.uniform (.s 1)).toNat = some (block1 tag) ∧ (pair1 tag).holds = false)
      ∧ UniformCtl x (.s 2) ∧ SMap.get none (s.core x.ply.core).latches x.ply.part = none ∧ x.breachA s 0 (matrixForm i).n = false
      ∧ s.struck { x with sh := { x.sh with srcs := (List.range (matrixForm i).n).map fun k => .v (0 + BitVec.ofNat 8 k) } } = []
      ∧ (∀ r ∈ x.readA 0 (matrixForm i).n, r.tag = (matrixForm i).tag) ∧ s.tagAhead (pair1 tag) (block1 tag) ∈ (matrixForm i).blocks
      ∧ tileInCarve (s.carve x.ply.skein) (x.uniform (.s 2)).toNat (matrixForm i).tile = true
    (Meets (.mma hd0 (.s 1) 0 (.s 2) 0 true false) (fun x => if (0 : BitVec 8).toNat + 16 ≤ x.ply.window then [] else [⟨0x01, 0⟩])
      (ok .raw (.mma hd0 (.s 1) 0 (.s 2) 0 true false)))
    ∧ (Meets (.mmai hd0 (.s 1) 0 (.s 2) 0 false true false) (fun x => if (0 : BitVec 8).toNat + 16 ≤ x.ply.window then [] else [⟨0x01, 0⟩])
      (ok .i32 (.mmai hd0 (.s 1) 0 (.s 2) 0 false true false)))
    ∧ (Meets (.mmag hd0 (.s 1) 0 (.s 2) 0 true true 0) (fun x => if (0 : BitVec 8).toNat + 32 ≤ x.ply.window then [] else [⟨0x01, 0⟩])
      (ok .f32 (.mmag hd0 (.s 1) 0 (.s 2) 0 true true 0)))
    ∧ Meets (.mmac hd0 (.s 1) 0 (.s 2) 0 false) (fun x => if (0 : BitVec 8).toNat + 16 ≤ x.ply.window then [] else [⟨0x01, 0⟩])
      (ok .cf32 (.mmac hd0 (.s 1) 0 (.s 2) 0 false)) :=
  ⟨meets_of (paired .raw (widePly .bf16 2 256 0)) (by decide +kernel) (by simp only [UniformCtl, holds_iff]; decide +kernel),
    meets_of (paired .i32 (widePly .i8 2 256 0)) (by decide +kernel) (by simp only [UniformCtl, holds_iff]; decide +kernel),
    meets_of (paired .f32 (widePly .bf16 2 256 0)) (by decide +kernel) (by simp only [UniformCtl, holds_iff]; decide +kernel),
    meets_of (paired .cf32 (widePly .bf16 2 256 0)) (by decide +kernel) (by simp only [UniformCtl, holds_iff]; decide +kernel)⟩

theorem met_AccumulatorInstructionsEnterTheirQueues :
    let names (s : State) (x : Issue) : Prop := x.active ≠ [] ∧ UniformCtl x (.s 1) ∧ s.bound x.ply = some (pair1 .f32, bind1 .f32)
      ∧ (x.uniform (.s 1)).toNat < 32 ∧ (bind1 .f32).named (x.uniform (.s 1)).toNat = some (block1 .f32) ∧ (pair1 .f32).holds = false
    (∀ i ∈ ([.accalloc hd0 4 0, .acctry hd0 4 0 1] : List Instr), Meets i noExtra fun s x =>
      x.active ≠ [] ∧ s.bound x.ply = some (pair1 .f32, bind1 .f32))
    ∧ (∀ i ∈ ([.acczero hd0 (.s 1) 0, .accfree hd0 (.s 1) 0] : List Instr), Meets i noExtra names)
    ∧ (∀ i ∈ ([.accld hd0 (.s 1) 2 0 0 .f32, .accst hd0 (.s 1) 2 0 0] : List Instr), Meets i noExtra fun s x => names s x
      ∧ CtlOk x 0 (.s 2) ∧ ((x.reg 0 (.s 2)).val + (0 : BitVec 14).signExtend 64).toNat % 256 = 0
      ∧ ∀ acc ∈ [Access.read, Access.write], s.rangeFaults x.ply ((x.reg 0 (.s 2)).val + (0 : BitVec 14).signExtend 64).toNat 65536 acc = [])
    ∧ Meets (.mread hd0 240 (.s 1) 0 true 7) (fun x => if (240 : BitVec 8).toNat + 16 ≤ x.ply.window then [] else [⟨0x01, 0⟩]) fun s x =>
      names s x ∧ x.ply.sbcheck = false :=
  ⟨meets_each (paired .f32 (widePly .raw 2 0x10000 0)) (by decide +kernel) (by decide +kernel),
    meets_each (paired .f32 (widePly .raw 2 0x10000 0)) (by decide +kernel) (by simp only [UniformCtl, holds_iff]; decide +kernel),
    meets_each (paired .f32 (widePly .raw 2 0x10000 0)) (by decide +kernel) (by simp only [CtlOk, UniformCtl, holds_iff]; decide +kernel),
    meets_of (paired .f32 (widePly .raw 2 0x10000 0)) (by decide +kernel) (by simp only [UniformCtl, holds_iff]; decide +kernel)⟩

/-- An operation of the ply on the pair, as it stands while it is begun. -/
def pairOp (body : OpBody) (left : List Nat := [3]) : Op := opOf 9 2 left [] body placeVa

/-- A pair in which operation 9 is begun at cycle 100, its block with a tag. -/
def beginning (tag : Fmt) (body : OpBody) (left : List Nat := [3]) : State :=
  { paired tag (widePly .raw 2 0x10000 0) { pair1 tag with queue := [9], begun := [(9, 100)] } with ops := [pairOp body left], clock := 5000 }

/-- `Begun`, and the block of the operation, its owner and its ply, in that state. -/
theorem beginning_meets (tag : Fmt) (body : OpBody) (left : List Nat) :
    Begun (beginning tag body left) 0 { pair1 tag with queue := [9], begun := [(9, 100)] } (pairOp body left) 100
      ∧ ({ pair1 tag with queue := [9], begun := [(9, 100)] } : Pair).block 5 = some (block1 tag)
      ∧ ({ pair1 tag with queue := [9], begun := [(9, 100)] } : Pair).owner 5 = some (bind1 tag)
      ∧ (beginning tag body left).ply 1 = some (widePly .raw 2 0x10000 0 (placedPly 1 2 0)) :=
  ⟨⟨rfl, rfl, rfl, rfl, fun h => nomatch h⟩, rfl, rfl, rfl⟩

/-- A tile of nothing but unwritten granules is good. -/
theorem empty_tile (c : Carve) (hc : c.cells = []) (ctr off n : Nat) (h : off % 8 = 0) : ∀ g ∈ tileRead [] c ctr off n, g.1.judge g.2 = .valid 0 := by
  intro g hg
  simp only [tileRead, List.mem_map, List.mem_range] at hg
  obtain ⟨i, -, rfl⟩ := hg
  have h8 : (off + 8 * i) / 8 * 8 = off + 8 * i := by omega
  have h0 : tileGranule [] c ctr (off + 8 * i) = ⟨0, selv 0 (off + 8 * i)⟩ := by
    simp [tileGranule, Carve.granule, hc, SMap.get, h8]
  rw [h0]
  simp [Granule.judge]

theorem good_tiles (l : List (Granule × Nat)) (h : ∀ g ∈ l, g.1.judge g.2 = .valid 0) : tileCauses l = [] := by
  have hl : l.map (fun (g, x) => Granule.judge g x) = l.map fun _ => Delivered.valid 0 :=
    List.map_congr_left fun g hg => h g hg
  simp [tileCauses, judgedCauses, hl]

/-- A granule that was poisoned when the operation entered and still is reads so whichever of the two is read. -/
theorem poison_tile (c : Carve) (hc : c.cells = [(0, some ⟨0, poisonCode 0⟩)]) :
    tileRead [(0, some ⟨0, poisonCode 0⟩)] c 0 0 8 = [(⟨0, poisonCode 0⟩, 0)] := by
  have h : tileGranule [(0, some ⟨0, poisonCode 0⟩)] c 0 0 = ⟨0, poisonCode 0⟩ := by
    unfold tileGranule Carve.granule
    rw [hc]
    exact ite_self _
  exact congrArg (fun g => [(g, 0)]) h

theorem met_MatrixOperationsRetireIntoTheBlock :
    let i : Instr := .mma hd0 (.s 1) 0 (.s 2) 0 true false
    let bad : SMap (Option Granule) := [(0, some ⟨0, poisonCode 0⟩)]
    (block1 .f32).tag ≠ .poison
    ∧ badHeader i #[] = false
    ∧ tileCauses (tileRead [] ((beginning .f32 (.mma i 5 0 [] .rne 0 ([], []))).carve (bind1 .f32).leader) 0 0 (matrixForm i).tile
      ++ tileRead [] ((beginning .f32 (.mma i 5 0 [] .rne 0 ([], []))).carve (bind1 .f32).follower) (2 ^ 20) 0 (matrixForm i).tile) = []
    ∧ tileCauses (tileRead bad { tileCarve with cells := bad } 0 0 8) ≠ [] := by
  refine ⟨by decide, rfl, good_tiles _ fun g hg => ?_, ?_⟩
  · rcases List.mem_append.mp hg with hg | hg
    · exact empty_tile _ rfl _ _ _ (by decide) g hg
    · exact empty_tile _ rfl _ _ _ (by decide) g hg
  · rw [poison_tile _ rfl]
    decide +kernel

/-- A pair whose allocator holds the requests 9 and, behind it, 10. -/
def asking (q : Pair) (x y : OpBody) : State :=
  { paired .f32 (widePly .raw 2 0 0) { q with allocs := [9, 10] } with ops := [pairOp x, { pairOp y with id := 10 }] }

theorem asks (q : Pair) (x y : OpBody) (hq : q.core = 0) : let s := asking q x y
    let r : Pair := { q with allocs := [9, 10] }
    s.pair 0 = some r ∧ r.resetting = q.resetting ∧ s.op 9 = some (pairOp x) ∧ s.op 10 = some { pairOp y with id := 10 }
      ∧ s.ply 1 = some (widePly .raw 2 0 0 (placedPly 1 2 0)) := by
  refine ⟨?_, rfl, rfl, rfl, rfl⟩
  simp [asking, paired, State.pair, hq]

/-- An ACCALLOC waits where its skein pair holds its reservation. -/
theorem waits_for_reservation (q : Pair) (b : PairBind) (y : OpBody) (hb : q.binds.head? = some b) (hl : b.leader = 0)
    (ha : ({ q with allocs := [9, 10] } : Pair).allocate b false = none) :
    AllocWaits (asking q (.accalloc 4) y) { q with allocs := [9, 10] } 9 := by
  refine ⟨pairOp (.accalloc 4), 4, rfl, rfl, fun p q0 b' hp hx => ?_⟩
  obtain rfl : widePly .raw 2 0 0 (placedPly 1 2 0) = p := Option.some.inj hp
  have hbd : (asking q (.accalloc 4) y).bound (widePly .raw 2 0 0 (placedPly 1 2 0)) = some ({ q with allocs := [9, 10] }, b) := by
    cases hs : q.binds with
    | nil => simp [hs] at hb
    | cons c r =>
      simp only [hs, List.head?_cons, Option.some.injEq] at hb
      subst hb
      simp [State.bound, asking, paired, hs, hl, widePly, placedPly]
  rw [hbd] at hx
  cases hx
  exact ha

/-- A pair with a block of its reservation free, one whose second skein pair has reserved the rest, and one with a pool. -/
def roomy : Pair := pair1 .f32
def packed : Pair := { pair1 .f32 with binds := [{ bind1 .f32 with reserve := 1 }, ⟨7, 8, 31, [], []⟩] }
def pooled : Pair := { pair1 .f32 with binds := [{ bind1 .f32 with reserve := 1 }] }

/-- Name 0 is the lowest that is free; behind an ACCALLOC that waits, an ACCTRY takes a block of the pool, or finds none. -/
theorem met_AllocatorServesTheFirstRequestItCan :
    (roomy.resetting = false ∧ ownBlocks (bind1 .f32) < (bind1 .f32).reserve ∧ (bind1 .f32).named 0 = none ∧ (∃ n < 32, roomy.block n = none)
      ∧ (asking roomy (.accalloc 4) (.acctry 4 1)).bound (widePly .raw 2 0 0 (placedPly 1 2 0)) = some ({ roomy with allocs := [] ++ 9 :: [10] }, bind1 .f32))
    ∧ (∀ q ∈ [packed, pooled], AllocWaits (asking q (.accalloc 4) (.acctry 4 1)) { q with allocs := [9] ++ 10 :: [] } 9
      ∧ q.binds.head? = some { bind1 .f32 with reserve := 1 } ∧ ({ bind1 .f32 with reserve := 1 } : PairBind).named 0 = none
      ∧ (∃ n < 32, q.block n = none) ∧ ({ bind1 .f32 with reserve := 1 } : PairBind).reserve ≤ ownBlocks { bind1 .f32 with reserve := 1 })
    ∧ 0 < pooled.pool ∧ packed.pool = 0 := by
  refine ⟨by decide +kernel, ?_, by decide +kernel⟩
  simp only [List.forall_mem_cons]
  exact ⟨⟨waits_for_reservation packed _ _ rfl rfl (by decide +kernel), by decide +kernel⟩,
    ⟨waits_for_reservation pooled _ _ rfl rfl (by decide +kernel), by decide +kernel⟩, by simp⟩

/-- The plies of a skein pair, each on its core at an ACCZERO, in a run of its partition; the leader's core was taken last. -/
def offering : State :=
  let at' (h sk core : Nat) : Ply := { widePly .raw 2 0 0 (placedPly h 2 0) with skein := sk, core }
  { onPage (codeOf [.acczero hd0 (.s 1) 0, .bind hd0 0]) id with
    plies := [at' 1 0 0, at' 3 6 1]
    cores := [{ Core.empty 0 with runs := [⟨0, 0, false, [(1, 2)]⟩] }, { Core.empty 1 with runs := [⟨0, 0, false, [(3, 2)]⟩] }]
    skeins := [skein1 tileCarve, { skein1 tileCarve with handle := 6, core := 1 }], pairs := [pair1 .f32] }

theorem met_PairOperationsBeginInBlockOrder :
    (let s (i j : OpBody) : State := { paired .f32 (widePly .raw 2 0 0) with ops := [pairOp i, { pairOp j with id := 10 }] }
      let q : Pair := { pair1 .f32 with queue := [9, 10] }
      let s1 (i j : OpBody) : State := { s i j with pairs := [q] }
      (s1 (.acczero 5) (.accst 5 0)).pair 0 = some q
      ∧ (s1 (.acczero 5) (.accst 5 0)).pairMayBegin q 9 = true ∧ (s1 (.acczero 5) (.accst 5 0)).pairMayBegin q 10 = false
      ∧ (s1 (.acczero 5) (.accst 6 0)).pairMayBegin q 10 = true)
    ∧ (let p := offering.plies.headD (placedPly 0 0 0)
      let c := p.courses.headD (Course.fresh 0 0 [] 0)
      let i : Instr := .acczero hd0 (.s 1) 0
      offering.bound p = some (pair1 .f32, bind1 .f32) ∧ p.hub = none ∧ i ∈ offering.chainAt p c ∧ entersPair (shapeOf i) = true
        ∧ (pair1 .f32).taken = p.core
        ∧ ∃ r ∈ offering.rivals (2 * (pair1 .f32).core + 1 - p.core) entersPair, r.2 = offering.offerTime p c) := by
  decide +kernel

theorem met_AccumulatorOperationsRetire :
    (∀ body ∈ ([.acczero 5, .accfree 5] : List OpBody),
      Begun (beginning .f32 body) 0 { pair1 .f32 with queue := [9], begun := [(9, 100)] } (pairOp body) 100
      ∧ ({ pair1 .f32 with queue := [9], begun := [(9, 100)] } : Pair).block 5 = some (block1 .f32))
    ∧ Begun (beginning .f32 (.mread 5 16 true 3) [31]) 0 { pair1 .f32 with queue := [9], begun := [(9, 100)] } (pairOp (.mread 5 16 true 3) [31]) 100
    ∧ 31 < (widePly .raw 2 0x10000 0 (placedPly 1 2 0)).fibres.length ∧ (block1 .f32).tag ≠ .poison ∧ (block1 .f32).tag ≠ .raw
    ∧ (let e : PairEnd := ⟨9, 112, [(31, 16, ⟨5, .f32⟩), (31, 17, ⟨6, .f32⟩)], []⟩
      let q : Pair := { pair1 .f32 with ending := [e] }
      let s := { beginning .f32 (.mread 5 16 true 3) [31] with pairs := [q] }
      s.pair 0 = some q ∧ s.op 9 = some (pairOp (.mread 5 16 true 3) [31]) ∧ q.ending.find? (·.op == 9) = some e
        ∧ s.ply 1 = some (widePly .raw 2 0x10000 0 (placedPly 1 2 0))
        ∧ ∀ x ∈ e.regs, x.1 = 31 → x.2.1 = 17 → x.2.2 = ⟨6, .f32⟩) :=
  ⟨fun body _ => ⟨(beginning_meets .f32 body [3]).1, (beginning_meets .f32 body [3]).2.1⟩, (beginning_meets .f32 (.mread 5 16 true 3) [31]).1,
    by decide, by decide, by decide, rfl, rfl, rfl, rfl, by decide⟩

/-- A granule of memory without a code of its own arrives valid. -/
theorem uncoded_valid (s : State) (p : Ply) (a ia : Nat) (hs : s.specs = []) (hc : s.codes = []) (ht : s.tagFail = []) :
    ∃ w, judged (s.granuleFor p a ia) ia = .valid w := by
  have hw : s.ownWrite p ia = none := by simp [State.ownWrite, State.specOf, hs]
  simp [State.granuleFor, hw, ht, judged, State.granule, hc, SMap.get, Granule.judge]

/-- A charge leaves the budgets of other holders and resources. -/
theorem pay_keeps (id : Nat) (b : BudgetRec) (l : List Charge) : ∀ s : State, b ∈ s.budgets →
    (∀ c ∈ l, b.is c.pkg c.holder c.resource c.unit = false) → b ∈ (l.foldl (fun s c => s.pay id c) s).budgets := by
  induction l with
  | nil => exact fun s h _ => h
  | cons c r ih =>
    refine fun s hs hc => ih (s.pay id c) ?_ fun d hd => hc d (List.mem_cons_of_mem _ hd)
    exact List.mem_map.mpr ⟨b, hs, if_neg (by simp [hc c List.mem_cons_self])⟩

/-- Operation 9 owes bytes of a link to its enclave's budget. -/
def owing9 : BudgetRec := ⟨0, ⟨0, 1, 0, 0, 0, 0⟩, 0, [(9, 64)], 0, false⟩

/-- A transfer is held while its operation owes bytes to a budget. -/
theorem acc_is_held (s : State) (p : Ply) (va : Nat) (o : Op) (hs : owing9 ∈ s.budgets) (ho : o.id = 9) (acc : Access := .read) :
    (s.spendAcc o p va acc).2 = false := by
  have hne : s.budgets.isEmpty = false := by cases h : s.budgets <;> simp_all
  have hw (l : List Charge) (hl : ∀ c ∈ l, c.resource = 0) : (s.spendAll 9 l).2 = false := by
    have hk := pay_keeps 9 owing9 l s hs fun c hc => by simp [BudgetRec.is, owing9, hl c hc]
    unfold State.spendAll
    rw [if_neg (by simp [hne]), if_pos (List.any_eq_true.mpr ⟨owing9, hk, by decide⟩)]
  simp only [State.spendAcc, State.spendLines, hne, Bool.false_eq_true, if_false, ho]
  refine hw _ fun c hc => ?_
  simp only [List.nil_append, lineCharges, List.mem_map] at hc
  obtain ⟨_, -, rfl⟩ := hc
  rfl

theorem met_AccumulatorTransfersMoveTheImage :
    let p := widePly .raw 2 0x10000 0 (placedPly 1 2 0)
    let good := beginning .f32 (.accld 5 0x10000 .f32)
    let o : Op := pairOp (.accld 5 0x10000 .f32)
    (good.spendAcc o p 0x10000 .read = (good, true) ∧ good.issuer o = some p
      ∧ good.accFails p.core p.asid 0x10000 .read o.pages = [] ∧ good.forkReady o = true
      ∧ ∀ d ∈ (good.accPlaces p 0x10000 .read o.pages).map fun x => judged (good.granuleFor p x.1 x.2) x.2, ∃ w, d = .valid w)
    ∧ (let s := { good with codes := [(24576, some 1)] }
      s.spendAcc o p 0x10000 .read = (s, true) ∧ s.forkReady o = true
      ∧ .badCode ∈ (s.accPlaces p 0x10000 .read o.pages).map fun x => judged (s.granuleFor p x.1 x.2) x.2)
    ∧ (let s := beginning .f32 (.accst 5 0x10000)
      s.spendAcc (pairOp (.accst 5 0x10000)) p 0x10000 .write = (s, true) ∧ s.forkReady (pairOp (.accst 5 0x10000)) = true)
    ∧ (let s := beginning .f32 (.accld 5 0x200000 .f32)
      s.spendAcc (pairOp (.accld 5 0x200000 .f32)) p 0x200000 .read = (s, true) ∧ s.forkReady (pairOp (.accld 5 0x200000 .f32)) = true
      ∧ s.accFails p.core p.asid 0x200000 .read [] ≠ [])
    ∧ (let s := { good with budgets := [owing9] }
      (s.spendAcc o p 0x10000 .read).2 = false ∧ s.forkReady o = true) := by
  refine ⟨⟨rfl, rfl, by decide +kernel, by decide +kernel, fun d hd => ?_⟩, ⟨rfl, by decide +kernel, ?_⟩, ⟨rfl, by decide +kernel⟩,
    ⟨rfl, by decide +kernel, by decide +kernel⟩, ⟨?_, by decide +kernel⟩⟩
  · obtain ⟨x, -, rfl⟩ := List.mem_map.mp hd
    exact uncoded_valid _ _ _ _ rfl rfl rfl
  · refine List.mem_map.mpr ⟨(196608, 0x10000), List.mem_filterMap.mpr ⟨0, List.mem_range.mpr (by decide), ?_⟩, by decide +kernel⟩
    have h : (({ beginning .f32 (.accld 5 0x10000 .f32) with codes := [(24576, some 1)] } : State).locate (coreAper 0) 0 (0x10000 + 8 * 0) .read []).toOption
        = some (196608, 0x10000) := by decide +kernel
    exact (congrArg (fun e => match e with | Except.error _ => none | .ok x => some x) (ok_of h) :)
  · exact acc_is_held _ _ _ _ List.mem_cons_self rfl

theorem met_PairResetCancelsTheQueue :
    let s := beginning .f32 (.acczero 5)
    let q : Pair := { pair1 .f32 with queue := [9], begun := [(9, 100)] }
    s.pair 0 = some q ∧ (9, 100) ∈ q.begun ∧ 100 + 4096 ≤ s.clock ∧ s.op 9 = some (pairOp (.acczero 5)) ∧ (pairOp (.acczero 5)).body.arrayCycles ≠ none
      ∧ 9 ∈ q.queue ∧ (s.op 9).isSome = true := by
  decide +kernel

/-! ### Device memory -/

/-- An enclave under ASID 2 on package 0, with its kick page at 0x50000 and queue 0 of 16 frames empty at sequence 30. -/
def encl1 : Enclave where
  enc := 5
  asid := 2
  running := true
  pkg := 0
  part := 0
  rbase := 0
  rsize := 2 ^ 36
  kick := 0x50000
  spill := 0x60000
  nspill := 0
  nthr := 0
  ttab := 0
  vframes := []
  trep := 0
  meas := []
  epoch := 0
  count := 0
  seals := 0
  versions := []
  frames := 0
  savedTab := []
  ceiling := 20
  job := none
  threads := []
  ifaces := []
  trepSeq := 0
  creation := 0
  queues := [(0, { Queue.off with qbase := 0x10000, head := 30, tail := 30 })]
  streams := []
  hubQueues := []
  discards := 0
  keyPkg := 0
  sealing := none

/-- The tree of `tree` under ASID 2, its page owned by that enclave; on the hub die a root table that is none. -/
def tree2 : State :=
  { tree with
    roots := [(0, some 65536), (2, some 65536), (12290, some 0)]
    ranges := [(32, some ⟨true, 0, 2 ^ 36, 0⟩)]
    owners := [(1, { Owner.free with state := 1 }), (2, { Owner.free with state := 1 }),
      (3, { state := 1, kind := 1, ceil := 7, enc := 5, gen := 0, iapg := 1 })]
    enclaves := [encl1] }

/-- A state as `onPage` makes it, of the enclave. -/
def onEnclave (bytes : List Byte) (f : Ply → Ply) (len : Nat := 8) : State :=
  { tree2 with
    nextId := 3, plies := [f { placedPly 1 2 0 with asid := 2, enc := 5 }], cur := some { ply := 1, course := 2, addr := placeVa, len }
    mem := memWrite tree2.mem (flat 0 (3 * 65536)) bytes }

/-- What the page of the instruction gives for 0x10040. -/
def tr1 : Trans := ⟨0x10040, ⟨1, 7, 0, 0, 16, false⟩⟩

theorem met_MemoryInstructionsLeaveAnAccessPerFibre :
    let placed (acc : Access) (kick : Bool) (va : Issue → Nat → Nat) (s : State) (x : Issue) : Prop := x.active ≠ [] ∧ s.specOf x.ply = none
      ∧ ∀ f ∈ x.active, (s.xlateFor x.ply (va x f) acc).toOption = some (some tr1) ∧ (kick = false → s.isKick x.ply.asid tr1.ia = false)
    let v1 (x : Issue) (f : Nat) : Nat := fibreAddr x f (.v 1) .zero 64
    let v2 (x : Issue) (f : Nat) : Nat := fibreAddr x f (.v 1) (.v 2) 0
    (Meets (.ld hd0 (.v 5) (.v 1) 64 0 .i32 true 3) noExtra fun s x => placed .read true v1 s x
      ∧ ∀ g ∈ x.active, CtlOk x g (.v 1) ∧ CtlOk x g .zero ∧ v1 x g % 8 = 0)
    ∧ (Meets (.ldBase hd0 5 (.v 1) (.v 2)) noExtra fun s x => placed .read true v2 s x
      ∧ ∀ g ∈ x.active, CtlOk x g (.v 1) ∧ CtlOk x g (.v 2) ∧ v2 x g % 8 = 0)
    ∧ (Meets (.st hd0 (.v 3) (.v 1) 64 0 false 0) noExtra fun s x => placed .write true v1 s x
      ∧ ∀ g ∈ x.active, CtlOk x g (.v 1) ∧ CtlOk x g .zero ∧ v1 x g % 8 = 0)
    ∧ (Meets (.stBase hd0 3 (.v 1) (.v 2)) noExtra fun s x => placed .write true v2 s x
      ∧ ∀ g ∈ x.active, CtlOk x g (.v 1) ∧ CtlOk x g (.v 2) ∧ v2 x g % 8 = 0)
    ∧ (Meets (.atom hd0 (.v 5) (.s 1) (.v 2) (.v 3) 0 10) noExtra fun s x => placed .atomic false (regAddr (.s 1)) s x
      ∧ ∀ g ∈ x.active, CtlOk x g (.s 1) ∧ (x.reg g (.v 2)).tag = .i64 ∧ atomBytes 10 (x.reg g (.v 2)).tag = 8 ∧ Holds x g .i64 (.v 3) ∧ regAddr (.s 1) x g % 8 = 0)
    ∧ (Meets (.redms hd0 (.s 1) (.v 2) .i64 true 0) noExtra fun s x => placed .atomic false (regAddr (.s 1)) s x
      ∧ ∀ g ∈ x.active, CtlOk x g (.s 1) ∧ Holds x g .i64 (.v 2) ∧ regAddr (.s 1) x g % 8 = 0)
    ∧ (Meets (.wakev hd0 (.v 5) (.s 1) (.v 2) 0 0) noExtra fun s x => placed .read false (regAddr (.s 1)) s x
      ∧ ∀ g ∈ x.active, CtlOk x g (.s 1) ∧ Holds x g .i64 (.v 2) ∧ regAddr (.s 1) x g % 8 = 0)
    ∧ Meets (.waitv hd0 (.v 5) (.s 1) (.v 2) (.v 3) 0) noExtra fun s x => placed .read false (regAddr (.s 1)) s x
      ∧ ∀ g ∈ x.active, CtlOk x g (.s 1) ∧ Readable x g (.v 2) ∧ Holds x g .i64 (.v 3) ∧ regAddr (.s 1) x g % 8 = 0 :=
  ⟨meets_of (onPage [] (lanesPly .i64 0x10000 0x40 7)) (by decide +kernel) (by simp only [CtlOk, holds_iff]; decide +kernel),
    meets_of (onPage [] (lanesPly .i64 0x10000 0x40 7)) (by decide +kernel) (by simp only [CtlOk, holds_iff]; decide +kernel),
    meets_of (onPage [] (lanesPly .i64 0x10000 0x40 7)) (by decide +kernel) (by simp only [CtlOk, holds_iff]; decide +kernel),
    meets_of (onPage [] (lanesPly .i64 0x10000 0x40 7)) (by decide +kernel) (by simp only [CtlOk, holds_iff]; decide +kernel),
    meets_of (onPage [] (lanesPly .i64 0x10040 2 7)) (by decide +kernel) (by simp only [CtlOk, holds_iff]; decide +kernel),
    meets_of (onPage [] (lanesPly .i64 0x10040 2 7)) (by decide +kernel) (by simp only [CtlOk, holds_iff]; decide +kernel),
    meets_of (onPage [] (lanesPly .i64 0x10040 2 7)) (by decide +kernel) (by simp only [CtlOk, holds_iff]; decide +kernel),
    meets_of (onPage (codeOf [.waitv hd0 (.v 5) (.s 1) (.v 2) (.v 3) 0, .bind hd0 0]) (lanesPly .i64 0x10040 2 7)) (by decide +kernel)
      (by simp only [CtlOk, holds_iff, readable_iff]; decide +kernel)⟩

/-- An access of fibre 3 at 0x10040, in an operation of the ply, which waits. -/
def access1 (m : MemOp) (i : MItem) : Op := { opOf 9 2 [3] [] (.mem { m with items := [i] } 8) placeVa true true with asid := 2 }

def item1 (v c : Word) (st : AccessState := .waiting) : MItem := ⟨3, 0x10040, 0x10040, 0, 1, ⟨v, .i64⟩, ⟨c, .i64⟩, some 600, st⟩

def memOp1 (cls : MemClass) (code : Nat := 0) : MemOp := ⟨cls, .v 5, .i64, code, false, 0, []⟩

/-- The ply of `placedPly`, its one course waiting for fibre 3. -/
def waitingPly (p : Ply) : Ply := { p with courses := [{ Course.fresh 2 0 [3] placeVa with phase := .blocked [3] }] }

/-- A state in which that access stands, with a granule of memory at 0x10040. -/
def accessing (m : MemOp) (i : MItem) (w : Word := 0) : State :=
  { onEnclave (zeros 64 ++ bytesLE 8 w.toNat) waitingPly with ops := [access1 m i], nextId := 20, clock := 700 }

theorem met_FencesMakeAndAwaitTokens :
    (Meets (.pref hd0 (.v 1) 0 1) noExtra fun _ _ => True)
    ∧ (Meets (.fence hd0 2 0 31) noExtra fun s x => x.active.Nodup ∧ s.ops ≠ [])
    ∧ (Meets (.waitf hd0 2) noExtra fun s x => x.active.Nodup
      ∧ ∀ f ∈ x.active, ∀ e ∈ (SMap.get Token.empty (x.ply.fibre f).tokens 2).covered, s.itemDone e = true)
    ∧ Meets (.waitf hd0 2) noExtra fun s x => x.hub = false
      ∧ ∃ f ∈ x.active, ∃ e ∈ (SMap.get Token.empty (x.ply.fibre f).tokens 2).covered, s.itemDone e = false := by
  refine ⟨meets_of (onPly id) (by decide +kernel) trivial,
    meets_of { onPly id 4 with ops := [access1 (memOp1 .load) (item1 0 0)] } (by decide +kernel) (by decide +kernel),
    meets_of (onPage (codeOf [.waitf hd0 2, .bind hd0 0]) fun p => { p with
      fibres := List.replicate 8 { Fibre.dormant with live := true, tokens := [(2, ⟨0, 31, [⟨9, 3⟩]⟩)] } }) (by decide +kernel) (by decide +kernel),
    meets_of { onPage (codeOf [.waitf hd0 2, .bind hd0 0]) (fun p => { p with
      fibres := List.replicate 8 { Fibre.dormant with live := true, tokens := [(2, ⟨0, 31, [⟨9, 3⟩]⟩)] } }) with
      ops := [access1 (memOp1 .load) (item1 0 0)] } (by decide +kernel) (by decide +kernel)⟩

/-- `Performs`, in that state. -/
theorem performs1 (m : MemOp) (i : MItem) (w : Word) (k : MemClass) (h1 : (accessing m i w).access 9 3
      = some (access1 m i, waitingPly { placedPly 1 2 0 with asid := 2, enc := 5 }, { m with items := [i] }, i))
    (hr : m.cls = k ∧ i.home = 0 ∧ (accessing m i w).isKick 2 i.ia = false
      ∧ ((accessing m i w).resolve i.home 2 i.ia k.access false).toOption = some 196672) :
    Performs (accessing m i w) (access1 m i) 3 (waitingPly { placedPly 1 2 0 with asid := 2, enc := 5 }) { m with items := [i] } i k 196672 :=
  ⟨h1, hr.1, hr.2.1, hr.2.2.1, rfl, rfl, ok_of hr.2.2.2⟩

theorem met_LoadsAndStoresPerformAtTheHome :
    let p := waitingPly { placedPly 1 2 0 with asid := 2, enc := 5 }
    let ld := item1 0 0
    (Performs (accessing (memOp1 .load) ld 77) (access1 (memOp1 .load) ld) 3 p { memOp1 .load with items := [ld] } ld .load 196672
      ∧ (accessing (memOp1 .load) ld 77).deliver 196672 0x10040 = .valid 77)
    ∧ ({ accessing (memOp1 .load) ld 77 with codes := [(24584, some 1)] }.deliver 196672 0x10040 = .badCode
      ∧ { accessing (memOp1 .load) ld 77 with tagFail := [3073] }.deliver 196672 0x10040 = .badTag)
    ∧ (let g : Granule := ⟨5, selv 5 0x10040⟩
      let s := { accessing (memOp1 .load) ld 77 with cores := [{ Core.empty 0 with l1 := [(cacheKey 2 0x10040, g)] }] }
      s.access 9 3 = some (access1 (memOp1 .load) ld, p, { memOp1 .load with items := [ld] }, ld) ∧ ld.kind ≠ 0 ∧ s.specOf p = none
        ∧ (s.core p.core).copy (cacheKey p.asid ld.ia) = some g ∧ g.judge ld.ia = .valid 5)
    ∧ Performs (accessing (memOp1 .store) (item1 9 0)) (access1 (memOp1 .store) (item1 9 0)) 3 p { memOp1 .store with items := [item1 9 0] } (item1 9 0)
        .store 196672
    ∧ (accessing (memOp1 .store) (item1 9 0)).tagFail.contains (196672 / 64) = false :=
  ⟨⟨performs1 _ _ _ _ (by decide +kernel) (by decide +kernel), by decide +kernel⟩, by decide +kernel, by decide +kernel,
    performs1 _ _ _ _ (by decide +kernel) (by decide +kernel), by decide +kernel⟩

theorem atoms1 (c : Nat) (cmp : Word)
    (h : (accessing (memOp1 .atom c) (item1 9 cmp) 77).access 9 3 = some (access1 (memOp1 .atom c) (item1 9 cmp),
        waitingPly { placedPly 1 2 0 with asid := 2, enc := 5 }, { memOp1 .atom c with items := [item1 9 cmp] }, item1 9 cmp))
    (hr : (accessing (memOp1 .atom c) (item1 9 cmp) 77).isKick 2 0x10040 = false
      ∧ ((accessing (memOp1 .atom c) (item1 9 cmp) 77).resolve 0 2 0x10040 .atomic false).toOption = some 196672) :
    Performs (accessing (memOp1 .atom c) (item1 9 cmp) 77) (access1 (memOp1 .atom c) (item1 9 cmp)) 3
      (waitingPly { placedPly 1 2 0 with asid := 2, enc := 5 }) { memOp1 .atom c with items := [item1 9 cmp] } (item1 9 cmp) .atom 196672 :=
  performs1 _ _ _ _ h ⟨rfl, rfl, hr⟩

theorem met_MemorySideUnitCombinesAtTheHome :
    let p := waitingPly { placedPly 1 2 0 with asid := 2, enc := 5 }
    let performs (c : Nat) (cmp : Word) : Prop :=
      Performs (accessing (memOp1 .atom c) (item1 9 cmp) 77) (access1 (memOp1 .atom c) (item1 9 cmp)) 3 p { memOp1 .atom c with items := [item1 9 cmp] }
        (item1 9 cmp) .atom 196672
    (performs 0 0 ∧ performs 2 0 ∧ performs 9 0 ∧ performs 10 77 ∧ performs 10 78)
    ∧ (∀ c ∈ [0, 2, 9, 10], (accessing (memOp1 .atom c) (item1 9 0) 77).deliver 196672 0x10040 = .valid 77 ∧ c ≠ 1 ∧ c ≤ 10)
    ∧ (∀ c ∈ ([poisonCode 0x10040, 1] : List Byte),
      let s : State := { accessing (memOp1 .atom) (item1 9 0) with codes := [(24584, some c)] }
      s.deliver 196672 0x10040 = (if c = 1 then .badCode else .poison) ∧ (s.access 9 3).isSome = true)
    ∧ Performs (accessing (memOp1 .redms 4) (item1 9 0) 77) (access1 (memOp1 .redms 4) (item1 9 0)) 3 p { memOp1 .redms 4 with items := [item1 9 0] }
        (item1 9 0) .redms 196672
    ∧ (memOp1 .redms 4).fmt.isInt = true ∧ (memOp1 .redms 4).code % 4 = 0 :=
  ⟨⟨atoms1 _ _ (by decide +kernel) (by decide +kernel), atoms1 _ _ (by decide +kernel) (by decide +kernel), atoms1 _ _ (by decide +kernel) (by decide +kernel),
      atoms1 _ _ (by decide +kernel) (by decide +kernel), atoms1 _ _ (by decide +kernel) (by decide +kernel)⟩,
    by decide +kernel, by decide +kernel, performs1 _ _ _ _ (by decide +kernel) (by decide +kernel), by decide +kernel⟩

theorem met_WaitersSleepWakeAndTimeOut :
    let p := waitingPly { placedPly 1 2 0 with asid := 2, enc := 5 }
    let m : MemOp := memOp1 .waitv
    let asleep : State := { accessing m (item1 7 0 (.asleep (some 600))) with waiters := [⟨9, 3, 5, 0x2008, 0, 196672, false⟩] }
    -- the value differs, or it is read for the last time
    (Performs (accessing m (item1 7 0) 8) (access1 m (item1 7 0)) 3 p { m with items := [item1 7 0] } (item1 7 0) .waitv 196672
      ∧ (accessing m (item1 7 0) 8).deliver 196672 0x10040 = .valid 8 ∧ (8 : Word) ≠ (item1 7 0).val.val ∧ (access1 m (item1 7 0)).left = [3]
      ∧ (p.course 2).isSome = true)
    ∧ Performs (accessing m (item1 7 0 .last) 7) (access1 m (item1 7 0 .last)) 3 p { m with items := [item1 7 0 .last] } (item1 7 0 .last) .waitv 196672
    -- it is equal
    ∧ (Performs (accessing m (item1 7 0) 7) (access1 m (item1 7 0)) 3 p { m with items := [item1 7 0] } (item1 7 0) .waitv 196672
      ∧ (accessing m (item1 7 0) 7).deliver 196672 0x10040 = .valid 7 ∧ (accessing m (item1 7 0) 7).waiters.length < 65536)
    -- the timeout of a place in the table
    ∧ (asleep.op 9 = some (access1 m (item1 7 0 (.asleep (some 600)))) ∧ asleep.ply 1 = some p
      ∧ (access1 m (item1 7 0 (.asleep (some 600)))).pending 3 = some ({ m with items := [item1 7 0 (.asleep (some 600))] }, item1 7 0 (.asleep (some 600)))
      ∧ 600 ≤ asleep.clock ∧ ∀ q ∈ asleep.ops, q.ply = 1 → q = access1 m (item1 7 0 (.asleep (some 600))))
    -- WAKEV of an enclave
    ∧ (Performs (accessing (memOp1 .wakev) (item1 0 1)) (access1 (memOp1 .wakev) (item1 0 1)) 3 p { memOp1 .wakev with items := [item1 0 1] } (item1 0 1)
        .wakev 196672 ∧ (accessing (memOp1 .wakev) (item1 0 1)).encOfAsid 2 = some 5)
    -- NCQW, whose counter has come far enough, and its timeout
    ∧ (Performs (accessing (memOp1 .ncqw) (item1 7 0) 7) (access1 (memOp1 .ncqw) (item1 7 0)) 3 p { memOp1 .ncqw with items := [item1 7 0] } (item1 7 0)
        .ncqw 196672 ∧ (item1 7 0).val.val.extractLsb' 0 32 ≤ (7 : Word).extractLsb' 0 32)
    ∧ (let s := accessing (memOp1 .ncqw) (item1 7 0 (.asleep (some 600)))
      s.op 9 = some (access1 (memOp1 .ncqw) (item1 7 0 (.asleep (some 600)))) ∧ s.ply 1 = some p ∧ 600 ≤ s.clock
        ∧ ∀ q ∈ s.ops, q.ply = 1 → q.course = 2 → q = access1 (memOp1 .ncqw) (item1 7 0 (.asleep (some 600)))) :=
  ⟨⟨performs1 _ _ _ _ (by decide +kernel) (by decide +kernel), by decide +kernel⟩, performs1 _ _ _ _ (by decide +kernel) (by decide +kernel),
    ⟨performs1 _ _ _ _ (by decide +kernel) (by decide +kernel), by decide +kernel⟩, by decide +kernel,
    ⟨performs1 _ _ _ _ (by decide +kernel) (by decide +kernel), by decide +kernel⟩,
    ⟨performs1 _ _ _ _ (by decide +kernel) (by decide +kernel), by decide +kernel⟩, by decide +kernel⟩

/-- A store of the ply to a register of queue 0. -/
def kicking (reg : Nat) (v : Word) (q : Queue) : State :=
  let i : MItem := { item1 v 0 with va := 0x50000 + reg, ia := 0x50000 + reg }
  { accessing (memOp1 .store) i with enclaves := [{ encl1 with queues := [(0, q)] }] }

theorem met_KickPageRegistersTakeStores :
    ∀ c ∈ ([(0x10, 31), (0x10, 99), (0x00, 0x20000), (0x00, 1), (0x08, 0x41F02), (0x08, 2 ^ 20)] : List (Nat × Word)),
      let q : Queue := { Queue.off with qbase := 0x10000, head := 30, tail := if c.1 = 0x10 then 31 else 30 }
      let s := kicking c.1 c.2 q
      let i : MItem := { item1 c.2 0 with va := 0x50000 + c.1, ia := 0x50000 + c.1 }
      let e := { encl1 with queues := [(0, q)] }
      s.access 9 3 = some (access1 (memOp1 .store) i, waitingPly { placedPly 1 2 0 with asid := 2, enc := 5 }, { memOp1 .store with items := [i] }, i)
        ∧ s.isKick 2 i.ia = true ∧ s.enclaveOfAsid 2 = some e ∧ s.enclave 5 = some e ∧ s.specs = [] ∧ i.ia % 65536 / 0x400 = 0
        ∧ e.queue 0 = q ∧ q.qbase ≠ 0 ∧ q.qbase ≠ c.2.toNat ∧ i.ia % 0x400 = c.1 := by
  decide +kernel

/-! ### Copies, the storage stage, translation, posts -/

/-- A tensor map of one dimension of 8 elements of format 2, box 4, at base 0. -/
def map1 : List Byte := zeros 16 ++ [2] ++ zeros 23 ++ [8, 0, 0, 0, 4, 0] ++ zeros 210

/-- A ply of the page of the instruction with that skein; s1 = 0x10040, s2 = 64, s3 = 0. -/
def copying (bytes : List Byte := []) (c : Carve := carve1) : State := { onPage bytes (lanesPly .i64 0x10040 64 0) with skeins := [skein1 c] }

theorem met_CopyCommandsGoToTheEngine :
    let barOk (s : State) (x : Issue) (b : Src) : Prop := UniformCtl x b ∧ uni x b < (s.carve x.ply.skein).bars.length
    (Meets (.copy hd0 (.s 3) 8 (.imm 1) 0 4 false true 2 true) noExtra fun s x => x.active ≠ [] ∧ s.slotFree x.ply = true ∧ UniformCtl x (.s 3)
      ∧ barOk s x (.imm 1) ∧ (∀ k < 14, UniformCtl x (coordSrc 8 k)) ∧ uni x (.s 3) < (s.carve x.ply.skein).rings.length)
    ∧ (∀ dir ∈ ([0, 1, 2, 3] : List (BitVec 2)),
      let d : Src := if dir.toNat % 2 == 0 then .s 1 else .s 3
      let a : Src := if dir.toNat < 2 then .s 1 else .s 3
      Meets (.copyl hd0 d a (.s 2) (.imm 1) 0 dir true) noExtra fun s x => x.active ≠ [] ∧ s.slotFree x.ply = true ∧ UniformCtl x d ∧ UniformCtl x a
        ∧ UniformCtl x (.s 2) ∧ barOk s x (.imm 1) ∧ uni x (.s 2) % 8 = 0 ∧ uni x (.s 2) ≤ 2 ^ 24 ∧ uni x d % 8 = 0 ∧ uni x a % 8 = 0
        ∧ x.sideFaults s (dir.toNat % 2 == 0) (uni x d) (uni x (.s 2)) .write = []
        ∧ x.sideFaults s (decide (dir.toNat < 2)) (uni x a) (uni x (.s 2)) .read = [])
    ∧ Meets (.cmap hd0 1 0 0 4) noExtra fun s x => x.active ≠ [] ∧ s.slotFree x.ply = true ∧ UniformCtl x (.s 1)
      ∧ ((x.uniform (.s 1)) + (0 : BitVec 14).signExtend 64).toNat % 64 = 0
      ∧ s.rangeFaults x.ply ((x.uniform (.s 1)) + (0 : BitVec 14).signExtend 64).toNat 256 .read = [] := by
  refine ⟨meets_of (copying []) (by decide +kernel) (by simp only [UniformCtl, holds_iff]; decide +kernel), fun dir _ => ?_,
    meets_of (copying []) (by decide +kernel) (by simp only [UniformCtl, holds_iff]; decide +kernel)⟩
  refine meets_of (copying []) ?_ ?_
  · revert dir; decide +kernel
  · simp only [UniformCtl, holds_iff]; revert dir; decide +kernel

/-- An operation of the ply that an engine carries out. -/
def engineOp (body : OpBody) (left : List Nat := [0, 1]) : Op := opOf 9 2 left [] body placeVa

def engine (body : OpBody) (bytes : List Byte := []) (k : Skein := skein1 carve1) : State :=
  { copying bytes with ops := [engineOp body], skeins := [k], nextId := 20 }

/-- `Issued`, and the skein, in that state. -/
theorem engine_meets (body : OpBody) (bytes : List Byte) (k : Skein) (hk : k.handle = 0) :
    Issued (engine body bytes k) (engineOp body) (lanesPly .i64 0x10040 64 0 (placedPly 1 2 0))
      ∧ (engine body bytes k).skein (lanesPly .i64 0x10040 64 0 (placedPly 1 2 0)).skein = some k :=
  ⟨⟨rfl, rfl⟩, by simp [engine, State.skein, hk, lanesPly, placedPly]⟩

/-- `ValidAt`, computed. -/
def validAtB (s : State) (o : Op) (p : Ply) (va : Nat) (w : Nat → Word) (n : Nat) : Bool :=
  (s.specOf p).isNone && (List.range n).all fun k => match s.locate (coreAper p.core) p.asid (va + 8 * k) .read o.pages with
    | .ok (a, ia) => decide (s.deliver a ia = .valid (w k))
    | .error _ => false

theorem valid_at (s : State) (o : Op) (p : Ply) (va : Nat) (w : Nat → Word) (n : Nat) (h : validAtB s o p va w n = true) :
    ValidAt s o p va w n := by
  simp only [validAtB, Bool.and_eq_true, Option.isNone_iff_eq_none, List.all_eq_true, List.mem_range] at h
  refine ⟨h.1, fun k hk => ?_⟩
  have hx := h.2 k hk
  cases hl : s.locate (coreAper p.core) p.asid (va + 8 * k) .read o.pages with
  | error e => rw [hl] at hx; cases hx
  | ok y => rw [hl] at hx; exact ⟨y.1, y.2, rfl, by simpa using hx⟩

/-- Word `k` of bytes. -/
def wordOf (l : List Byte) (k : Nat) : Word := BitVec.ofNat 64 (ofBytesLE ((l.drop (8 * k)).take 8))

theorem met_CopyEngineCarriesCommandsOut :
    let p := lanesPly .i64 0x10040 64 0 (placedPly 1 2 0)
    let i : Instr := .copy hd0 (.s 3) 8 (.imm 1) 0 4 false true 2 true
    let body : OpBody := .copy i 0 1 (List.replicate 14 0) .rne 0 .queued
    let mapped : Skein := { skein1 carve1 with maps := [(4, some map1)] }
    let l (n : Nat) (bar : Option Nat) (ph : CopyPhase) : OpBody := .copyl 8 0x10040 n 1 bar ph
    -- a map slot that is empty, and one that is not
    (Issued (engine body) (engineOp body) p ∧ (engine body).engineTurn (engineOp body) p = true
      ∧ SMap.get none (skein1 carve1).maps (body.mapSlot.getD 0) = none)
    ∧ ((engine body [] mapped).engineTurn (engineOp body) p = true ∧ SMap.get none mapped.maps (body.mapSlot.getD 0) = some map1
      ∧ parseMap map1 = some ⟨0, 0, false, 0, 32, 2, [⟨0, 8, 4⟩]⟩ ∧ copyRing i = true
      ∧ (let j := copyJob i ⟨0, 0, false, 0, 32, 2, [⟨0, 8, 4⟩]⟩ (List.replicate 14 0) .rne 0 0
        pairOk j.src j.dst = true ∧ j.grouped = true) ∧ (mapped.carve.ring 0).isSome = true)
    -- a COPYL into the scratchpad, at once and when its page has come back
    ∧ ((engine (l 24 (some 1) .queued) (zeros 64 ++ map1)).engineTurn (engineOp (l 24 (some 1) .queued)) p = true
      ∧ (∀ ph ∈ [CopyPhase.queued, .held 0 []], 
        ValidAt (engine (l 24 (some 1) ph) (zeros 64 ++ map1)) (engineOp (l 24 (some 1) ph)) p 0x10040 (wordOf map1) (24 / 8)
        ∧ Paid (engine (l 24 (some 1) ph) (zeros 64 ++ map1)) (engineOp (l 24 (some 1) ph)) p 0x10040 24))
    -- the arrival at barrier 1, which expects, and at barrier 0, which does not
    ∧ ((l 24 (some 1) (.moved 24 [])).copyPhase = some (.moved 24 []) ∧ (l 24 (some 1) (.moved 24 [])).bar = some 1
      ∧ (skein1 carve1).carve.bars[1]? = some ⟨4, 3, true, false⟩ ∧ (skein1 carve1).carve.bars[0]? = some ⟨0, 0, false, false⟩)
    ∧ ((l 24 none (.moved 24 [])).copyPhase = some (.moved 24 []) ∧ (l 24 none (.moved 24 [])).bar = none ∧ (l 24 none (.arrived [])).copyPhase = some (.arrived []))
    -- CMAP
    ∧ ((engine (.cmap 0x10040 4) (zeros 64 ++ map1)).engineTurn (engineOp (.cmap 0x10040 4)) p = true
      ∧ ValidAt (engine (.cmap 0x10040 4) (zeros 64 ++ map1)) (engineOp (.cmap 0x10040 4)) p 0x10040 (wordOf map1) 32
      ∧ Paid (engine (.cmap 0x10040 4) (zeros 64 ++ map1)) (engineOp (.cmap 0x10040 4)) p 0x10040 256
      ∧ (parseMap (granuleBytes ((List.range 32).map (wordOf map1)))).isSome = true) := by
  refine ⟨⟨(engine_meets _ _ _ rfl).1, by decide +kernel⟩, by decide +kernel, ⟨by decide +kernel, fun ph hp => ⟨valid_at _ _ _ _ _ _ ?_, ⟨_, rfl⟩⟩⟩,
    by decide +kernel, by decide +kernel, by decide +kernel, valid_at _ _ _ _ _ _ (by decide +kernel), ⟨_, rfl⟩, by decide +kernel⟩
  revert ph; decide +kernel

/-- The enclave's hub copy queue 0 of four entries at 0x10000, with one descriptor; partition 0 of package 0 has die 0, and the
firewalls between it and the hub die are open to the enclave's ASID. -/
def hubCopying (bytes : List Byte) (ops : List Op := []) : State :=
  { onEnclave bytes id with
    enclaves := [{ encl1 with hubQueues := [(0, some ⟨0x10000, 2, 0, 1⟩)] }]
    partitions := [⟨0, [0], 0, 0, 0, [], [], [], []⟩]
    pkgs := [{ Pkg.fresh 0 with fwDie := [(0, 64), (6, 1)], fwAsid := [(0, [2]), (6, [2])] }]
    ops := ops }

/-- A hub thread's store of 3 to the doorbell of queue 0, the doorbell page being page 7. -/
def ringing : State :=
  let i : MItem := ⟨0, 0x70000, 0x70000, coreAper 864, 2, ⟨3, .i64⟩, Reg.zero, none, .waiting⟩
  let p := onHub { hubAt 0 with bell := some 7, thread := some (5, 0) } { placedPly 1 2 0 with asid := 2, enc := 5 }
  { hubCopying [] [opOf 9 2 [0] [] (.mem ⟨.store, .none, .raw, 0, false, 0, [i]⟩ 8) placeVa true true] with plies := [p] }

/-- A copy of the enclave's hub copy queue, from 0x10200 on, with its counter at 0x10100. -/
def hubCopyOp (dst bytes : Nat) (ok : Bool) : Op := { opOf 9 0 [] [] (.hubcopy 5 2 dst 0x10200 bytes 0x10100 ok) 0 false with ply := 0 }

/-- The first step of a copy has one source, wherever the free value points. -/
theorem first_hubStep (s : State) (ps : List Ply) (dies : List Nat) (asid dst src k : Nat) : s.hubStep ps dies asid dst src k s =
    match s.unitLocate dies asid (src + 8 * k) .read, s.unitLocate dies asid (dst + 8 * k) .write with
    | .ok (a, ia), .ok (b, ib) => (s.storeReg b ib (match s.deliver a ia with | .valid w => ⟨w, .raw⟩ | _ => ⟨0, .poison⟩)).unitWrote ps ib
    | _, _ => s := by
  simp only [State.hubStep, ite_self]
  try rfl

/-- A doorbell; a descriptor that is well formed and one that is not; their completions; a page that is absent; a granule that is
valid and one whose code is not. -/
theorem met_HubCopyQueuesAreServed :
    let e := { encl1 with hubQueues := [(0, some ⟨0x10000, 2, 0, 1⟩)] }
    (∃ o m i, ringing.ops.findSome? (ringing.bellStore 5 0 3) = some (o, m, i) ∧ ringing.op o.id = some o
      ∧ (ringing.ply o.ply).isSome = true ∧ m.cls = .store ∧ o.left = [i.fibre] ∧ ringing.enclave 5 = some e)
    ∧ (∀ d ∈ [0x10200, 0x10201],
      let s := hubCopying (bytesLE 8 d)
      s.enclave 5 = some e ∧ (e.hubQueue 0).head ≠ (e.hubQueue 0).tail ∧ s.hubCopies e.pkg < 4
        ∧ s.unitRead (e.dies s) e.asid ((e.hubQueue 0).base + 32 * (e.hubQueue 0).head) 4 = some [BitVec.ofNat 64 d, 0, 0, 0])
    ∧ (let s := hubCopying [] [hubCopyOp 0x10000 0 false]
      s.op 9 = some (hubCopyOp 0x10000 0 false) ∧ (s.unitLocate (e.dies s) e.asid 0x10100 .atomic).toOption = some (196864, 0x10100)
        ∧ s.deliver 196864 0x10100 = .valid 0)
    ∧ (let s := hubCopying [] [hubCopyOp 0x40000 8 true]
      s.op 9 = some (hubCopyOp 0x40000 8 true) ∧ ∃ x, s.unitRange (e.dies s) e.asid 0x40000 8 .write = some x ∧ x.cause = 0x11)
    ∧ (let s := hubCopying [] [hubCopyOp 0x10000 8 true]
      s.op 9 = some (hubCopyOp 0x10000 8 true) ∧ s.unitRange (e.dies s) e.asid 0x10000 8 .write = none
        ∧ s.unitRange (e.dies s) e.asid 0x10200 8 .read = none ∧ s.spendHubCopy 9 e.enc (e.dies s) e.asid 0x10000 0x10200 8 = (s, true)
        ∧ let t := s.hubStep (s.hubPlies e.enc) (e.dies s) e.asid 0x10000 0x10200 0 s
          ({ t with freeCtr := t.freeCtr + 1 }.unitLocate (e.dies s) e.asid 0x10100 .atomic).toOption = some (196864, 0x10100)
          ∧ { t with freeCtr := t.freeCtr + 1 }.deliver 196864 0x10100 = .valid 0)
    ∧ ∀ c ∈ [none, some 1],
      let s : State := { hubCopying [] with codes := SMap.set none [] (197120 / 8) c }
      (s.unitLocate (e.dies s) e.asid 0x10200 .read).toOption = some (197120, 0x10200)
        ∧ s.deliver 197120 0x10200 = (if c = none then .valid 0 else .badCode)
        ∧ (s.unitLocate (e.dies s) e.asid 0x10000 .write).toOption = some (196608, 0x10000) ∧ s.tagFail.contains (196608 / 64) = false :=
  ⟨⟨_, _, _, rfl, rfl, by decide +kernel⟩, by decide +kernel, by decide +kernel, ⟨rfl, _, rfl, rfl⟩,
    ⟨rfl, by decide +kernel, by decide +kernel, rfl, by rw [first_hubStep]; decide +kernel⟩, by decide +kernel⟩

/-- A stage list at 0x10100: a ring of blocks of 4 KiB at 0x10000, its completion record at 0x10F00, one extent of device 3. -/
def stageList : List Byte :=
  zeros 256 ++ bytesLE 8 0x10000 ++ bytesLE 8 0x10F00 ++ bytesLE 4 1 ++ [12, 1] ++ zeros 42 ++ [3] ++ zeros 15 ++ [5] ++ zeros 15

/-- Stream 0 as named, and operation 9 a STGPOST of a list to it. -/
def staging (k : Stream) (list : Nat := 0x10100) : State :=
  { onEnclave stageList (lanesPly .i64 0x10100 0 2) with
    enclaves := [{ encl1 with streams := [(0, k)], ifaces := [⟨3, 0, 0, 0, 0, true, []⟩] }]
    partitions := [⟨0, [0], 0, 0, 0, [], [], [], []⟩]
    pkgs := [{ Pkg.fresh 0 with fwDie := [(0, 64), (6, 1)], fwAsid := [(0, [2]), (6, [2])] }]
    ops := [opOf 9 2 [0] [] (.stgpost list 0 (.s 5)) placeVa], nextId := 20, clock := 100 }

theorem met_StageStreamsFollowTheirRules :
    let live : Stream := { Stream.idle with active := true, gen := 2, nb := 1, total := 5, requested := [0], next := 1 }
    let e (k : Stream) : Enclave := { encl1 with streams := [(0, k)], ifaces := [⟨3, 0, 0, 0, 0, true, []⟩] }
    let p := lanesPly .i64 0x10100 0 2 { placedPly 1 2 0 with asid := 2, enc := 5 }
    (Meets (.stgpost hd0 (.s 5) (.s 1) (.s 2) 0) noExtra fun s x => x.active ≠ [] ∧ UniformCtl x (.s 1) ∧ UniformCtl x (.s 2) ∧ s.specOf x.ply = none)
    ∧ (∀ fin ∈ [true, false], Meets (.stgadv hd0 (.s 2) (.s 3) fin) noExtra fun s x => x.active ≠ [] ∧ UniformCtl x (.s 2) ∧ UniformCtl x (.s 3)
      ∧ s.releaseReady x.ply.handle x.active = true ∧ s.ops = [] ∧ uni x (.s 2) < 16 ∧ s.enclave x.ply.enc = some (e live)
      ∧ ((e live).stream (uni x (.s 2))).active = true)
    ∧ (∀ c ∈ [(live, 0x10100), (Stream.idle, 0x10101), (Stream.idle, 0x10100)],
      let s := staging c.1 c.2
      s.enclave 5 = some (e c.1) ∧ UnderWay s (opOf 9 2 [0] [] (.stgpost c.2 0 (.s 5)) placeVa) p ∧ p.enc = 5
        ∧ s.forkReady (opOf 9 2 [0] [] (.stgpost c.2 0 (.s 5)) placeVa) = true ∧ (∀ q ∈ s.ops, ¬ q.id < 9)
        ∧ (s.stagePost p (e c.1) c.2 c.1).1 = if c.1.active then 1 else if c.2 % 64 ≠ 0 then 2 else 0)
    ∧ (((e live).stream 0).draining = [] ∧ live.next < live.total ∧ live.next < live.c + live.nb + 1 ∧ 1 < live.gen ∧ 0 ∈ live.requested)
    ∧ (let k : Stream := { live with draining := [(3, 90)], requested := [] }
      (staging k).enclave 5 = some (e k) ∧ k.draining ≠ [] ∧ k.requested = [] ∧ ∀ c ∈ k.draining, c.2 ≤ (staging k).clock) := by
  refine ⟨meets_of { staging Stream.idle with ops := [] } (by decide +kernel) (by simp only [UniformCtl, holds_iff]; decide +kernel), fun fin hf => ?_,
    by simp only [UnderWay]; decide +kernel, by decide +kernel, by decide +kernel⟩
  refine meets_of { staging { Stream.idle with active := true, gen := 2, nb := 1, total := 5, requested := [0], next := 1 } with ops := [] } ?_ ?_
  · revert fin; decide +kernel
  · simp only [UniformCtl, holds_iff]; revert fin; decide +kernel

/-- Hub core 0 at supervisor level with the values of a range in s8 to s10. -/
def ranging : State :=
  onPly fun p => onHub (hubAt 1) { p with s := [(8, ⟨0x10001, .i64⟩), (9, ⟨0x20000, .i64⟩), (10, ⟨0x30000, .i64⟩), (1, ⟨2, .i64⟩)] }

theorem met_TranslationInstructionsTakeEffect :
    let rng : Range := ⟨true, 1, 2, 3⟩
    let p := placedPly 1 2 0
    (Meets (.rngset hd0 8 (.s 1) 0 4) noExtra fun s x => x.active ≠ [] ∧ UniformCtl x (.s 1) ∧ (∀ k < 3, UniformCtl x (coordSrc 8 k))
      ∧ s.asidLive (uni x (.s 1)) = true ∧ (uni x (.s 1) = 1 → x.ply.level3 = 2)
      ∧ rangeOf (uni x (coordSrc 8 0)) (uni x (coordSrc 8 1)) (uni x (coordSrc 8 2)) = some rng)
    ∧ (Meets (.atinv hd0 (.s 8) (.s 1) 0 0) noExtra fun _ x => x.active ≠ [] ∧ UniformCtl x (.s 8) ∧ UniformCtl x (.s 1))
    ∧ (Meets (.pgq hd0 (.v 5) (.v 1) .zero 0) noExtra fun _ x => x.active ≠ [] ∧ ∀ f ∈ x.active, CtlOk x f (.v 1))
    ∧ (rangeOf 0x10001 0x20000 0x30000 = some rng ∧ rangeOf 0 0 0 = some ⟨false, 0, 0, 0⟩)
    ∧ (∀ b ∈ ([.rngset 2 4 rng, .atinv 0 0x10000 2 [], .atinv 2 0 0 [], .pgq (.v 5) 2 false [(0, 0x10040)]] : List OpBody),
      let o : Op := opOf 9 2 [0] [] b placeVa
      let s := { onEnclave [] id with ops := [o] }
      UnderWay s o { p with asid := 2, enc := 5 } ∧ s.asidLive 2 = true ∧ s.usersOf 0 0x10000 2 0 = [] ∧ rng ≠ rangeAtReset 2 4) := by
  refine ⟨meets_of { ranging with enclaves := [encl1] } (by decide +kernel) (by simp only [UniformCtl, holds_iff]; decide +kernel),
    meets_of ranging (by decide +kernel) (by simp only [UniformCtl, holds_iff]; decide +kernel),
    meets_of (lanes .i64 0x10040 0 0) (by decide +kernel) (by simp only [CtlOk, holds_iff]; decide +kernel), by decide +kernel,
    by simp only [UnderWay]; decide +kernel⟩

/-- The ply of the enclave, its queue 0 with that head and tail; s1 to s3 hold values. -/
def posting (head tail : Nat) (a b c : Word) (nets : Nat := 0) : State :=
  { onEnclave (zeros 64 ++ [7]) (lanesPly .i64 a b c) with
    enclaves := [{ encl1 with queues := [(0, { Queue.off with qbase := 0x10000, head := head, tail := tail })] }]
    partitions := [⟨0, [0], 0, 0, 0, [], [], [], []⟩]
    nets := List.replicate nets ⟨0, 5, 2, 0, 0, [], 0, 0, [], false, [], [], [], [], none, 0, [], []⟩
    pkgs := [{ Pkg.fresh 0 with fwDie := [(0, 64), (6, 1)], fwAsid := [(0, [2]), (6, [2])] }] }

/-- Operation 9 of that ply, of an earlier cycle, is a post. -/
def posted (head tail : Nat) (body : OpBody) (nets : Nat := 0) : State :=
  { posting head tail 0 0 0 nets with ops := [opOf 9 2 [0] [] body placeVa], clock := 5, nextId := 20 }

/-- What the clauses about a settled post ask of every state. -/
def postReady (head tail : Nat) (body : OpBody) (nets : Nat := 0) : Bool :=
  let s := posted head tail body nets
  let o := opOf 9 2 [0] [] body placeVa
  decide (s.op 9 = some o) && (match s.ply 1 with | some p => p.enc == 5 && (s.specOf p).isNone | none => false)
    && decide (s.enclave 5 = some { encl1 with queues := [(0, { Queue.off with qbase := 0x10000, head := head, tail := tail })] })
    && decide (o.time < s.clock) && s.forkReady o && s.ops.all fun x => !decide (x.id < 9)

theorem met_PostsGiveTheirStatus :
    let gives (s : State) (x : Issue) : Prop := x.active ≠ [] ∧ s.specOf x.ply = none ∧ UniformCtl x (.s 1) ∧ UniformCtl x (.s 2)
    let e (head tail : Nat) : Enclave := { encl1 with queues := [(0, { Queue.off with qbase := 0x10000, head := head, tail := tail })] }
    (∀ i ∈ ([.launch hd0 (.s 5) (.s 1) (.s 2) 0, .npost hd0 (.s 5) (.s 1) (.s 2) 0] : List Instr), Meets i noExtra gives)
    -- LAUNCH: no such queue, a full queue, a misplaced descriptor, an entry
    ∧ (postReady 30 30 (.launch 64 0x10040 (.s 5)) = true ∧ 63 < 64)
    ∧ (postReady 30 46 (.launch 0 0x10040 (.s 5)) = true ∧ ((e 30 46).queue 0).qbase ≠ 0 ∧ 2 ^ ((e 30 46).queue 0).log ≤ 46 - 30)
    ∧ (∀ va ∈ [0x10041, 0x10040], postReady 30 45 (.launch 0 va (.s 5)) = true ∧ ((e 30 45).queue 0).qbase ≠ 0
      ∧ 45 - 30 < 2 ^ ((e 30 45).queue 0).log ∧ ((e 30 45).queue 0).log ≤ 12 ∧ (va % 64 = 0 ∨ va = 0x10041))
    ∧ (posted 30 45 (.launch 0 0x10040 (.s 5))).unitRead ((e 30 45).dies (posted 30 45 (.launch 0 0x10040 (.s 5)))) 2 0x10040 32
        = some (7 :: List.replicate 31 0)
    -- NPOST: a count of 65, a misplaced list, no room, and room for one
    ∧ (postReady 30 30 (.npost 0x10040 65 (.s 5) [0]) = true ∧ postReady 30 30 (.npost 0x10041 64 (.s 5) [0]) = true)
    ∧ (∀ n ∈ [1024, 1023], postReady 30 30 (.npost 0x10040 1 (.s 5) [0]) n = true
      ∧ ((posted 30 30 (.npost 0x10040 1 (.s 5) [0]) n).readGranules (coreAper 0) 2 0x10040 8).toOption = some (7 :: List.replicate 7 0)
      ∧ ((posted 30 30 (.npost 0x10040 1 (.s 5) [0]) n).nets.filter (·.enc == 5)).length = n)
    ∧ Meets (.ncqw hd0 (.v 5) (.s 1) (.s 2) 0 6) noExtra fun s x => x.active ≠ [] ∧ UniformCtl x (.s 1) ∧ UniformCtl x (.s 2) ∧ uni x (.s 1) % 8 = 0
      ∧ (s.xlate x.ply.core x.ply.asid (uni x (.s 1)) .read).toOption = some (some tr1) ∧ s.isKick x.ply.asid tr1.ia = false := by
  refine ⟨meets_each (posting 30 30 64 0x10040 0) (by decide +kernel) ?_, by decide +kernel, by decide +kernel, by decide +kernel,
    by decide +kernel, by decide +kernel, by decide +kernel,
    meets_of { posting 30 30 0x10040 9 0 with mem := (onEnclave (codeOf [.ncqw hd0 (.v 5) (.s 1) (.s 2) 0 6, .bind hd0 0]) id).mem } (by decide +kernel) ?_⟩
  all_goals simp only [UniformCtl, holds_iff]; decide +kernel

/-- The leaf of page `i` of the region that is promoted: page 1 is that of the instruction. -/
def leafOf (i : Nat) : Nat := if i = 1 then 3 else 64 + i

/-- The table of that region, in cells of memory. -/
def leaves : List Host.Cell :=
  [(73730, 64), (73735, 158), (73738, 3), (73743, 158), (73746, 66), (73751, 158), (73754, 67), (73759, 158), (73762, 68), (73767, 158),
    (73770, 69), (73775, 158), (73778, 70), (73783, 158), (73786, 71), (73791, 158), (73794, 72), (73799, 158), (73802, 73), (73807, 158),
    (73810, 74), (73815, 158), (73818, 75), (73823, 158), (73826, 76), (73831, 158), (73834, 77), (73839, 158), (73842, 78), (73847, 158),
    (73850, 79), (73855, 158), (73858, 80), (73863, 158), (73866, 81), (73871, 158), (73874, 82), (73879, 158), (73882, 83), (73887, 158),
    (73890, 84), (73895, 158), (73898, 85), (73903, 158), (73906, 86), (73911, 158), (73914, 87), (73919, 158), (73922, 88), (73927, 158),
    (73930, 89), (73935, 158), (73938, 90), (73943, 158), (73946, 91), (73951, 158), (73954, 92), (73959, 158), (73962, 93), (73967, 158),
    (73970, 94), (73975, 158), (73978, 95), (73983, 158)]

def supOwner : Owner := { Owner.free with state := 1 }

def leafOwners : SMap Owner :=
  [(64, supOwner), (66, supOwner), (67, supOwner), (68, supOwner), (69, supOwner), (70, supOwner), (71, supOwner), (72, supOwner), (73, supOwner), (74, supOwner), (75, supOwner), (76, supOwner), (77, supOwner), (78, supOwner), (79, supOwner), (80, supOwner), (81, supOwner), (82, supOwner), (83, supOwner), (84, supOwner), (85, supOwner), (86, supOwner), (87, supOwner), (88, supOwner), (89, supOwner), (90, supOwner), (91, supOwner), (92, supOwner), (93, supOwner), (94, supOwner), (95, supOwner)]

/-- The control block of die 0 at 0x10040, with `w0` as its first word, head 0 and tail 1 of its pool at 0x10080, whose one
entry names the run of 32 frames from 128. -/
def promoting (w0 : Nat) (taken : Bool) : State :=
  { tree with
    mem := [(65538, 2), (65543, 0x40), (69633, 0x20), (69634, 1), (69639, 0x40)] ++ leaves
      ++ [(131073, 0x10), (131074, 1), (131079, 0x40)] ++ (if w0 = 1 then [(196672, 1)] else [])
      ++ [(196680, 0x80), (196682, 1), (196692, 1), (196697, 1), (196698, 1), (196738, 0x80)]
    owners := [(1, supOwner), (2, supOwner), (3, { state := 1, kind := 1, ceil := 7, enc := 0, gen := 0, iapg := 1 })] ++ leafOwners
      ++ if taken then [(130, supOwner)] else [] }

/-- The region of that table, with as many pages moved as named. -/
def region (moved : Nat) : Promo :=
  ⟨0, 0, 0, 0x12000, (List.range 32).map fun i => leafEntry 0 (leafOf i), linkEntry 0x12000, 128, 1, moved⟩

/-- That region under way, the frame of its first page owned or not. -/
def moving (m : Promo) (owned : Bool := false) : State :=
  { promoting 1 false with
    promos := [m]
    owners := (promoting 1 false).owners ++ if owned then [(128, { supOwner with gen := 1 })] else [] }

/-- The address of the control block is a free value of the model (log 29): for a block at 0x10040, the hypotheses of the
forms of the 2 MiB promotion, of the disabled engine, and of a die that may not promote 1 GiB. -/
theorem met_PromotionRewritesTheTree (h : Config.promotionBlock 0 = 0x10040) :
    (∃ c, (promoting 0 false).promotionCtl 0 = some c ∧ bitOf (field c 0 8) 0 = false ∧ field c 0 8 % 4 ≠ 3 ∧ (promoting 0 false).promos = [])
    ∧ (∀ taken ∈ [true, false], ∃ c es, (promoting 1 taken).promotionCtl 0 = some c ∧ (promoting 1 taken).promos = []
      ∧ (promoting 1 taken).entryAt 0 0 0 3 = some 0x12000
      ∧ (promoting 1 taken).entryAt 0 0 0 2 = some 0x11000 ∧ bitOf (field c 0 8) 0 = true ∧ logRoom c = true ∧ field c 16 4 ≠ field c 20 4
      ∧ (promoting 1 taken).equalLeaves 0 3 (0x12000 / 256 * 256) 32 = some es
      ∧ (promoting 1 taken).readGranules 0 0 (field c 8 8 + 8 * (field c 16 4 % 256)) 1 = .ok [0x800000]
      ∧ (∀ e ∈ es, ((promoting 1 taken).owner 0 (bitsOf e 16 22)).state = 1)
      ∧ bitsOf (0x800000 : Word).toNat 21 17 * 32 = 128
      ∧ if taken then ∃ k < 32, ((promoting 1 taken).owner 0 (128 + k)).state ≠ 0 else ∀ k < 32, ((promoting 1 taken).owner 0 (128 + k)).state = 0)
    ∧ (∀ m ∈ [region 0, { region 0 with leaves := [] }, region 32, { region 32 with upper := 0 }],
      ∃ c, (moving m).promotionCtl 0 = some c ∧ bitOf (field c 0 8) 0 = true ∧ logRoom c = true
        ∧ (moving m).promos.find? (·.die == 0) = some m ∧ (moving m).leased 0 ((region 0).old 0) = false ∧ (moving m).budgets = [])
    -- a page of which all stands as it was read, one whose leaf does not, one whose new frame is taken
    ∧ (((region 0).old 0 = 64 ∧ ((moving (region 0)).owner 0 64).state = 1 ∧ ((moving (region 0)).owner 0 128).state = 0)
      ∧ (moving (region 0)).tableWord 0 0x12000 = (region 0).leaf 0
      ∧ (moving { region 0 with leaves := [] }).tableWord 0 0x12000 ≠ ({ region 0 with leaves := [] } : Promo).leaf 0
      ∧ ((moving (region 0) true).owner 0 128).state ≠ 0)
    -- all are moved
    ∧ ((moving (region 32)).entryAt 0 0 0 2 = some 0x11000 ∧ (moving (region 32)).tableWord 0 0x11000 = (region 32).upper
      ∧ (moving { region 32 with upper := 0 }).tableWord 0 0x11000 ≠ ({ region 32 with upper := 0 } : Promo).upper) := by
  let ws (w0 : Word) : List Word := [w0, 0x10080, 2 ^ 32, 0x10100, 0, 0, 0, 0]
  have hs (s : State) (w : Word) (hr : (s.readGranules 0 0 0x10040 8).toOption = some (ws w)) :
      s.promotionCtl 0 = some (granuleBytes (ws w)) := by
    unfold State.promotionCtl
    rw [h, ok_of hr]
  refine ⟨⟨_, hs _ 0 ?_, ?_⟩, fun taken ht => ⟨_, (List.range 32).map fun i => leafEntry 0 (leafOf i), hs _ 1 ?_, ?_, ?_, ?_, ?_, ?_, ?_, ?_,
    ok_of ?_, ?_, ?_, ?_⟩, fun m hm => ⟨_, hs _ 1 ?_, ?_, ?_, ?_, ?_, ?_⟩, ?_, ?_⟩
  all_goals first | decide +kernel | (revert taken ht; decide +kernel) | (revert m hm; decide +kernel)

/-- The bytes of a table of which `e i` is entry `i`, from its byte `k`, in cells of memory. -/
def tableCells (e : Nat → Nat) (a k : Nat) : Nat → List Host.Cell
  | 0 => []
  | n + 1 =>
    let b := BitVec.ofNat 8 (e (k / 8) / 256 ^ (k % 8))
    (if b = 0 then [] else [(a + k, b)]) ++ tableCells e a (k + 1) n

theorem tableCells_below (e : Nat → Nat) (a k n x : Nat) (h : x < a + k) : SMap.get 0 (tableCells e a k n) x = 0 := by
  induction n generalizing k with
  | zero => rfl
  | succ n ih =>
    simp only [tableCells]
    split
    · exact ih (k + 1) (by omega)
    · simp only [List.cons_append, List.nil_append, SMap.get]
      rw [if_neg (by omega), if_pos h]

theorem tableCells_at (e : Nat → Nat) (a k n j : Nat) (h : k ≤ j) (hj : j < k + n) :
    SMap.get 0 (tableCells e a k n) (a + j) = BitVec.ofNat 8 (e (j / 8) / 256 ^ (j % 8)) := by
  induction n generalizing k with
  | zero => omega
  | succ n ih =>
    simp only [tableCells]
    by_cases hk : k = j
    · subst hk
      split
      · next h0 => rw [List.nil_append, tableCells_below _ _ _ _ _ (by omega), h0]
      · simp [SMap.get]
    · have := ih (k + 1) (by omega) (by omega)
      split
      · exact this
      · simp only [List.cons_append, List.nil_append, SMap.get]
        rw [if_neg (by omega), if_neg (by omega)]
        exact this

theorem get_after (m n : SMap Byte) (x : Nat) (h : ∀ c ∈ m, c.1 < x) : SMap.get 0 (m ++ n) x = SMap.get 0 n x := by
  induction m with
  | nil => rfl
  | cons c r ih =>
    have hc := h c (.head _)
    simp only [List.cons_append, SMap.get]
    rw [if_neg (by omega), if_neg (by omega)]
    exact ih fun y hy => h y (.tail _ hy)

theorem word_of_bytes (m : List Host.Cell) (a x n : Nat) (h : ∀ k < n, memByte m (a + k) = BitVec.ofNat 8 (x / 256 ^ k)) :
    ofBytesLE (memRead m a n) = x % 256 ^ n := by
  induction n generalizing a x with
  | zero => simp [memRead, ofBytesLE, Nat.mod_one]
  | succ n ih =>
    have h0 := h 0 (by omega)
    have hr := ih (a + 1) (x / 256) fun k hk => by
      rw [Nat.div_div_eq_div_mul, ← Nat.pow_succ', show a + 1 + k = a + (k + 1) by omega]
      exact h (k + 1) (by omega)
    simp only [Nat.add_zero, Nat.pow_zero, Nat.div_one] at h0
    rw [memRead, ofBytesLE, hr, h0, Nat.pow_succ', Nat.mod_mul]
    simp

theorem table_entry (e : Nat → Nat) (m : List Host.Cell) (a n i : Nat) (hm : ∀ c ∈ m, c.1 < a) (hi : i < n) (he : e i < 256 ^ 8) :
    ofBytesLE (memRead (m ++ tableCells e a 0 (8 * n)) (a + 8 * i) 8) = e i := by
  rw [word_of_bytes _ _ (e i), Nat.mod_eq_of_lt he]
  intro k hk
  rw [memByte, get_after _ _ _ fun c hc => by have := hm c hc; omega, Nat.add_assoc,
    tableCells_at _ _ _ _ _ (by omega) (by omega), show (8 * i + k) / 8 = i by omega, show (8 * i + k) % 8 = k by omega]

/-- The leaves of 2 MiB that stand in order from frame 16384. -/
def gibLeaf (i : Nat) : Nat := leafEntry 0 (16384 + 32 * i)

/-- The memory of `promoting` below the table of those leaves, which is at 0x50000, with the level-1 entry 1 that names it and
both enables of the control block set. -/
def gibLow : List Host.Cell :=
  [(65538, 2), (65543, 0x40), (69633, 0x20), (69634, 1), (69639, 0x40)] ++ leaves
    ++ [(131073, 0x10), (131074, 1), (131079, 0x40), (131082, 5), (131087, 0x40), (196672, 3)]
    ++ [(196680, 0x80), (196682, 1), (196692, 1), (196697, 1), (196698, 1), (196738, 0x80)]

def gib : State :=
  { promoting 1 false with
    mem := gibLow ++ tableCells gibLeaf 0x50000 0 (8 * 512)
    owners := [(1, supOwner), (2, supOwner), (3, { state := 1, kind := 1, ceil := 7, enc := 0, gen := 0, iapg := 1 }), (5, supOwner)] ++ leafOwners }

theorem gib_leaves : gib.equalLeaves 0 2 0x50000 512 = some ((List.range 512).map gibLeaf) := by
  have h : (List.range 512).map (fun i => gib.tableWord 0 (0x50000 + 8 * i)) = (List.range 512).map gibLeaf := by
    refine List.map_congr_left fun i hi => ?_
    have hi : i < 512 := List.mem_range.mp hi
    rw [State.tableWord, show flat 0 (0x50000 + 8 * i) = 0x50000 + 8 * i by simp only [flat]; omega]
    exact table_entry gibLeaf gibLow 0x50000 512 i (by decide +kernel) hi (by unfold gibLeaf leafEntry; omega)
  unfold State.equalLeaves
  rw [h]
  decide +kernel

/-- The same for the 1 GiB promotion. -/
theorem met_PromotionOfOneGib (h : Config.promotionBlock 0 = 0x10040) :
    ∃ c l2 l1 es, gib.promotionCtl 0 = some c ∧ gib.entryAt 0 0 (2 ^ 30) 2 = some l2 ∧ gib.entryAt 0 0 (2 ^ 30) 1 = some l1
      ∧ field c 0 8 % 4 = 3 ∧ logRoom c = true ∧ field c 16 4 ≠ field c 20 4 ∧ (∀ x ∈ gib.promos, x.die ≠ 0) ∧ gib.budgets = []
      ∧ gib.equalLeaves 0 2 (l2 / 4096 * 4096) 512 = some es ∧ bitsOf (es.headD 0) 16 22 % 2 ^ 14 = 0
      ∧ ∀ x ∈ es.zipIdx, bitsOf x.1 16 22 = bitsOf (es.headD 0) 16 22 + 32 * x.2 ∧ bitsOf x.1 0 16 = bitsOf (es.headD 0) 0 16 := by
  let ws : List Word := [3, 0x10080, 2 ^ 32, 0x10100, 0, 0, 0, 0]
  have hc : gib.promotionCtl 0 = some (granuleBytes ws) := by
    unfold State.promotionCtl
    have hr : (gib.readGranules 0 0 0x10040 8).toOption = some ws := by decide +kernel
    rw [h, ok_of hr]
  exact ⟨_, 0x50000, 0x20008, _, hc, by decide +kernel, by decide +kernel, by decide +kernel, by decide +kernel, by decide +kernel,
    by decide +kernel, by decide +kernel, gib_leaves, by decide +kernel, by decide +kernel⟩

/-! ### Sealed frames: a frame whose tag is right can be stood in memory, whatever the root key -/

theorem scatter_length (a : List Word) : (scatter a).length = a.length := by
  unfold scatter
  generalize turns = l
  suffices ∀ b : List Word, (l.foldl (fun b (src, dst, k) => b.set dst ((a.getD src 0).rotateLeft k)) b).length = b.length from this a
  induction l with
  | nil => intro b; rfl
  | cons t l ih => intro b; rw [List.foldl_cons, ih]; exact List.length_set ..

theorem permute_length (a : List Word) : (permute a).length = a.length := by
  unfold permute
  generalize roundConstants = l
  induction l generalizing a with
  | nil => rfl
  | cons k l ih =>
    rw [List.foldl_cons, ih, List.length_modify, mixRows, List.length_map, List.length_zipIdx, scatter_length, spread]
    simp

theorem takeIn_length (rate n : Nat) : ∀ (a : List Word) (b : List Byte), (takeIn rate n a b).length = a.length := by
  induction n with
  | zero => intro a b; rfl
  | succ n ih => intro a b; exact (ih _ _).trans ((permute_length _).trans (by simp))

theorem bytesLE_length (n : Nat) : ∀ x, (bytesLE n x).length = n := by
  induction n with
  | zero => intro x; rfl
  | succ n ih => intro x; simp [bytesLE, ih]

theorem sponge_length (suffix : Byte) (msg : List Byte) (out : Nat) (ho : out ≤ 136) : (sponge 136 suffix msg out).length = out := by
  have h (l : List Word) : (l.flatMap fun w => bytesLE 8 w.toNat).length = 8 * l.length := by
    induction l with
    | nil => rfl
    | cons a l ih => simp only [List.flatMap_cons, List.length_append, bytesLE_length, ih, List.length_cons]; omega
  unfold sponge
  simp only [giveOut, List.length_take, List.length_append, h, takeIn_length, List.length_replicate]
  omega

theorem key_length (e : Enclave) : e.ctxKey.length = 32 := sponge_length _ _ _ (by decide)

/-- Words of a key schedule have four bytes, and there are as many as were asked for. -/
theorem keyWords_length (key : List Nat) (hk : key.length = 32) (n : Nat) :
    (keyWords key n).length = n + 8 ∧ ∀ w ∈ keyWords key n, w.length = 4 := by
  induction n with
  | zero =>
    refine ⟨by simp [keyWords], fun w hw => ?_⟩
    simp only [keyWords, List.mem_reverse, List.mem_map, List.mem_range] at hw
    obtain ⟨i, hi, rfl⟩ := hw
    simp only [List.length_take, List.length_drop, hk]
    omega
  | succ n ih =>
    obtain ⟨h1, h2⟩ := ih
    have hd (l : List (List Nat)) (k : Nat) (hl : k < l.length) (ha : ∀ w ∈ l, w.length = 4) : (l.getD k []).length = 4 := by
      rw [List.getD_eq_getElem?_getD, List.getElem?_eq_getElem hl]
      exact ha _ (List.getElem_mem hl)
    have hh : ((keyWords key n).headD []).length = 4 := by
      cases hk : keyWords key n with
      | nil => rw [hk] at h1; simp at h1
      | cons w r => exact h2 w (by rw [hk]; exact List.mem_cons_self)
    refine ⟨by simp [keyWords, h1], fun w hw => ?_⟩
    simp only [keyWords, List.mem_cons] at hw
    rcases hw with rfl | hw
    · generalize (keyWords key n).headD [] = t at hh
      rw [List.length_zipWith, hd _ 7 (by omega) h2]
      split
      · simp [hh]
      · split <;> simp [hh]
    · exact h2 w hw

theorem gcmTag_length (e : Enclave) (iv aad ct : List Byte) : (gcmTag e.ctxKey iv aad ct).length = 16 := by
  have hk : ((roundKeys e.ctxKey).getD 14 []).length = 16 := by
    obtain ⟨h1, h2⟩ := keyWords_length (e.ctxKey.map BitVec.toNat) (by rw [List.length_map, key_length]) 52
    simp only [roundKeys]
    rw [List.getD_eq_getElem?_getD, List.getElem?_eq_getElem (by simp), Option.getD_some]
    simp only [List.getElem_map, List.getElem_range, List.length_flatten]
    have hm : ((((keyWords (e.ctxKey.map BitVec.toNat) 52).reverse.drop (4 * 14)).take 4).map List.length) = List.replicate 4 4 := by
      refine List.eq_replicate_iff.mpr ⟨by simp [h1], fun n hn => ?_⟩
      obtain ⟨w, hw, rfl⟩ := List.mem_map.mp hn
      exact h2 w (List.mem_reverse.mp (List.mem_of_mem_drop (List.mem_of_mem_take hw)))
    rw [hm]
    rfl
  simp only [gcmTag, List.length_zipWith, numBlock, List.length_reverse, bytesLE_length, aesBlock, List.length_map, shiftRows, List.length_range, hk]
  rfl

theorem ofBytesLE_lt (l : List Byte) : ofBytesLE l < 256 ^ l.length := by
  induction l with
  | nil => simp [ofBytesLE]
  | cons b l ih =>
    have := b.isLt
    simp only [ofBytesLE, List.length_cons, Nat.pow_succ]
    omega

theorem bytesLE_ofBytesLE (l : List Byte) : bytesLE l.length (ofBytesLE l) = l := by
  induction l with
  | nil => rfl
  | cons b l ih =>
    have h1 : (b.toNat + 256 * ofBytesLE l) / 256 = ofBytesLE l := by have := b.isLt; omega
    have h2 : BitVec.ofNat 8 (b.toNat + 256 * ofBytesLE l) = b := by
      apply BitVec.eq_of_toNat_eq
      have := b.isLt
      simp only [BitVec.toNat_ofNat]
      omega
    simp only [List.length_cons, bytesLE, ofBytesLE, h1, h2, ih]

/-- Granules without codes of their own: eight bytes of memory each. -/
theorem unitRead_bytes (s : State) (dies : List Nat) (asid : Nat) (hc : s.codes = []) (ht : s.tagFail = []) (n : Nat) :
    ∀ va a, (∀ k < n, ∃ ia, s.unitLocate dies asid (va + 8 * k) .read = .ok (a + 8 * k, ia) ∧ (a + 8 * k) % 8 = 0) →
      (s.unitRead dies asid va n).map granuleBytes = some (memRead s.mem a (8 * n)) := by
  have hd (a ia : Nat) (ha : a % 8 = 0) : s.deliver a ia = .valid (BitVec.ofNat 64 (ofBytesLE (memRead s.mem a 8))) := by
    have h8 : a / 8 * 8 = a := by omega
    simp [State.deliver, ht, State.granule, hc, SMap.get, Granule.judge, h8]
  have hr (m : List Host.Cell) (n : Nat) : ∀ a, (memRead m a n).length = n := by
    induction n with
    | zero => intro a; rfl
    | succ n ih => intro a; simp [memRead, ih]
  have ha (m : List Host.Cell) (k n : Nat) : ∀ a, memRead m a (k + n) = memRead m a k ++ memRead m (a + k) n := by
    induction k with
    | zero => intro a; simp [memRead]
    | succ k ih =>
      intro a
      have h1 : k + 1 + n = (k + n) + 1 := by omega
      have h2 : a + 1 + k = a + (k + 1) := by omega
      rw [h1]
      simp only [memRead, ih, h2, List.cons_append]
  induction n with
  | zero => intro va a _; rfl
  | succ n ih =>
    intro va a h
    obtain ⟨ia, h0, h8⟩ := h 0 (by omega)
    have hn := ih (va + 8) (a + 8) fun k hk => by
      obtain ⟨ia, h1, h2⟩ := h (k + 1) (by omega)
      exact ⟨ia, by rw [show va + 8 + 8 * k = va + 8 * (k + 1) by omega, show a + 8 + 8 * k = a + 8 * (k + 1) by omega]; exact h1, by omega⟩
    simp only [Nat.mul_zero, Nat.add_zero] at h0 h8
    have hb : bytesLE 8 (BitVec.ofNat 64 (ofBytesLE (memRead s.mem a 8))).toNat = memRead s.mem a 8 := by
      have hl := hr s.mem 8 a
      have hlt := ofBytesLE_lt (memRead s.mem a 8)
      rw [hl] at hlt
      rw [BitVec.toNat_ofNat, Nat.mod_eq_of_lt (by simpa using hlt)]
      conv => lhs; arg 1; rw [← hl]
      exact bytesLE_ofBytesLE _
    rw [State.unitRead, h0]
    simp only [hd a ia h8, Option.map_map]
    rw [show 8 * (n + 1) = 8 + 8 * n by omega, ha]
    cases hu : s.unitRead dies asid (va + 8) n with
    | none => rw [hu] at hn; cases hn
    | some ws =>
      rw [hu] at hn
      simp only [Option.map_some, Option.some.injEq] at hn ⊢
      simp only [Function.comp_apply, granuleBytes, List.flatMap_cons, hb] at hn ⊢
      rw [hn]

/-- Cells that hold bytes from an address upwards. -/
def cellsAt (a : Nat) : List Byte → List Host.Cell
  | [] => []
  | b :: r => if b = 0 then cellsAt (a + 1) r else (a, b) :: cellsAt (a + 1) r

theorem cellsAt_get (l : List Byte) : ∀ a k, SMap.get 0 (cellsAt a l) k = if a ≤ k then l.getD (k - a) 0 else 0 := by
  induction l with
  | nil => intro a k; simp [cellsAt, SMap.get]
  | cons b l ih =>
    intro a k
    have hs : a + 1 ≤ k → k - a = (k - (a + 1)) + 1 := by omega
    by_cases hb : b = 0
    · rw [cellsAt, if_pos hb, ih]
      by_cases h : a + 1 ≤ k
      · rw [if_pos h, if_pos (by omega), hs h, List.getD_cons_succ]
      · rw [if_neg h]
        by_cases h' : a ≤ k
        · rw [if_pos h', show k - a = 0 by omega, List.getD_cons_zero, hb]
        · rw [if_neg h']
    · rw [cellsAt, if_neg hb, SMap.get]
      by_cases h : a = k
      · rw [if_pos h, if_pos (by omega), show k - a = 0 by omega, List.getD_cons_zero]
      · rw [if_neg h]
        by_cases h' : k < a
        · rw [if_pos h', if_neg (by omega)]
        · rw [if_neg h', ih, if_pos (by omega), if_pos (by omega), hs (by omega), List.getD_cons_succ]

theorem get_append (m : List Host.Cell) (k : Nat) (pre : List Host.Cell) (h : ∀ c ∈ pre, c.1 < k) : SMap.get 0 (pre ++ m) k = SMap.get 0 m k := by
  induction pre with
  | nil => rfl
  | cons c pre ih =>
    have hc := h c List.mem_cons_self
    rw [List.cons_append, SMap.get, if_neg (by omega), if_neg (by omega), ih fun d hd => h d (List.mem_cons_of_mem _ hd)]

theorem read_cells (m : List Host.Cell) (l : List Byte) : ∀ a, (∀ j < l.length, memByte m (a + j) = l.getD j 0) → memRead m a l.length = l := by
  induction l with
  | nil => intro a _; rfl
  | cons b l ih =>
    intro a h
    have h0 : memByte m a = b := h 0 (by simp)
    rw [List.length_cons, memRead, h0, ih (a + 1) fun j hj => ?_]
    have hj' := h (j + 1) (by simp only [List.length_cons]; omega)
    rwa [List.getD_cons_succ, show a + (j + 1) = a + 1 + j by omega] at hj'

/-- Bytes after everything that memory lists read as they stand. -/
theorem read_appended (pre : List Host.Cell) (a : Nat) (l : List Byte) (h : ∀ c ∈ pre, c.1 < a) :
    memRead (pre ++ cellsAt a l) a l.length = l := by
  refine read_cells _ _ _ fun j _ => ?_
  rw [memByte, get_append _ _ _ (fun c hc => Nat.lt_of_lt_of_le (h c hc) (Nat.le_add_right ..)), cellsAt_get, if_pos (Nat.le_add_right ..),
    Nat.add_sub_cancel_left]

/-- The enclave with a saved context of a handle, its frame at 0x10100 in version 1. -/
def savedEncl (handle : Nat) : Enclave := { encl1 with frames := 1, savedTab := [⟨handle, 0x10100, 1⟩] }

/-- A frame without a body. -/
def frame1 (kind handle : Nat) : List Byte := (savedEncl handle).sealFrame kind handle 1 []

/-- A ply of the enclave whose one course, of every fibre, is in a phase. -/
def enclPly (ph : Phase) : Ply :=
  { placedPly 1 2 0 with enc := 5, courses := [{ Course.fresh 2 0 (List.range 8) placeVa with phase := ph }] }

/-- A saved ply of the enclave, and a saved skein, with the handles of their frames. -/
def savedPly : Ply := { enclPly .ready with residence := .saved .full 0x10100 1, saved := some ([], none) }

def savedSkein : Skein := { skein1 carve1 with handle := 6, enc := 5, residence := .saved .full 0x10100 1 }

/-- A state in which that frame stands at 0x10100 of ASID 0: of the ply (kind 2) or of the skein. -/
def framed (kind handle : Nat) : State :=
  { tree with
    mem := tree.mem ++ cellsAt 196864 (frame1 kind handle), enclaves := [savedEncl handle], partitions := [⟨0, [0], 0, 0, 0, [], [], [], []⟩]
    pkgs := [openPkg], clock := 100, plies := if kind = 2 then [savedPly] else [], skeins := if kind = 2 then [] else [savedSkein] }

theorem frame1_eq (kind handle : Nat) :
    frame1 kind handle = frameHeader 5 kind handle 1 0
      ++ gcmTag (savedEncl handle).ctxKey (bytesLE 8 1 ++ bytesLE 2 5 ++ bytesLE 1 kind ++ zeros 1) (frameHeader 5 kind handle 1 0) [] := by
  simp [frame1, Enclave.sealFrame, gcmCrypt, gctr, blocksOf, savedEncl, encl1]

theorem header_length (enc kind handle version len : Nat) : (frameHeader enc kind handle version len).length = 48 := by
  simp [frameHeader, bytesLE_length, zeros]

theorem frame1_length (kind handle : Nat) : (frame1 kind handle).length = 64 := by
  rw [frame1_eq, List.length_append, header_length, gcmTag_length]

/-- The frame is read from its buffer, and passes its checks. -/
theorem framed_good (kind handle : Nat) (h : kind = 2 ∧ handle = 1 ∨ kind = 3 ∧ handle = 6) :
    (framed kind handle).frameGood (savedEncl handle) 0 kind handle = true := by
  have hl (k : Nat) (hk : k < 8) : ∃ ia, (framed kind handle).unitLocate [0, 6] 0 (0x10100 + 8 * k) .read = .ok (196864 + 8 * k, ia)
      ∧ (196864 + 8 * k) % 8 = 0 := by
    refine ⟨0x10100 + 8 * k, ?_, by omega⟩
    rcases h with ⟨rfl, rfl⟩ | ⟨rfl, rfl⟩ <;> match k, hk with
      | 0, _ | 1, _ | 2, _ | 3, _ | 4, _ | 5, _ | 6, _ | 7, _ => exact ok_of (by decide +kernel)
  have hr := unitRead_bytes (framed kind handle) [0, 6] 0 rfl rfl 8 0x10100 196864 hl
  have hm : memRead (framed kind handle).mem 196864 (8 * 8) = frame1 kind handle := by
    have := read_appended tree.mem 196864 (frame1 kind handle) (by decide)
    rwa [frame1_length] at this
  rw [hm] at hr
  have hf : (framed kind handle).frameBytes (savedEncl handle) 0 0x10100 = some (frame1 kind handle) := by
    have hd : (framed kind handle).unitDies 0 (savedEncl handle).part = [0, 6] := rfl
    have hn : field (frame1 kind handle) 24 4 = 0 := by
      rw [frame1_eq, field, List.drop_append_of_le_length (by simp [header_length]),
        List.take_append_of_le_length (by simp [List.length_drop, header_length])]
      rcases h with ⟨rfl, rfl⟩ | ⟨rfl, rfl⟩ <;> decide +kernel
    rw [State.frameBytes, hd]
    cases hu : (framed kind handle).unitRead [0, 6] 0 0x10100 8 with
    | none => rw [hu] at hr; cases hr
    | some ws =>
      rw [hu] at hr
      simp only [Option.map_some, Option.some.injEq] at hr
      simp only [hr, hn]
      rw [if_neg (by decide)]
      simp only [Nat.zero_add, Nat.reduceDiv, Nat.add_zero, hu, Option.map_some, hr]
  have hs : (savedEncl handle).savedTab.find? (·.handle == handle) = some ⟨handle, 0x10100, 1⟩ := by simp [savedEncl]
  rw [State.frameGood, hs]
  simp only [hf]
  have hp (o n : Nat) (ho : o + n ≤ 48) : field (frame1 kind handle) o n = field (frameHeader 5 kind handle 1 0) o n := by
    rw [frame1_eq, field, field, List.drop_append_of_le_length (by rw [header_length]; omega),
      List.take_append_of_le_length (by rw [List.length_drop, header_length]; omega)]
  have ht : (frame1 kind handle).take 48 = frameHeader 5 kind handle 1 0 := by
    rw [frame1_eq, List.take_append_of_le_length (by simp [header_length]), List.take_of_length_le (by simp [header_length])]
  have hd : (frame1 kind handle).drop 48
      = gcmTag (savedEncl handle).ctxKey (bytesLE 8 1 ++ bytesLE 2 5 ++ bytesLE 1 kind ++ zeros 1) (frameHeader 5 kind handle 1 0) [] := by
    rw [frame1_eq, List.drop_append_of_le_length (by simp [header_length]), List.drop_of_length_le (by simp [header_length]), List.nil_append]
  have hc : ((frame1 kind handle).drop 64).take (field (frame1 kind handle) 24 4) = [] := by
    rw [List.drop_of_length_le (by simp [frame1_length]), List.take_nil]
  have he : (savedEncl handle).enc = 5 := rfl
  simp only [Enclave.frameOk, hc, ht, hd, he, hp 0 4 (by decide), hp 4 2 (by decide), hp 6 1 (by decide), hp 8 8 (by decide), hp 16 8 (by decide)]
  rw [List.take_of_length_le (by simp [gcmTag_length])]
  rcases h with ⟨rfl, rfl⟩ | ⟨rfl, rfl⟩ <;> (rw [beq_self_eq_true, Bool.and_true]; decide +kernel)

/-! ### Trap records, saving and restoring, the loss of a peer -/

/-- A partition of die 0 with a trap ring of four records at 0x10200, and one buffer in each pool. -/
def part1 : Partition := ⟨0, [0], 0x10200, 2, 0, [], [0x10100], [0x10180], []⟩

/-- That ply, with bytes of the page at 0x10200. -/
def reporting (ph : Phase) (bytes : List Byte) : State :=
  { tree with
    mem := memWrite tree.mem (flat 0 (3 * 65536 + 0x200)) bytes, enclaves := [encl1], partitions := [part1], plies := [enclPly ph], nextId := 20, clock := 9000, pkgs := [openPkg] }

/-- A full ring, and one whose tail is at record 5, its head at 2. -/
theorem met_TrapRecordsAreWrittenAndAnswered :
    let p := enclPly (.parked 0x20 5 false false)
    let full := reporting (.parked 0x20 5 false false) (bytesLE 8 0x400000000)
    let room := reporting (.parked 0x20 5 false false) (bytesLE 8 0x500000002)
    let answered (w : Nat) : State :=
      { reporting (.parked 0x38 5 false true) (zeros 112 ++ bytesLE 8 w) with recs := [⟨7, 0, some 0x10240, 1, 2, false, 0, true⟩] }
    let r := enclPly (.parked 0x38 5 false true)
    (full.ply 1 = some p ∧ p.hub = none ∧ full.partitionOf p = some part1 ∧ p.course 2 = p.courses.head?
      ∧ (p.courses.headD (Course.fresh 0 0 [] 0)).reportable p = some (0x20, 1) ∧ part1.ring ≠ 0)
    ∧ (full.unitRead (full.unitDies 0 0) 0 part1.ring 1 = some [0x400000000] ∧ 2 ^ part1.ringLog ≤ (4 + 2 ^ 32 - 0) % 2 ^ 32)
    ∧ (room.unitRead (room.unitDies 0 0) 0 part1.ring 1 = some [0x500000002] ∧ (5 + 2 ^ 32 - 2) % 2 ^ 32 < 2 ^ part1.ringLog)
    ∧ ((answered 1).recs.find? (·.id == 7) = some ⟨7, 0, some 0x10240, 1, 2, false, 0, true⟩ ∧ (answered 1).ply 1 = some r ∧ r.course 2 = r.courses.head?
      ∧ (answered 1).unitRead ((answered 1).unitDies 0 0) 0 (0x10240 + 48) 1 = some [1])
    ∧ ((answered 0).unitRead ((answered 0).unitDies 0 0) 0 (0x10240 + 48) 1 = some [0] ∧ ((answered 0).fetchFor r placeVa).toOption = some 0) :=
  ⟨by decide +kernel, by decide +kernel, by decide +kernel, by decide +kernel, by decide +kernel⟩

theorem met_PliesAndSkeinsAreSaved :
    (let p := enclPly .ready
      let s := { reporting .ready [] with plies := [p, { enclPly .ready with handle := 3, residence := .saved .full 0 0 }], clock := 20000000 }
      s.ply 1 = some p ∧ p.hub = none ∧ p.residence = .resident ∧ p.saveAsked = none
        ∧ p.sliceStart + s.sliceInEffect (p.core / 1024) (s.contextPart p) * 600 ≤ s.clock ∧ s.slotWanted p = true)
    ∧ (∀ ph ∈ ([.rcv, .parked 0x20 5 false false, .ready] : List Phase),
      let p := { enclPly ph with saveAsked := some (7000, 0) }
      let s := { reporting ph [] with plies := [p] }
      s.ply 1 = some p ∧ s.quiet p = true ∧ s.ops = [] ∧ s.enclave 5 = some encl1 ∧ s.partitionOf p = some part1 ∧ part1.plyPool = 0x10100 :: []
        ∧ 7000 + 2000 ≤ s.clock ∧ (p.atReconvergence = true ↔ ph = .rcv) ∧ (p.atWaiting = true ↔ ph ≠ .ready ∧ ph ≠ .rcv))
    ∧ (let k := { skein1 carve1 with handle := 6, enc := 5 }
      let s := { reporting .ready [] with skeins := [k], plies := [{ enclPly .ready with skein := 6, residence := .saved .full 0 0 }] }
      s.skein 6 = some k ∧ k.residence = .resident ∧ s.enclave k.enc = some encl1 ∧ s.partition (k.core / 1024) encl1.part = some part1
        ∧ part1.skeinPool = 0x10180 :: [] ∧ s.bindOf k = none ∧ (∃ p ∈ s.plies, p.skein = 6)
        ∧ (∀ p ∈ s.plies, p.skein = 6 → p.residence ≠ .resident) ∧ (∀ o ∈ s.plyOps 6, o.pendingCopy = true) ∧ s.partnerReads k = false) := by
  decide +kernel

theorem met_PliesAndSkeinsAreRestored :
    let pl : Placement := ⟨0, 0, 0, 0, 0⟩
    let x : Partition := ⟨0, [0], 0, 0, 0, [], [], [], []⟩
    ((framed 2 1).ply 1 = some savedPly ∧ savedPly.residence = .saved .full 0x10100 1 ∧ savedPly.saved = some ([], none) ∧ savedPly.hub = none
      ∧ savedPly.hold = false ∧ (framed 2 1).enclave 5 = some (savedEncl 1) ∧ (framed 2 1).partitionOf savedPly = some x
      ∧ (framed 2 1).restoreSlot savedPly 0 (0, savedPly.chartBase.toNat) [] = some 0 ∧ (framed 2 1).launches = [] ∧ (framed 2 1).rejected 1 = false
      ∧ (framed 2 1).skein savedPly.skein = none ∧ (framed 2 1).coreOpen (savedEncl 1).part 0 = true
      ∧ placesOk savedPly.width savedPly.window 0 ((framed 2 1).coreTaken 0) [pl] = true)
    ∧ (framed 2 1).frameGood (savedEncl 1) (x.id / 8) SaveKind.full.num 1 = true
    ∧ ({ framed 2 1 with enclaves := [encl1] } : State).frameGood encl1 (x.id / 8) SaveKind.full.num 1 = false
    ∧ (let k := savedSkein
      let s := framed 3 6;
      (s.skein 6 = some k ∧ k.residence ≠ .resident ∧ k.reserve = 0 ∧ k.kept = none ∧ s.skein k.partner = none ∧ s.enclave 5 = some (savedEncl 6)
        ∧ s.partition (k.core / 1024) (savedEncl 6).part = some x ∧ s.mayTake k 1 = true ∧ s.plies = [])
      ∧ s.frameGood (savedEncl 6) 0 3 6 = true) := by
  exact ⟨by decide +kernel, framed_good 2 1 (.inl ⟨rfl, rfl⟩), by decide +kernel, by decide +kernel, framed_good 3 6 (.inr ⟨rfl, rfl⟩)⟩

theorem met_PeerLossQuiescesThePartition :
    let p := enclPly .ready
    let s := reporting .ready []
    (s.plies = [p] ∧ s.ops = [] ∧ p.hub = none ∧ p.residence = .resident ∧ p.courses = [Course.fresh 2 0 (List.range 8) placeVa]
      ∧ (∀ f ∈ List.range 8, (p.fibre f).handling = false) ∧ s.enclave p.enc = some encl1 ∧ encl1.part < 6)
    ∧ (∀ c ∈ [Course.fresh 2 0 (List.range 8) placeVa, { Course.fresh 2 0 (List.range 8) placeVa with chain := [1] }],
      let q := { p with lost := some 0x1000, courses := [c] }
      let t := { s with plies := [q] }
      t.ply 1 = some q ∧ t.ops = [] ∧ q.lost = some 0x1000 ∧ t.quiet q = c.chain.isEmpty)
    ∧ (∀ c ∈ [(0, 0, 0), (1, 0, 0), (2, 0, 6)], s.usesLost c.1 c.2.1 c.2.2 encl1.part = true)
    ∧ ∀ c ∈ [(0, 8, 0), (1, 5, 0), (2, 1, 2)], s.usesLost c.1 c.2.1 c.2.2 encl1.part = false := by
  decide +kernel

/-! ### The monitor and hub threads -/

/-- Hub core 0 at a level, s8 to s11 and s1 holding 0. -/
def monitorAsking (level : Nat) : State := onPly fun p => onHub (hubAt level) p

/-- The structure of an ECREATE at 0x10100, its frame list at 0x10200, which names frame 200 of die 0. -/
def createImage : List Byte :=
  zeros 256 ++ zeros 16 ++ bytesLE 8 (2 ^ 36) ++ bytesLE 8 0x50000 ++ bytesLE 8 0x60000 ++ bytesLE 4 1 ++ zeros 12 ++ bytesLE 4 1 ++ zeros 4
    ++ bytesLE 8 0x10200 ++ zeros 184 ++ bytesLE 8 (200 * 65536)

def creating : State := { onPage createImage id with partitions := [part1], lastEnc := 7 }

/-- A page of the enclave in frame 70, and two pages of ASID 0 for its image. -/
def sealing : State :=
  { tree with
    mem := [(65538, 2), (65543, 0x40), (69633, 0x20), (69634, 1), (69639, 0x40), (73738, 3), (73743, 0x9E), (73746, 4), (73751, 0x9E), (131073, 0x10),
      (131074, 1), (131079, 0x40)]
    owners := [(1, supOwner), (2, supOwner), (3, { state := 1, kind := 1, ceil := 7, enc := 0, gen := 0, iapg := 1 }),
      (4, { state := 1, kind := 1, ceil := 7, enc := 0, gen := 0, iapg := 2 }), (70, { state := 1, kind := 1, ceil := 7, enc := 5, gen := 0, iapg := 9 })]
    enclaves := [{ encl1 with vframes := [200] }] }

theorem met_MonitorInstructionsAskAndAreSettled :
    (∀ i ∈ ([.ecreate hd0 5 (.s 1) 0, .eadd hd0 5 (.s 1) 0, .eaddDev hd0 5 (.s 1) 0, .einit hd0 5 (.s 1) 0, .edestroy hd0 5 (.s 1) 0,
      .eseal hd0 5 8 0, .eunseal hd0 5 8 0] : List Instr), Meets i noExtra fun s x => x.active ≠ [] ∧ s.specOf x.ply = none
        ∧ ∀ a ∈ ([.s 1, .s 8, .s (8 + 1), .s (8 + 2), .s (8 + 3)] : List Src), UniformCtl x a)
    ∧ (Meets (.ereport hd0 5 (.s 1) (.s 2) 0) noExtra fun s x => x.active ≠ [] ∧ s.specOf x.ply = none
        ∧ ∀ a ∈ ([.s 1, .s 2] : List Src), UniformCtl x a)
    ∧ (∀ c ∈ ([(.ecreate hd0 5 (.s 1) 0, 1, some 2), (.einit hd0 5 (.s 1) 0, 7, some 1), (.einit hd0 5 (.s 1) 0, 5, none)] : List (Instr × Word × Option Nat)),
      let o : Op := opOf 9 2 [0] [.s 5] (.monitor c.1 [c.2.1]) placeVa
      let p := onHub (hubAt 1) (placedPly 1 2 0)
      let s := { monitorAsking 1 with ops := [o], enclaves := [{ encl1 with running := false }] }
      s.op 9 = some o ∧ s.ply 1 = some p ∧ s.owing 1 9 [0] false = false
        ∧ s.enclaveHeld p 9 c.1 [c.2.1.toNat] = false ∧ s.sealLease c.1 [c.2.1.toNat] = none ∧ s.budgets = []
        ∧ (match s.settle p 9 c.1 [c.2.1.toNat] with | .error n => some n | .ok _ => none) = c.2.2)
    -- an ESEAL of a frame that a stream leases
    ∧ (let i : Instr := .eseal hd0 5 8 0
      let w : List Word := [5, 0x90000, 70 * 65536, 0x10000]
      let o : Op := opOf 9 2 [0] [.s 5] (.monitor i w) placeVa
      let p := placedPly 1 2 0
      let k : Stream := { Stream.idle with active := true, frames := [70], recFrame := 70 }
      let s := { sealing with plies := [p], ops := [o], enclaves := [{ encl1 with vframes := [200], streams := [(0, k)] }] }
      s.op 9 = some o ∧ s.ply 1 = some p ∧ s.owing 1 9 [0] false = false ∧ s.enclaveHeld p 9 i (w.map BitVec.toNat) = false
        ∧ (s.sealLease i (w.map BitVec.toNat)).isSome = true ∧ (s.settle p 9 i (w.map BitVec.toNat)).toOption.isSome = true) := by
  refine ⟨meets_each (monitorAsking 1) (by decide +kernel) (by simp only [UniformCtl, holds_iff]; decide +kernel),
    meets_of (onPly id) (by decide +kernel) (by simp only [UniformCtl, holds_iff]; decide +kernel), by decide +kernel, by decide +kernel⟩

theorem met_MonitorKeepsItsConditions :
    1 % 64 ≠ 0
    ∧ (creating.lastEnc < 65536 ∧ (creating.ecreate 0 0x10100).toOption.isSome = true)
    ∧ creating.enclave 5 = none
    ∧ (∀ r ∈ [true, false], let e := { encl1 with running := r }
      ({ creating with enclaves := [e] } : State).enclave 5 = some e ∧ e.nthr = 0 ∧ e.nspill = 0)
    ∧ (({ creating with enclaves := [encl1] } : State).enclaveBusy encl1 = false
      ∧ ({ creating with enclaves := [encl1], plies := [enclPly .ready] } : State).enclaveBusy encl1 = true)
    ∧ (sealing.eseal (placedPly 1 2 0) 9 5 0x90000 (70 * 65536) 0x10000).toOption.isSome = true := by
  refine ⟨by decide, by decide +kernel, by decide +kernel, by decide +kernel, by decide +kernel, by decide +kernel⟩

/-- An enclave with one thread. -/
def threaded (st : ThreadState) : Enclave := { encl1 with threads := [⟨0x10000, 0x90000, 0, st, none, none⟩] }

/-- Hub core 0, at user level in thread 0 of the enclave, with what it needs to go back. -/
def inThread : Hub := { hubAt 0 with
  thread := some (5, 0)
  sup := some ⟨6, 0, 0, 4, 0, 0, 0, 0, none, ⟨placeVa, 3, [], none⟩, []⟩ }

def entering (enc n : Word) : State :=
  let s := hubPage (codeOf [.eenter hd0 6 (.s 1) (.s 2), .bind hd0 0]) (hubAt 1)
  { s with plies := s.plies.map (fun (p : Ply) => { p with s := [(1, ⟨enc, .i64⟩), (2, ⟨n, .i64⟩)] }), enclaves := [threaded .fresh] }

theorem met_HubThreadsEnterAndLeave :
    let asks (s : State) (x : Issue) : Prop := x.ply.hub = some (hubAt 1) ∧ x.active ≠ [] ∧ s.plyBusy x.ply.handle = false ∧ UniformCtl x (.s 1) ∧ UniformCtl x (.s 2)
    (Meets (.eenter hd0 6 (.s 1) (.s 2)) noExtra fun s x => asks s x ∧ s.enclave (uni x (.s 1)) = none)
    ∧ (Meets (.eenter hd0 6 (.s 1) (.s 2)) noExtra fun s x => asks s x ∧ s.enclave (uni x (.s 1)) = some (threaded .fresh) ∧ uni x (.s 2) = 0
      ∧ (threaded .fresh).running = true ∧ (threaded .fresh).threads[0]? = some ⟨0x10000, 0x90000, 0, .fresh, none, none⟩ ∧ (0 : Nat) = 0)
    ∧ Meets (.eexit hd0) noExtra fun s x => x.ply.hub = some inThread ∧ x.active ≠ [] ∧ s.plyBusy x.ply.handle = false :=
  ⟨meets_of (entering 7 0) (by decide +kernel)
      (by simp only [UniformCtl, holds_iff]; decide +kernel),
    meets_of (entering 5 0) (by decide +kernel)
      (by simp only [UniformCtl, holds_iff]; decide +kernel),
    meets_of (hubPage (codeOf [.eexit hd0, .bind hd0 0]) inThread 4) (by decide +kernel) (by decide +kernel)⟩

/-! ### Launches, speculations, gauges -/

/-- A descriptor: entry 0x10000, plies of 8 fibres and 256 registers, one ply and one skein; and its last words. -/
def desc1 (mtch : Nat := 0) : List Byte :=
  bytesLE 8 0x10000 ++ zeros 18 ++ [0, 16, 1, 1, 1, 1, 1, 0, 0, 3] ++ zeros 20 ++ bytesLE 8 mtch ++ zeros 192

def launch1 (id : Nat := 40) (d : List Byte := desc1) : Launch :=
  ⟨id, 5, 2, 0, 0, 30, d, [], [], Carve.empty, [], none, 0, 1, [0], 0, [], some 100, false⟩

def queue1 (qbase : Nat := 0x10000) : Queue := { Queue.off with qbase, head := 30, tail := 31, readySince := some 100, cap := 3 }

def queueEncl (q : Queue) : Enclave := { encl1 with queues := [(0, q)] }

/-- The enclave with that queue and launches, a partition of die 0, and a descriptor in entry 14. -/
def launching (q : Queue) (l : List Launch) : State :=
  { tree2 with
    mem := memWrite tree2.mem (flat 0 (3 * 65536 + 0x1E00)) (desc1.take 40), enclaves := [queueEncl q], partitions := [part1], launches := l, nextId := 60
    clock := 100 + 16 * 600000, pkgs := [{ openPkg with fwAsid := [(0, [2]), (6, [2])] }] }

theorem met_LaunchesStartAdmitAndComplete :
    -- an entry that cannot be read, and one that can
    (let s := launching (queue1 0x20000) [];
      s.enclave 5 = some (queueEncl (queue1 0x20000)) ∧ s.headLaunch (queueEncl (queue1 0x20000)) 0 = none
        ∧ s.unitRead ((queueEncl (queue1 0x20000)).dies s) 2 ((queue1 0x20000).entry 30) 32 = none)
    ∧ (let s := launching queue1 [];
      s.enclave 5 = some (queueEncl queue1) ∧ ((queueEncl queue1).queue 0) = queue1 ∧ queue1.qbase ≠ 0 ∧ queue1.head < queue1.tail
        ∧ s.headLaunch (queueEncl queue1) 0 = none
        ∧ (s.unitRead ((queueEncl queue1).dies s) 2 (queue1.entry 30) 32).map List.length = some 32)
    -- a skein enters; the level rises; a place is asked for
    ∧ (let s := launching queue1 [launch1];
      s.enclave 5 = some (queueEncl queue1) ∧ s.headLaunch (queueEncl queue1) 0 = some launch1 ∧ launch1.acc = 0 ∧ s.wanting launch1 = true
        ∧ s.specs = [] ∧ s.plies = [] ∧ s.mayHold launch1 0 = true ∧ launch1.plies = 1
        ∧ placesOk launch1.width launch1.window 0 (s.coreTaken 0) [⟨0, 0, 0, 0, 0⟩] = true ∧ s.outranked launch1 0 = false
        ∧ queue1.readySince = some 100 ∧ 100 + 16 * 600000 ≤ s.clock)
    -- no core of the die admits more, and a ply of lower level holds one
    ∧ (let l := { launch1 with waitSince := some 100 }
      let s := { launching { queue1 with level := 2 } [l] with
        plies := [enclPly .ready], cores := (List.range 144).map fun c => { Core.empty c with limit := 0 } };
      s.headLaunch (queueEncl { queue1 with level := 2 }) 0 = some l ∧ s.wanting l = true ∧ 100 + 600000 ≤ s.clock
        ∧ s.hasRoom l = false ∧ s.specs = []
        ∧ (enclPly .ready).level < 2 ∧ s.coreOpen l.part 0 = true ∧ l.nextSkeins.all (fun i => s.mayBind l (i / l.sph) (l.coreOf 0 i)) = true)
    -- a rejected launch, and one whose skeins have ended
    ∧ (∀ l ∈ [{ launch1 with status := 4 }, { launch1 with todo := [], ended := 1 }],
      let s := launching queue1 [l];
      s.enclave 5 = some (queueEncl queue1) ∧ s.headLaunch (queueEncl queue1) 0 = some l
        ∧ (l.status ≠ 0 ∨ l.todo = [] ∧ l.ended = l.total) ∧ l.queue = 0)
    ∧ 2048 ≤ 2048 :=
  ⟨by decide +kernel, by decide +kernel, by decide +kernel, by decide +kernel, by decide +kernel, by decide⟩

/-- A queue whose last two launches agree. -/
def predicting : Queue :=
  { queue1 with tail := 30, last := [{ launch1 41 with hasMatch := some (zeros 136) }, { launch1 42 (desc1 8) with hasMatch := some (zeros 136) }] }

/-- A speculation of launch 50 for that queue, with one line read. -/
def spec1 (written : List Nat) : Spec := ⟨50, 5, 0, [], [7], written, [], [], [], false, false⟩

theorem met_SpeculationsStartAndAreClaimed :
    (let s := launching predicting [];
      s.enclave 5 = some (queueEncl predicting) ∧ predicting.qbase ≠ 0 ∧ predicting.tail = predicting.head ∧ s.specs = [] ∧ s.launches = []
        ∧ (∃ c, predicting.predicts = some c ∧ c.1 = { launch1 41 with hasMatch := some (zeros 136) } ∧ c.1.args = [])
        ∧ (s.loadLaunch (queueEncl predicting) (Launch.blank s.nextId (queueEncl predicting) 0 30 desc1)).toOption.elim false
          (fun l => s.idleStart (queueEncl predicting) { l with args := [], hasMatch := predicting.predicts.map (·.2.2), spec := true }) = true)
    ∧ ∀ c ∈ [(some (zeros 136), []), (some (zeros 136), [7]), (none, [])],
      let real := { launch1 with hasMatch := c.1 }
      let spec := { launch1 50 with hasMatch := some (zeros 136), spec := true, todo := [], ended := 1 }
      let s := { launching queue1 [real, spec] with specs := [spec1 c.2] };
      s.enclave 5 = some (queueEncl queue1) ∧ s.headLaunch (queueEncl queue1) 0 = some real
        ∧ s.specs.find? (fun x => x.enc == 5 && x.queue == 0) = some (spec1 c.2) ∧ s.launches.find? (·.id == 50) = some spec
        ∧ s.headReady (queueEncl queue1) 0 = true ∧ s.claimMatches (queueEncl queue1) (spec1 c.2) real spec = c.1.isSome := by
  refine ⟨⟨by decide +kernel, by decide +kernel, by decide +kernel, by decide +kernel, by decide +kernel, ⟨_, rfl, rfl, rfl⟩, by decide +kernel⟩, by decide +kernel⟩

theorem met_GaugesOverrunAndReset :
    (let g : Gauge := ⟨3, 50, some 100⟩
      let p := { enclPly .ready with gauge := some g }
      let s := { reporting .ready [] with plies := [p] };
      s.ply 1 = some p ∧ p.gauge = some g ∧ g.since = some 100 ∧ g.left < s.clock - 100
        ∧ p.courses = [Course.fresh 2 0 (List.range 8) placeVa] ∧ s.ops = [])
    ∧ (let p := { enclPly (.parked 0x30 4 false false) with overrun := some 100 }
      let s := { reporting .ready [] with plies := [p], clock := 100 + 2 ^ 20 };
      s.ply 1 = some p ∧ p.overrun = some 100 ∧ p.overrunOpen = true ∧ 100 + 2 ^ 20 ≤ s.clock ∧ s.enclave p.enc = some encl1 ∧ p.hub = none
        ∧ (∃ c ∈ p.courses, c.phase = .parked 0x30 4 false false)) := by
  decide +kernel

/-! ### The fabric and the network engine -/

/-- `tree2` with remote permissions, on package 0 whose dies 0 and 1 pass the enclave's requests and whose die 0 hears
package 3; die 1 has a tree of its own, in which the page is a stub of die 0. -/
def garment : State :=
  { tree2 with
    mem := [(65538, 2), (65543, 0x40), (69633, 0x20), (69634, 1), (69639, 0x40), (73738, 3), (73742, 0xC0), (73743, 0x9F), (131073, 0x10), (131074, 1),
      (131079, 0x40), (196672, 77), (2 ^ 38 + 65538, 2), (2 ^ 38 + 65543, 0x40), (2 ^ 38 + 69633, 0x20), (2 ^ 38 + 69634, 1), (2 ^ 38 + 69639, 0x40),
      (2 ^ 38 + 73742, 0xC0), (2 ^ 38 + 73743, 0xDF), (2 ^ 38 + 131073, 0x10), (2 ^ 38 + 131074, 1), (2 ^ 38 + 131079, 0x40)]
    roots := [(0, some 65536), (2, some 65536), (2050, some 65536), (12290, some 0)]
    owners := [(1, supOwner), (2, supOwner), (3, { state := 1, kind := 1, ceil := 7, enc := 5, gen := 0, iapg := 1 }), (2 ^ 22 + 1, supOwner), (2 ^ 22 + 2, supOwner)]
    pkgs := [{ Pkg.fresh 0 with fwDie := [(0, 2), (1, 1)], fwAsid := [(0, [2])], fwPkg := [(0, [3])] }]
    nextId := 80 }

/-- The requester: a ply of the enclave on core 200, of die 1. -/
def farPly : Ply := waitingPly { placedPly 1 2 0 with asid := 2, enc := 5, core := 200 }

/-- That access of fibre 3, and a message of it. -/
def reaching (m : MemOp) (i : MItem) (msg : Msg) : State := { garment with plies := [farPly], ops := [access1 m i], msgs := [msg] }

def request (opc : Nat) (op : Nat := 9) : Msg := { Msg.ask 30 opc 2 1 0 0x10040 false op 3 200 with arrived := true }

/-- That request with the data of the access. -/
def asked (m : MemOp) (i : MItem) (opc : Nat) : Msg := (request opc).load (access1 m i).body i

/-- `Arrives`, in that state. -/
theorem arrives1 (m : MemOp) (i : MItem) (opc : Nat) (h : let r := asked m i opc
      (reaching m i r).arrivedMsg r.id opc = some r ∧ (reaching m i r).op r.op = some (access1 m i) ∧ (reaching m i r).soTurn r = true
      ∧ (reaching m i r).access r.op r.fibre = some (access1 m i, farPly, { m with items := [i] }, i) ∧ i.home = 0
      ∧ (reaching m i r).hop r.asid r.dst r.src ≠ none)
    (hr : ((reaching m i (asked m i opc)).resolve i.home 2 i.ia m.cls.access true).toOption = some 196672) :
    Arrives (reaching m i (asked m i opc)) (asked m i opc) opc (access1 m i) farPly { m with items := [i] } i 196672 where
  msg := h.1
  op := h.2.1
  turn := h.2.2.1
  access := h.2.2.2.1
  home := by rw [h.2.2.2.2.1]; decide
  real := rfl
  place := ok_of hr
  way := h.2.2.2.2.2

theorem met_FabricRequestsActAtTheHome :
    let arrives (m : MemOp) (i : MItem) (opc : Nat) : Prop :=
      Arrives (reaching m i (asked m i opc)) (asked m i opc) opc (access1 m i) farPly { m with items := [i] } i 196672
    arrives (memOp1 .load) (item1 0 0) 1 ∧ arrives (memOp1 .waitv) (item1 0 0) 1 ∧ arrives (memOp1 .store) (item1 9 0) 2
    ∧ (arrives (memOp1 .atom 4) (item1 9 0) 3 ∧ arrives (memOp1 .redms) (item1 9 0) 4 ∧ garment.deliver 196672 0x10040 = .valid 77
      ∧ garment.tagFail.contains (196672 / 64) = false ∧ (memOp1 .redms).fmt.isInt = true
      ∧ ((item1 9 0).asked (asked (memOp1 .atom 4) (item1 9 0) 3)).val = ⟨9, .i64⟩)
    ∧ (arrives (memOp1 .wakev) (item1 0 1) 7 ∧ garment.encOfAsid 2 = some 5)
    ∧ (let s (ia : Nat) : State := { garment with msgs := [{ request 5 0 with ia := ia }] };
      (∀ ia ∈ [0x10040, 0x90040], (s ia).arrivedMsg 30 5 = some { request 5 0 with ia := ia }) ∧ (s 0).hop 2 0 1 ≠ none
        ∧ ((s 0x10040).homeWalk 0 2 0x10040).toOption.isSome = true ∧ ((s 0x90040).homeWalk 0 2 0x90040).toOption.isSome = false)
    ∧ arrives (memOp1 .waitv) (item1 7 0) 6 ∧ arrives (memOp1 .waitv) (item1 77 0) 6 :=
  ⟨arrives1 _ _ _ (by decide +kernel) (by decide +kernel), arrives1 _ _ _ (by decide +kernel) (by decide +kernel),
    arrives1 _ _ _ (by decide +kernel) (by decide +kernel),
    ⟨arrives1 _ _ _ (by decide +kernel) (by decide +kernel), arrives1 _ _ _ (by decide +kernel) (by decide +kernel), by decide +kernel⟩,
    ⟨arrives1 _ _ _ (by decide +kernel) (by decide +kernel), by decide +kernel⟩, by decide +kernel,
    arrives1 _ _ _ (by decide +kernel) (by decide +kernel), arrives1 _ _ _ (by decide +kernel) (by decide +kernel)⟩

/-- A response to that access. -/
def response (opc : Nat) (ans : Answer) (op : Nat := 9) : Msg :=
  { Msg.ask 30 opc 2 0 1 0x10040 false op 3 200 with arrived := true, answer := ans }

theorem met_FabricResponsesEndTheAccess :
    let returns (m : MemOp) (opc : Nat) (ans : Answer) : Prop :=
      Returns (reaching m (item1 0 0) (response opc ans)) (response opc ans) opc (access1 m (item1 0 0)) farPly { m with items := [item1 0 0] } (item1 0 0)
    (returns (memOp1 .load) 0x81 (.granule ⟨5, selv 5 0x10040⟩ false) ∧ judged (⟨5, selv 5 0x10040⟩, false) 0x10040 = .valid 5
      ∧ returns (memOp1 .load) 0x81 (.granule ⟨5, 0⟩ false) ∧ judged (⟨5, 0⟩, false) 0x10040 = .badCode ∧ judged (⟨5, 0⟩, true) 0x10040 = .badTag)
    ∧ returns (memOp1 .store) 0x82 .none ∧ returns (memOp1 .atom) 0x83 (.value ⟨5, .i64⟩) ∧ returns (memOp1 .redms) 0x84 .none
    ∧ returns (memOp1 .wakev) 0x86 (.count 2)
    ∧ (returns (memOp1 .waitv) 0x86 .none ∧ (reaching (memOp1 .waitv) (item1 0 0) (response 0x86 .none)).hop 2 1 0 ≠ none)
    ∧ returns (memOp1 .load) 0x8F (.fault 0x14 1)
    ∧ (let m := response 0x8F (.fault 0x14 1) 0
      ({ garment with msgs := [m], probes := [⟨200, 2, 1, none⟩] } : State).arrivedMsg 30 0x8F = some m ∧ m.op = 0)
    ∧ (let m := response 0x85 (.attr 1 7 7 16) 0
      let s := { garment with msgs := [m] };
      s.arrivedMsg 30 0x85 = some m ∧ (match s.walk (coreAper 200) 2 0x10040 with | .stub _ _ => true | _ => false) = true
        ∧ s.isKick 2 0x10040 = false ∧ (s.core 200).tlbFind 2 0x10040 = none) := by
  have r (m : MemOp) (opc : Nat) (ans : Answer) (h : (reaching m (item1 0 0) (response opc ans)).arrivedMsg 30 opc = some (response opc ans)) :
      Returns (reaching m (item1 0 0) (response opc ans)) (response opc ans) opc (access1 m (item1 0 0)) farPly { m with items := [item1 0 0] } (item1 0 0) :=
    ⟨h, rfl, rfl, ⟨8, rfl⟩, rfl⟩
  exact ⟨⟨r _ _ _ (by decide +kernel), by decide +kernel, r _ _ _ (by decide +kernel), by decide +kernel, by decide +kernel⟩, r _ _ _ (by decide +kernel),
    r _ _ _ (by decide +kernel), r _ _ _ (by decide +kernel), r _ _ _ (by decide +kernel), ⟨r _ _ _ (by decide +kernel), by decide +kernel⟩,
    r _ _ _ (by decide +kernel), by decide +kernel, by decide +kernel⟩

/-- A flit with the one unit of message 30, for die 0: from die 1 over UCIe, or from package 3 over the scale-up network. -/
def flit1 (scaleup : Bool) (src : Nat) : Flit := ⟨31, scaleup, src, 0, 2, 4, 0, false, [(30, 0)]⟩

def carried (so : Bool) (seq : Nat) (src : Nat) (dst : Nat := 0) : Msg := { Msg.ask 30 1 2 src dst 0x10040 so 9 3 200 with seq }

theorem plain_cargo (s : State) (f : Flit)
    (h : (f.carries.all fun id => (s.msg id).any fun m => m.lawful && m.dst == f.dst && (!m.so || decide (0x80 ≤ m.opc))) = true) : PlainCargo s f := by
  intro id hid
  have hm := List.all_eq_true.mp h id hid
  cases hs : s.msg id with
  | none => rw [hs] at hm; cases hm
  | some m =>
    rw [hs] at hm
    simp only [Option.any_some, Bool.and_eq_true, beq_iff_eq, Bool.or_eq_true, Bool.not_eq_true', decide_eq_true_eq] at hm
    exact ⟨m, rfl, hm.1.1, hm.1.2, hm.2⟩

theorem met_FlitsBringTheirMessages :
    let s (f : Flit) (m : Msg) : State := { garment with flits := [f], msgs := [m], links := [(linkKey false 1 0 2, 5)] }
    let stands (f : Flit) (m : Msg) : Prop := (s f m).flits.find? (fun g => g.id == f.id) = some f
    let alone (f : Flit) (m : Msg) : Prop := f.carries = [m.id] ∧ (s f m).msg m.id = some m ∧ LastPart (s f m) f m.id ∧ m.lawful = true
    (∀ src ∈ [1, 2], stands (flit1 false src) (carried false 0 src) ∧ (s (flit1 false src) (carried false 0 src)).flitFirst (flit1 false src) = true
      ∧ (garment.pkg 0).linkOpen 0 src 2 = (src == 1))
    ∧ PlainCargo (s (flit1 false 1) (carried false 0 1)) (flit1 false 1)
    -- a message for package 3, which goes on
    ∧ (let m := carried false 0 1 24
      stands (flit1 false 1) m ∧ alone (flit1 false 1) m ∧ m.dst ≠ 0 ∧ m.so = false ∧ garment.budgets = []
        ∧ (s (flit1 false 1) m).hop 2 0 m.dst = some (true, 24))
    ∧ PlainCargo (s (flit1 true 24) (carried false 0 24)) (flit1 true 24)
    ∧ (∀ c ∈ [(false, 0), (true, 0), (true, 1)], let m := carried c.1 c.2 24
      stands (flit1 true 24) m ∧ alone (flit1 true 24) m ∧ aperDie 0 < 6 ∧ (garment.pkg 0).garmentOpen 0 3 2 = true
        ∧ m.ordered = c.1 ∧ (s (flit1 true 24) m).soBehind m 0 = false ∧ SMap.get 0 garment.soNext (soKey 24 0 2) = 0 ∧ garment.seen = [])
    ∧ (let f := flit1 true 24
      let t : State := { s f (carried false 0 24) with seen := [(linkKey true 24 0 2, 4)] }
      (linkKey f.scaleup f.src f.dst f.asid, f.ctr) ∈ t.seen ∧ t.flits.find? (fun g => g.id == f.id) = some f)
    ∧ (stands (flit1 true 32) (carried false 0 32) ∧ (garment.pkg 0).garmentOpen 0 4 2 = false) := by
  simp only [LastPart]
  exact ⟨by decide +kernel, plain_cargo _ _ (by decide +kernel), by decide +kernel, plain_cargo _ _ (by decide +kernel), by decide +kernel,
    by decide +kernel, by decide +kernel⟩

/-- A work request: op, port, flags, length, local address, window; at 0x10200. -/
def netReq1 (op port flags len lva win : Nat) (started : Bool := false) (status : Option Nat := none) : NetReq :=
  ⟨33, 5, 2, 0, 0x10200, bytesLE 1 op ++ bytesLE 1 port ++ bytesLE 2 flags ++ bytesLE 4 len ++ bytesLE 8 lva ++ zeros 20 ++ bytesLE 2 win ++ zeros 26,
    0, 0, [], started, [0], [(1, 8)], [(1, 2)], [(1, 100)], status, if started then 4096 else 0, [], []⟩

/-- The engine of package 0 with that request, a key on port 1, and a window of the page. -/
def networking (r : NetReq) : State :=
  { garment with
    enclaves := [{ encl1 with job := some 12 }], partitions := [part1], nets := [r], clock := 100 + 64 * 600 * 4
    pkgs := [{ openPkg with fwAsid := [(0, [2]), (6, [2])], tss := [(41, some (zeros 32))], wins := [(322, some ⟨0x10000, 0x1000, true, true, 0⟩)] }] }

theorem met_WorkRequestsStart :
    (∀ op ∈ [0, 1], let r := netReq1 op 1 0 24 0x10040 0
      let s := networking r;
      s.netReq 33 = some r ∧ r.op = op ∧ s.netMayStart r = true ∧ r.wellFormed = true ∧ s.netRefusals r .read = [] ∧ s.netRefusals r .write = []
        ∧ s.budgets = [] ∧ (s.netBegin r).packets = 1 ∧ (s.packetBytes (s.netBegin r) 0).isSome = true)
    ∧ (let r := netReq1 0 2 0 24 0x10040 0
      let s := networking r;
      s.netReq 33 = some r ∧ r.op = 0 ∧ s.netMayStart r = true ∧ r.wellFormed = true ∧ s.netRefusals r .read = [7])
    ∧ (let r := netReq1 2 0 2 65536 0x10000 3
      let s := networking r;
      s.netReq 33 = some r ∧ r.op = 2 ∧ s.netMayStart r = true ∧ r.wellFormed = true)
    ∧ (let r := netReq1 3 1 0 32 0x10040 0
      let s := networking r;
      s.netReq 33 = some r ∧ r.op = 3 ∧ s.netMayStart r = true ∧ r.wellFormed = true ∧ s.unitRange (s.netDies 0 5) 2 r.lva 32 .read = none
        ∧ s.unitRange (s.netDies 0 5) 2 r.lva 32 .write = none ∧ (s.egress (s.netDies 0 5) 2 r.lva 32).isSome = true)
    ∧ ∀ op ∈ [0, 1, 2, 3], let r := netReq1 op 9 1 7 0x10040 0
      let s := networking r;
      s.netReq 33 = some r ∧ r.op = op ∧ s.netMayStart r = true ∧ r.wellFormed = false := by
  decide +kernel

/-- A NACK of a request can come, whatever the machine's ports are: from outside, or from the port that sent it. -/
theorem nack_comes (s : State) (r : NetReq) (k : Nat) (e : Bool) : ∃ outs, NackComes { s with outs } r k e := by
  cases h : Config.endpoint r.peer with
  | none => exact ⟨[], .inl h⟩
  | some x => exact ⟨[.nack x.1 x.2 r.src r.id k e], .inr ⟨x.1, x.2, h, by simp⟩⟩

/-- Acknowledgements of packets can come likewise. -/
theorem acks_come (s : State) (r : NetReq) (pkts : List Nat) : ∃ outs, ({ s with outs } : State).acksOf r pkts = pkts := by
  unfold State.acksOf
  cases h : Config.endpoint r.peer with
  | none => exact ⟨[], rfl⟩
  | some x => exact ⟨[.ack x.1 x.2 r.src r.id pkts], by simp⟩

/-- And so can the bytes of an answer. -/
theorem bytes_come (s : State) (r : NetReq) (k : NetPacket) : ∃ outs, BytesCome { s with outs } r k := by
  cases h : Config.endpoint r.peer with
  | none => exact ⟨[], .inl h⟩
  | some x => exact ⟨[.bytes x.1 x.2 r.src r.id k.offset k.data], .inr ⟨x.1, x.2, h, by simp⟩⟩

theorem unitLocate_outs (s : State) (outs : List Out) (dies : List Nat) (asid va : Nat) (acc : Access) :
    ({ s with outs } : State).unitLocate dies asid va acc = s.unitLocate dies asid va acc := rfl

theorem unitRead_outs (s : State) (outs : List Out) (dies : List Nat) (asid va n : Nat) :
    ({ s with outs } : State).unitRead dies asid va n = s.unitRead dies asid va n := by
  induction n generalizing va with
  | zero => rfl
  | succ n ih => simp only [State.unitRead, ih, unitLocate_outs]; rfl

theorem packetBytes_outs (s : State) (outs : List Out) (r : NetReq) (k : Nat) : ({ s with outs } : State).packetBytes r k = s.packetBytes r k := by
  simp only [State.packetBytes, State.egress, unitRead_outs]; rfl

theorem met_PacketsAreAcknowledgedAndSentAgain :
    let r := netReq1 0 1 0 (2 * 4096 + 24) 0x10000 0 true
    let s := networking r
    (s.sending 33 = some r ∧ r.op = 0 ∧ r.packets = 3 ∧ 0 ∈ r.acked ∧ 1 ∉ r.acked ∧ 2 ∉ r.acked ∧ r.held = [] ∧ s.budgets = [])
    ∧ (8 ≤ SMap.get 0 r.retries 1 ∧ SMap.get 0 r.sentAt 1 + 64 * 600 * 2 ^ SMap.get 0 r.expiries 1 ≤ s.clock)
    ∧ (SMap.get 0 r.retries 2 < 8 ∧ SMap.get 0 r.sentAt 2 + 64 * 600 * 2 ^ SMap.get 0 r.expiries 2 ≤ s.clock ∧ (s.packetBytes r 2).isSome = true)
    ∧ (let r := netReq1 0 1 0 (2 * 4096 + 24) 0x90000 0 true
      let s := networking r;
      s.sending 33 = some r ∧ r.op = 0 ∧ 2 < r.packets ∧ 2 ∉ r.acked ∧ 2 ∉ r.held ∧ SMap.get 0 r.retries 2 < 8 ∧ (s.packetBytes r 2).isNone = true)
    ∧ (∀ outs, ({ s with outs } : State).sending 33 = s.sending 33 ∧ ({ s with outs } : State).packetBytes r 2 = s.packetBytes r 2)
    ∧ (∀ k e, ∃ outs, NackComes { s with outs } r k e)
    ∧ (∃ outs, ({ s with outs } : State).acksOf r [1, 2] = [1, 2])
    ∧ (Config.endpoint r.peer ≠ none → ∀ k e, ¬ NackComes s r k e)
    ∧ (let s := { s with clock := 0 };
      s.sending 33 = some r ∧ ¬ SMap.get 0 r.sentAt 1 + 64 * 600 * 2 ^ SMap.get 0 r.expiries 1 ≤ s.clock)
    -- the end of a request of each kind, its CNT at 0x10040
    ∧ (∀ c ∈ [(0, 0), (1, 6), (2, 1), (3, 4)], let r := { netReq1 c.1 0 2 65536 0x10000 3 true (some c.2) with
                bytes := bytesLE 1 c.1 ++ zeros 47 ++ bytesLE 8 0x10040 ++ zeros 8 }
      let s := networking r
      let u := { s with nets := s.nets.filter (·.id != r.id) }.unitWrite (s.netDies 0 5) 2 (r.addr + 56) [BitVec.ofNat 64 c.2] (s.netPlies r);
      s.netReq 33 = some r ∧ r.status = some c.2 ∧ r.op = c.1 ∧ (s.enclave 5).isSome = true ∧ s.netGone r = false ∧ r.cnt = 0x10040
        ∧ (s.unitLocate (s.netDies 0 5) 2 (r.addr + 56) .write).toOption = some (197176, 0x10238) ∧ s.tagFail.contains (197176 / 64) = false
        ∧ (u.unitLocate (s.netDies 0 5) 2 r.cnt .atomic).toOption = some (196672, 0x10040) ∧ u.deliver 196672 0x10040 = .valid 77)
    ∧ (let r := netReq1 0 0 2 65536 0x10000 3 true (some 6)
      let s := { networking r with enclaves := [] };
      s.netReq 33 = some r ∧ r.status = some 6 ∧ s.enclave r.enc = none ∧ s.netGone r = true) := by
  refine ⟨by decide +kernel, by decide +kernel, by decide +kernel, by decide +kernel, fun _ => ⟨rfl, packetBytes_outs _ _ _ _⟩, fun k e => nack_comes _ _ k e,
    acks_come _ _ _, ?_, by decide +kernel, by decide +kernel, by decide +kernel⟩
  rintro h k e (h0 | ⟨g, n, -, hm⟩)
  · exact h h0
  · exact absurd hm (List.not_mem_nil)

/-- A packet for the enclave's window, of a sender outside. -/
def packet1 (job win : Nat) (trimmed : Bool := false) (src : Nat := 2 ^ 16) : NetPacket :=
  ⟨1, src, 6, 1, 3, job, win, 0, 64, zeros 24, 24, true, trimmed, none⟩

theorem met_PacketsReachTheirWindows :
    let s := networking (netReq1 0 1 0 24 0x10040 0)
    let e := { encl1 with job := some 12 }
    s.netTarget 0 (packet1 13 2) = none
    ∧ (let k := packet1 12 2 false 9
      s.netTarget 0 k = some e ∧ k.reply = none ∧ k.src < 2 ^ 16 ∧ s.outs = [])
    ∧ (s.netTarget 0 (packet1 12 3) = some e ∧ PacketComes s 0 (packet1 12 3) ∧ s.netWindow 0 e (packet1 12 3) = none)
    ∧ (s.netTarget 0 (packet1 12 2 true) = some e ∧ PacketComes s 0 (packet1 12 2 true))
    ∧ PacketComes s 0 (packet1 12 2)
    ∧ (let w : NetWindow := ⟨0x10000, 0x1000, true, true, 0⟩
      let k := packet1 12 2;
      s.netTarget 0 k = some e ∧ s.netWindow 0 e k = some w ∧ w.write = true ∧ w.read = true ∧ k.rofs + k.offset + k.data.length ≤ w.len
        ∧ k.index < k.total ∧ s.unitRange (s.unitDies 0 0) 2 (w.base + 64) 24 .write = none ∧ (s.egress (s.unitDies 0 0) 2 (w.base + 64) 24).isSome = true
        ∧ k.trimmed = false ∧ k.reply = none ∧ s.budgets = [] ∧ s.netServes = [] ∧ 64 + k.len ≤ w.len
        ∧ (s.egress (s.unitDies 0 0) 2 (w.base + 64) k.len).isSome = true)
    -- an answer to a READ, in part and in whole
    ∧ (∀ len ∈ [88, 100], let r := netReq1 1 1 0 len 0x10000 0 true
      let k := { packet1 12 2 with reply := some 33 }
      let s := { networking r with enclaves := [e] };
      s.netTarget 0 k = some e ∧ s.sending 33 = some r ∧ r.pkg = 0 ∧ r.enc = e.enc ∧ r.op = 1 ∧ k.offset + k.data.length ≤ r.len
        ∧ s.unitRange (s.netDies 0 r.enc) r.asid (r.lva + k.offset) k.data.length .write = none)
    ∧ (∀ (s : State) r k, ∃ outs, BytesCome { s with outs } r k)
    ∧ (let r (un : List Nat) : NetRx := ⟨34, 0, 5, 900, 6, 1, 3, 2, [1], un, 100⟩
      (∀ un ∈ [[], [1], List.range 8], ({ s with rxs := [r un] } : State).rxs.find? (fun x => x.id == 34) = some (r un))
        ∧ 8 ≤ (List.range 8).length ∧ 100 + 2 * 600 ≤ s.clock) := by
  simp only [PacketComes]
  exact ⟨by decide +kernel, by decide +kernel, ⟨by decide +kernel, .inl (by decide), by decide +kernel⟩, ⟨by decide +kernel, .inl (by decide)⟩,
    .inl (by decide), by decide +kernel, by decide +kernel, bytes_come, by decide +kernel⟩
/-! ### Partitions, service, the root of trust -/

/-- A package of which the manager has made partition 0, with the enclave; a ply of it runs on die 0. -/
def managed (x : Partition) (plies : List Ply) (encls : List Enclave) : State :=
  { garment with
    partitions := [x], plies, enclaves := encls
    pkgs := [{ Pkg.fresh 0 with fwDie := [(0, 66), (1, 1), (6, 1)], fwAsid := [(0, [2]), (6, [2])], fwPkg := [(0, [3])] }] }

def joining : PartReq := ⟨[2, 3], [], [], [], [0x4000], []⟩

theorem met_PartitionsFollowAdminRequests :
    let x2 : Partition := { part1 with dies := [0, 1] }
    let s := managed x2 [enclPly .ready] [encl1]
    let idle (s : State) (req : PartReq) : Bool := decide (req.dies ≠ [] ∧ distinct req.dies = true ∧ ∀ d ∈ req.dies, s.dieIdle 0 d = true)
    let fits (s : State) (rest : List Nat) : Bool :=
      decide (∀ l ∈ s.launches, l.part = 0 → l.total ≠ 0 → (s.putPartition { x2 with dies := rest }).exceeds l = false)
    (s.partition 0 0 ≠ none ∧ 1 < 6 ∧ s.partition 0 1 = none ∧ idle s joining ∧ (s.putBudgets 0 joining.budgets).isSome = true)
    ∧ (s.partition 0 0 = some x2 ∧ x2.closing = [])
    -- dies that a partition holds, and a budget of no resource
    ∧ (¬ idle s { joining with dies := [1, 2] } ∧ (s.putBudgets 0 [⟨5, 9, 0, 0, 10, 7⟩]).isNone = true)
    ∧ (distinct [0] = true ∧ (∀ d ∈ [0], d ∈ x2.dies) ∧ x2.dies.filter (fun d => !([0] : List Nat).contains d) = [1] ∧ (s.enclaveFrames 0 [0]).length = 1
      ∧ 1 ≤ s.freeFrames 0 [1] ∧ fits s [1] ∧ (enclPly .ready).onDies 0 [0] = true ∧ (enclPly .ready).saveAsked = none)
    -- launches that fit what remains, and one that does not
    ∧ (fits { s with launches := [launch1] } [1]
      ∧ ¬ fits { s with launches := [launch1 40 (desc1.take 32 ++ [2] ++ desc1.drop 33)] } [1])
    ∧ (let x := { x2 with closing := [0] };
      (managed x [enclPly .ready] [encl1]).partition 0 0 = some x ∧ ∃ p ∈ [enclPly .ready], p.onDies 0 [0] = true)
    ∧ (let x := { x2 with closing := [1] };
      let s := managed x [enclPly .ready] [encl1];
      s.partition 0 0 = some x ∧ (∀ p ∈ s.plies, p.onDies 0 [1] = false) ∧ (∀ k ∈ s.skeins, k.residence ≠ .resident) ∧ s.enclaveFrames 0 [1] = []
        ∧ s.drained 0 [1] = true)
    ∧ (∃ e ∈ s.enclaves, e.part = 0)
    ∧ (let x := { x2 with closing := [1] };
      let s := managed x [] [];
      s.partition 0 0 = some x ∧ (∀ e ∈ s.enclaves, e.part ≠ 0) ∧ x.closing ≠ [])
    ∧ (let s := managed x2 [] [];
      s.partition 0 0 = some x2 ∧ (∀ e ∈ s.enclaves, e.part ≠ 0) ∧ s.drained 0 x2.dies = true ∧ (∃ c ∈ s.mem, c.1 / 2 ^ 38 = 0)) := by
  decide +kernel

theorem met_AdminRequestsSetOneThing :
    let s := managed part1 [] [encl1]
    let b (cls : Nat) : Budget := ⟨5, 2, 0, 0, 10, cls⟩
    ((b 7).resource < 5 ∧ (b 7).cls < 8 ∧ s.minima 0 2 0 5 + (b 7).minimum = 0 ∧ 8 ≤ (b 8).cls)
    ∧ (s.partition 0 0 = some part1 ∧ 4 ≤ 12 ∧ 0x10240 % 64 = 0 ∧ s.partition 0 5 = none ∧ s.enclave 5 = some encl1 ∧ s.enclave 6 = none)
    -- slices of 1,000 and 1,000,000; one too short, one with a bit that is zero, one of a partition that is not there
    ∧ ((∀ v ∈ [1000, 1000000], v / 2 ^ 30 = 0 ∧ 1000 ≤ v % 2 ^ 20 ∧ v % 2 ^ 20 ≤ 1000000 ∧ v / 2 ^ 20 % 2 ^ 8 = 0)
      ∧ ¬ 1000 ≤ 999 % 2 ^ 20 ∧ (2 ^ 30 + 1000) / 2 ^ 30 ≠ 0 ∧ s.partition 0 ((1000 + 2 ^ 20) / 2 ^ 20 % 2 ^ 8) = none)
    ∧ ((∀ i : Nat, i < 64 → i ≠ 28 → i ≠ 29 → i ≠ 32 → (0x130000000 : BitVec 64).getLsbD i = false)
      ∧ (0x400000000 : BitVec 64).getLsbD 34 = true) := by
  decide +kernel

/-- A tree on die 0, and one on the hub die in which the page is a stub of die 0. -/
def hubTree : List Host.Cell :=
  [(65538, 2), (65543, 0x40), (69633, 0x20), (69634, 1), (69639, 0x40), (73738, 3), (73742, 0xC0), (73743, 0x9F), (131073, 0x10), (131074, 1), (131079, 0x40),
    (196672, 77), (6 * 2 ^ 38 + 65538, 2), (6 * 2 ^ 38 + 65543, 0x40), (6 * 2 ^ 38 + 69633, 0x20), (6 * 2 ^ 38 + 69634, 1), (6 * 2 ^ 38 + 69639, 0x40),
    (6 * 2 ^ 38 + 73742, 0xC0), (6 * 2 ^ 38 + 73743, 0xDF), (6 * 2 ^ 38 + 131073, 0x10), (6 * 2 ^ 38 + 131074, 1), (6 * 2 ^ 38 + 131079, 0x40)]

/-- A package whose function 1 has partition 0 (the device's choice, `Config.vfPartition`), a tree of ASID 0 that its hub walks,
and a waiter on the key. -/
def notified : State :=
  { garment with
    roots := [(0, some 65536), (12288, some 65536)], waiters := [⟨9, 3, 0, 0x10040 / 8, 0, 196672, false⟩, ⟨10, 3, 5, 0x10040 / 8, 0, 196672, false⟩]
    mem := hubTree, owners := [(1, supOwner), (2, supOwner), (3, { state := 1, kind := 1, ceil := 7, enc := 0, gen := 0, iapg := 1 }), (6 * 2 ^ 22 + 1, supOwner), (6 * 2 ^ 22 + 2, supOwner)]
    pkgs := [openPkg], partitions := [{ part1 with id := Config.vfPartition 0 1 }] }

theorem met_NotifyRequestsWakeAndAnswer :
    let rd (va count rest : Nat) : List Byte := bytesLE 8 va ++ bytesLE 4 count ++ bytesLE 4 rest
    (1 % 64 ≠ 0 ∧ 127 % 64 ≠ 0 ∧ 127 < 128 ∧ (rd 0 0 1).length = 16 ∧ field (rd 0 0 1) 12 4 ≠ 0)
    ∧ (field (rd 0x10041 0 0) 12 4 = 0 ∧ field (rd 0x10041 0 0) 0 8 % 8 ≠ 0)
    ∧ (field (rd 0x90000 0 0) 0 8 = 0x90000 ∧ (notified.locate 6 0 0x90000 .read).toOption = none)
    ∧ ((rd 0x10040 0 0).length = 16 ∧ field (rd 0x10040 0 0) 0 8 = 0x10040 ∧ field (rd 0x10040 0 0) 8 4 = 0
      ∧ (notified.locate 6 0 0x10040 .read).toOption = some (196672, 0x10040) ∧ aperPkg (196672 / 2 ^ 38) = 0
      ∧ notified.partition 0 (Config.vfPartition 0 1) = some { part1 with id := Config.vfPartition 0 1 }
      ∧ aperDie (196672 / 2 ^ 38) ∈ part1.dies ∧ ∃ w ∈ notified.waiters, w.home = 0 ∧ w.enc = 0 ∧ w.key = 0x10040 / 8) := by
  refine ⟨by decide +kernel, by decide +kernel, ⟨by decide +kernel, by decide +kernel⟩, by decide +kernel, by decide +kernel, by decide +kernel,
    by decide +kernel, by decide +kernel, ?_, by decide +kernel, by decide +kernel⟩
  have := (Config.vfPartition 0 1).isLt
  simp [State.partition, notified]
  omega

theorem met_BudgetsReportsAndRetirement :
    let e := { encl1 with trep := 0x10200 }
    let s := managed part1 [] [e]
    (({ s with clock := 12000 } : State).pkg 0).periodStart + 12000 ≤ 12000
    ∧ 11999 < (({ s with clock := 11999 } : State).pkg 0).periodStart + 12000
    ∧ (s.enclave e.enc = some e ∧ e.trep ≠ 0)
    ∧ (863 < 864 ∧ (∀ q ∈ s.plies, q.core ≠ 863) ∧ 863 ∉ (s.pkg 0).failed ∧ 863 / 12 ∉ (s.pkg 0).spares ∧ s.budgets = [])
    ∧ (let s := { s with pkgs := [{ Pkg.fresh 0 with spares := [71] }] }; 863 / 12 ∈ (s.pkg 0).spares ∧ 863 ∉ (s.pkg 0).failed)
    ∧ (∀ r ∈ s.retired, ¬ (r.pkg = 0 ∧ r.kind = 3 ∧ r.aper = 6 ∧ r.unit = 5))
    ∧ (let s := { s with retired := [⟨0, 3, 6, 5, 7⟩] }; ∃ r ∈ s.retired, r.pkg = 0 ∧ r.kind = 3 ∧ r.aper = 6 ∧ r.unit = 5)
    ∧ (let s := { s with budgets := [⟨0, ⟨5, 2, 0, 0, 10, 7⟩, 9, [], 0, false⟩] }; ∃ b ∈ s.budgets, b.pkg = 0 ∧ b.used ≠ 0) := by
  decide +kernel

/-- The signature check is the device's (`Config.firmwareSigOk`): either answer meets one of the first two clauses. -/
theorem met_FirmwareSlotsAndReset (image sig : List Byte) :
    let s := { managed part1 [enclPly .ready] [encl1] with pkgs := [{ Pkg.fresh 0 with minimum := 3, trial := some 1 }] }
    let t := { s with pkgs := [{ Pkg.fresh 0 with trial := some 1, trying := some 7 }] }
    (Config.firmwareSigOk image sig = true ∧ (s.pkg 0).minimum ≤ 3 ∧ (s.pkg 0).trying = none ∨ Config.firmwareSigOk image sig = false)
    ∧ 2 < (s.pkg 0).minimum
    ∧ ((t.pkg 0).trying = some 7 ∧ (t.pkg 0).trial = some 1 ∧ t.clock < 7 + 30000 * 600000)
    ∧ 7 + 30000 * 600000 ≤ ({ t with clock := 18000000007 } : State).clock := by
  have h : ∀ b : Bool, b = true ∨ b = false := by decide
  exact ⟨(h _).elim (fun h => .inl ⟨h, by decide, by decide⟩) .inr, by decide +kernel, by decide +kernel, by decide +kernel⟩

/-- That enclave with an interface in slot 4 of link 1. -/
def withIface : Enclave := { encl1 with ifaces := [⟨9, 1, 4, 5, 6, true, []⟩] }

theorem met_ScrubbingAndThePort :
    let s := managed part1 [] [withIface]
    let tlp (t : Bool) (va : Nat) : Tlp := ⟨1, 6, 5, t, true, va, zeros 8⟩
    (Memory.wf s.mem = true ∧ SMap.wf none s.codes = true ∧ s.budgets = [])
    ∧ (s.asidLive 2 = true ∧ (s.unitRange (s.portDies 0 2) 2 0x10040 8 .write = none ∧ s.unitRange (s.portDies 0 2) 2 0x10040 8 .read = none)
      ∧ s.egress (s.portDies 0 2) 2 0x10040 8 = some (bytesLE 8 77) ∧ s.unitRange (s.portDies 0 2) 2 0x90040 8 .write ≠ none)
    ∧ (let s := { s with codes := [(196672 / 8, some 0)] };
      s.unitRange (s.portDies 0 2) 2 0x10040 8 .read = none ∧ s.egress (s.portDies 0 2) 2 0x10040 8 = none)
    ∧ s.asidLive 9 = false
    ∧ (∀ e ∈ s.enclaves, e.pkg = 0 → ∀ f ∈ e.ifaces, ¬ (f.link = 1 ∧ f.rid = 6 ∧ f.stream = 5 ∧ f.run = true ∧ (tlp false 0).tbit = true))
    ∧ (s.tlpIface 0 (tlp true 0x10040) = some withIface ∧ s.unitRange (s.unitDies 0 0) 2 0x10040 8 .write = none
      ∧ s.unitRange (s.unitDies 0 0) 2 0x90040 8 .write ≠ none)
    ∧ (s.enclave withIface.enc = some withIface ∧ (∃ f ∈ withIface.ifaces, f.link = 1 ∧ f.slot = 4 ∧ f.run = true) ∧ withIface.pkg = 0
      ∧ ∀ n ∈ s.enclaves, n = withIface) := by
  decide +kernel

/-- A NEGOTIATE_ALGORITHMS request: SHA3-512, the extended algorithm of ML-DSA-87, secp384r1 and AES-256-GCM. -/
def offer : List Byte :=
  zeros 8 ++ bytesLE 4 0x20 ++ zeros 12 ++ [1, 0, 0, 0] ++ bytesLE 4 Config.mldsaAlgId.toNat ++ [2, 0x20, 0x10, 0, 3, 0x20, 2, 0]

theorem offer_is_taken : algsOffered offer = true := by
  have h : ofBytesLE (bytesLE 4 Config.mldsaAlgId.toNat) = Config.mldsaAlgId.toNat := by
    simp [bytesLE, ofBytesLE]
    omega
  simp only [algsOffered, offer, Bool.and_eq_true, List.any_eq_true, beq_iff_eq]
  refine ⟨⟨⟨rfl, 0, by decide, h⟩, (2, 0x10), ?_, by decide⟩, (3, 2), ?_, by decide⟩
  · exact .head _
  · exact .tail _ (.head _)

/-- Which number ML-DSA-87 has, which chain slot 0 holds and what authenticates a FINISH are the device's own (`Config`): each
clause about them is met whichever they are, but for the chain's, which needs one that is not empty. -/
theorem met_RootOfTrustAnswersInOrder (mac : List Byte) :
    let chan (v c a : Bool) (session : Nat) (fin : Bool) : State :=
      { State.reset with channels := [⟨0, 3, v, c, a, [], session, fin, [], [], [], 0⟩] }
    ((chan true false false 0 false).channel 0 3).caps = false ∧ ((chan true false false 0 false).channel 0 3).version = true
    ∧ (State.reset.channel 0 3).version = false
    ∧ (let c := (chan true true false 0 false).channel 0 3;
      c.caps = true ∧ c.algs = false ∧ algsOffered offer = true ∧ algsOffered [] = false)
    ∧ ((chan true true true 0 false).channel 0 3).algs = true ∧ ((chan true true true 0 false).channel 0 3).session = 0
    ∧ (let c := (chan true true true 7 false).channel 0 3;
      c.algs = true ∧ c.session ≠ 0 ∧ 7 = c.session ∧ c.finished = false
        ∧ (mac = Config.spdmMac c.reqKey c.transcript ∨ mac ≠ Config.spdmMac c.reqKey c.transcript))
    ∧ (let c := (chan true true true 7 true).channel 0 3; c.session ≠ 0 ∧ 7 = c.session ∧ c.finished = true) := by
  exact ⟨rfl, rfl, rfl, ⟨rfl, rfl, offer_is_taken, by decide +kernel⟩, rfl, rfl, ⟨rfl, by decide, rfl, rfl, Classical.em _⟩, by decide, rfl, rfl⟩

/-! ### The machine as a whole -/

/-- The turn of the ply of `onPly`, at these bytes; its run may be a packed one. -/
def turning (bytes : List Byte) (va : Nat := placeVa) (packed : Bool := false) : State :=
  { onPage bytes (fun p => { p with courses := [Course.fresh 2 0 (List.range 8) va] }) with
    agenda := [.course 1 2 0], cur := none
    cores := [{ Core.empty 0 with runs := [⟨0, 0, packed, [(1, 2)]⟩] }] }

theorem turns_of (s : State) (h : s.agenda = [.course 1 2 0] ∧ (s.ply 1).isSome = true ∧ ((s.ply 1).bind (·.course 2)).isSome = true
    ∧ ∀ p ∈ s.ply 1, ∀ c ∈ p.course 2, State.mayIssue { s with agenda := [] } p c = true) :
    ∃ p c, Turns s 1 2 0 [] p c := by
  obtain ⟨ha, hp, hc, hm⟩ := h
  obtain ⟨p, hp⟩ := Option.isSome_iff_exists.mp hp
  rw [hp] at hc
  obtain ⟨c, hc⟩ := Option.isSome_iff_exists.mp hc
  exact ⟨p, c, ha, hp, hc, hm p hp c hc⟩

/-- The word that the turn of a state fetches, and whether its course stands in a packed run. -/
def fetched (s : State) (va : Nat := placeVa) : Option IWord :=
  (s.ply 1).bind fun p => (State.fetchFor { s with agenda := [] } p va).toOption

def inPacked (s : State) : Bool := match s.ply 1 with
  | some p => (State.packedRun { s with agenda := [] } p 2).isSome
  | none => false

/-- The instruction ADD of chapter 1's example, two words; NOP; a word of no instruction; a page that is not there; and a NOP in a
packed run. -/
theorem met_StepRunsWhatItFetches :
    (let s := turning (wordBytes [0x40000000]);
      (∃ p c, Turns s 1 2 0 [] p c) ∧ inPacked s = false ∧ fetched s = some 0x40000000 ∧ isLong 0x40000000 = false
        ∧ (decodeWords 0x40000000 0).toOption = some (.nop ⟨false, 0, 0⟩))
    ∧ (let s := turning (wordBytes [0x81000000, 0x028077A2]);
      (∃ p c, Turns s 1 2 0 [] p c) ∧ inPacked s = false ∧ fetched s = some 0x81000000 ∧ isLong 0x81000000 = true
        ∧ fetched s (placeVa + 4) = some 0x028077A2
        ∧ (decodeWords 0x81000000 0x028077A2).toOption = some (.add ⟨false, 0, 0⟩ (.v 5) (.v 1) (.imm (-3)) .i32 false))
    ∧ (let s := turning [] 0x90000; (∃ p c, Turns s 1 2 0 [] p c) ∧ inPacked s = false ∧ fetched s 0x90000 = none)
    ∧ (let s := turning (wordBytes [0x40700000]);
      (∃ p c, Turns s 1 2 0 [] p c) ∧ inPacked s = false ∧ fetched s = some 0x40700000 ∧ isLong 0x40700000 = false
        ∧ (decodeWords 0x40700000 0).toOption = none)
    ∧ (let s := turning (wordBytes [0x40000000]) placeVa true;
      (∃ p c, Turns s 1 2 0 [] p c) ∧ inPacked s = true
        ∧ ((s.ply 1).bind fun q => (q.course 2).map fun d => match s.look q d.run.pc with
          | .found i n => decide (i = .nop ⟨false, 0, 0⟩ ∧ n = 4)
          | _ => false) = some true) :=
  ⟨⟨turns_of _ (by decide +kernel), by decide +kernel⟩, ⟨turns_of _ (by decide +kernel), by decide +kernel⟩,
    ⟨turns_of _ (by decide +kernel), by decide +kernel⟩, ⟨turns_of _ (by decide +kernel), by decide +kernel⟩,
    ⟨turns_of _ (by decide +kernel), by decide +kernel⟩⟩

theorem met_StepRunsTheEventOfTheAgenda :
    let s : State := { State.reset with agenda := [.event (.scrub 0 64), .event (.budgetPeriod 0)] }
    s.agenda = .event (.scrub 0 64) :: [.event (.budgetPeriod 0)] := rfl

theorem met_DecodingInvertsEncoding :
    let i : Instr := .add hd0 (.v 5) (.v 1) (.imm (-3)) .i32 false
    i.wf = true ∧ encode i = [0x81000000, 0x028077A2] ∧ (Instr.nop hd0).wf = true ∧ encode (.nop hd0) = [0x40000000] := by decide +kernel

theorem met_StepKeepsMemoryCanonical : ∃ t, (turning (wordBytes [0x40000000])).Inv ∧ step (turning (wordBytes [0x40000000])) = .next t := by
  have h : (match step (turning (wordBytes [0x40000000])) with | .next _ => true | _ => false) = true := by decide +kernel
  cases hs : step (turning (wordBytes [0x40000000])) with
  | next t =>
    have w : Memory.wf (turning (wordBytes [0x40000000])).mem = true := by decide +kernel
    exact ⟨t, w, rfl⟩
  | fault _ => rw [hs] at h; cases h
  | refused _ => rw [hs] at h; cases h

theorem met_StepNeverStops :
    let s : State := { State.reset with agenda := [.event (.scrub 0 64)] }
    (∀ e r, State.reset.agenda = .event e :: r → encode e = []) ∧ ∀ e r, s.agenda = .event e :: r → encode e = [] := by
  intro s
  refine ⟨fun e r h => by simp [State.reset] at h, fun e r h => ?_⟩
  simp only [s, List.cons.injEq, Turn.event.injEq] at h
  rw [← h.1]
  rfl

theorem met_CompletionTouchesOnlyWhatItNames : Meets (.add hd0 (.v 5) (.v 1) (.v 2) .i32 false) noExtra fun _ x => x.hub = false :=
  meets_of (lanes .i32 1 2 3) (by decide +kernel) (by decide +kernel)

theorem met_LandingWritesItsTarget :
    let p := placedPly 1 2 0
    7 < p.fibres.length ∧ ∀ t ∈ ([.s 9, .v 7 9, .p 7 15, .p 7 0, .flags 7] : List Target), ∃ l : Landing, l.target = t := by
  exact ⟨by decide +kernel, fun t _ => ⟨⟨0, [2], t, ⟨1, .i64⟩⟩, rfl⟩⟩

theorem met_MemoryReadsAsItWasWritten :
    let m : List Host.Cell := [(4, 1), (9, 2)]
    Memory.wf m = true ∧ 7 < (bytesLE 8 258).length ∧ 2 ^ 64 - 1 < 2 ^ (8 * 8) ∧ 3 < 4 ∧ 4 + 8 ≤ 12 ∧ ∀ b, memByte m b = memByte m b := by
  refine ⟨by decide, by decide, by decide, by decide, by decide, fun _ => rfl⟩

theorem met_RegistersReadAsTheyWereWritten : SMap.wf Reg.zero [(1, ⟨5, .i32⟩), (255, ⟨0, .poison⟩)] = true := by decide +kernel

/-- A turn's state, in which its PFX is the issuer. -/
def prefixed (bytes : List Byte) : State := onPage bytes id 4

/-- PFX rz before an FMA, which takes it, and before a NOP, which does not: the course is parked with 0x02. -/
theorem met_PrefixesStandOrAreOrphans :
    (let s := prefixed (wordBytes [0xC8000000, 0x820C001C, 0x01810127]);
      s.cur = some ⟨1, 2, placeVa, 4, [], none⟩ ∧ ∃ p, s.ply 1 = some p ∧ p.course 2 = some (Course.fresh 2 0 (List.range 8) placeVa)
        ∧ s.orphan ⟨1, 2, placeVa, 4, [], none⟩ p (Course.fresh 2 0 (List.range 8) placeVa) ⟨.rz, 0, false, false, 0, false, placeVa⟩ = false)
    ∧ (let s := prefixed (wordBytes [0xC8000000, 0x40000000]);
      s.cur = some ⟨1, 2, placeVa, 4, [], none⟩ ∧ ∃ p, s.ply 1 = some p ∧ p.course 2 = some (Course.fresh 2 0 (List.range 8) placeVa)
        ∧ s.orphan ⟨1, 2, placeVa, 4, [], none⟩ p (Course.fresh 2 0 (List.range 8) placeVa) ⟨.rz, 0, false, false, 0, false, placeVa⟩ = true
        ∧ p.hub = none ∧ (Course.fresh 2 0 (List.range 8) placeVa).fibres ≠ []) :=
  ⟨⟨by decide +kernel, placedPly 1 2 0, by decide +kernel, by decide +kernel, by decide +kernel⟩,
    by decide +kernel, placedPly 1 2 0, by decide +kernel, by decide +kernel, by decide +kernel, by decide +kernel, by decide +kernel⟩

/-- A course at a write of a control register, of 8 or of what s1 holds, issues it, and the write is legal. -/
def writesB (csr : BitVec 14) (hub : Option Hub) (a : Src) (v : Word) : Bool :=
  let i : Instr := .csrw hd0 a csr
  let s := { writing csr hub with mem := memWrite tree.mem (flat 0 (3 * 65536)) (codeOf [i]) }
  let s := s.modPly 1 fun p => { p with s := [(1, ⟨v, .i64⟩)] }
  match s.ply 1 with
  | none => false
  | some p => match p.course 2 with
    | none => false
    | some c =>
      let s0 := s.ready p c i 8
      let x := issueOf s0 i
      s.mayIssue p c && c.chain.isEmpty && (s.packedRun p 2).isNone && decide (s.look p c.run.pc = .found i 8) && issuesB s0 i (csrBreach · csr true) && !x.active.isEmpty
        && (holdsB x (x.active.headD 0) .i64 a && x.uniform a == v)
        && (SMap.get Reg.zero (p.land (Nat.max s.clock c.nextIssue)).s 1).val == v && (s0.csrWrite x.ply csr.toNat v).isSome

theorem met_WordsChartsAndControlWritesComplete :
    ((Meets (.nop hd0) noExtra fun _ _ => True)
      ∧ (Meets (.ifence hd0) noExtra fun s x => s.chartldBusy x.ply.handle = false
        ∧ s.owing x.ply.handle s.nextId x.course.fibres true = false))
    ∧ ((charted.issue (.chartWord false 0 0x17 0)).isSome = true
      ∧ (let x := issueOf charted (.chartWord false 0 0x17 0)
        let e := ChartSlot.entry (charted.chartOf x.ply) 0x17
        chartValid e = true ∧ x.ply.stale.getLsbD (0x17 / 32) = false ∧ expandEntry e false 0 0 = some (0x81000000, 0x028077A2)
          ∧ (decodeWords 0x81000000 0x028077A2).toOption = some (.add hd0 (.v 5) (.v 1) (.imm (-3)) .i32 false))
      ∧ Meets (.add hd0 (.v 5) (.v 1) (.imm (-3)) .i32 false) noExtra fun _ x =>
        Fmt.i32.isInt = true ∧ AllHold .i32 [.v 1, .imm (-3)] x)
    ∧ ((Meets (.chartld hd0 1 0 3 0) noExtra fun s x => x.active ≠ [] ∧ (Holds x (x.active.headD 0) .i64 (.s 1)
        ∨ Holds x (x.active.headD 0) .raw (.s 1)) ∧ ((x.uniform (.s 1)) + (0 : BitVec 14).signExtend 64).toNat % 64 = 0
          ∧ s.rangeFaults x.ply ((x.uniform (.s 1)) + (0 : BitVec 14).signExtend 64).toNat (chartldBytes 0) .read = [])
      ∧ (imaged.op 9 = some (opOf 9 2 [0] [] (.chartld 0x10040 2 0)) ∧ (imaged.issuer (opOf 9 2 [0] [] (.chartld 0x10040 2 0))).isSome = true ∧ imaged.owing 1 9 [0] true = false
        ∧ 2 < 9 ∧ ∀ q ∈ imaged.ops, ¬ q.id < 9)
      ∧ Meets (.chartrd hd0 6 (.s 2) (-1)) noExtra fun _ x => x.hub = false ∧ x.active ≠ [] ∧ UniformCtl x (.s 2))
    ∧ ∀ w ∈ ([(5, none, .imm 8, 8), (4, none, .s 1, 0x20000), (11, some (hubAt 1), .s 1, 0x102710), (8, some (hubAt 1), .imm 8, 8)]
        : List (BitVec 14 × Option Hub × Src × Word)), writesB w.1 w.2.1 w.2.2.1 w.2.2.2 = true :=
  ⟨⟨meets_of (onPly id 4) (by decide +kernel) trivial,
      meets_of (onPage (wordBytes [0x40200000, 0x40100000]) id 4) (by decide +kernel) (by decide +kernel)⟩,
    ⟨by decide +kernel, by decide +kernel, meets_of (lanes .i32 1 2 3) (by decide +kernel) (by simp only [AllHold, holds_iff]; decide +kernel)⟩,
    ⟨meets_of imaged (by decide +kernel) (by simp only [holds_iff]; decide +kernel), by decide +kernel,
      meets_of imaged (by decide +kernel) (by simp only [UniformCtl, holds_iff]; decide +kernel)⟩,
    by decide +kernel⟩

theorem met_SelvedgeCodeAndPoisonPattern :
    SMap.wf none carve1.cells = true ∧ 0x100 % 8 = 0
    ∧ (∃ code, code = selv 5 0x100) ∧ (∃ code, (0 : Word) = 0 ∧ code = ~~~ selv 0 0x100)
    ∧ ∃ code, code ≠ selv 5 0x100 ∧ ¬ ((5 : Word) = 0 ∧ code = ~~~ selv 0 0x100) := by
  exact ⟨by decide +kernel, rfl, ⟨_, rfl⟩, ⟨_, rfl, rfl⟩, ~~~ selv 5 0x100, by decide +kernel, by decide⟩

/-- Position 24, and position 23, the last that holds an instruction. -/
theorem met_RunsHoldAtMost24Instructions :
    let s (n : Nat) := onPly fun p => { lanesPly .i32 1 2 3 p with courses := [{ Course.fresh 2 0 (List.range 8) placeVa with run := ⟨placeVa, n, [], none⟩ }] }
    let i : Instr := .add hd0 (.v 5) (.v 1) (.v 2) .i32 false
    let x (n : Nat) := ownBeats i (s n) (issueOf (s n) i)
    Executes i
    ∧ (((s 24).issue i).map (ownBeats i (s 24)) = some (x 24) ∧ (x 24).sh.isBind = false ∧ 24 ≤ (x 24).course.run.pos ∧ (x 24).hub = false
      ∧ (x 24).course.fibres ≠ [] ∧ ∀ e ∈ (s 24).wordFaults (x 24) (entryFaults i (x 24)), 0x06 ≤ e.cause)
    ∧ (((s 23).issue i).map (ownBeats i (s 23)) = some (x 23) ∧ (x 23).sh.isBind = false ∧ (x 23).course.run.pos < 24) := by
  intro s i x
  refine ⟨?_, ⟨?_, by decide +kernel⟩, ?_, by decide +kernel⟩
  · exact ⟨by decide, fun _ _ _ _ _ _ h => by injection h, fun _ _ _ _ h => by injection h⟩
  · rw [issue_eq _ _ (by decide +kernel)]; rfl
  · rw [issue_eq _ _ (by decide +kernel)]; rfl

/-- The modulus of ML-KEM. -/
theorem met_BarrettReducesModuloQ :
    let m : QMod := ⟨BitVec.ofNat 64 (2 ^ 24 / 3329), 3329, false, true, 12⟩
    let q := m.q.toNat
    1 ≤ m.bits ∧ 2 ^ (m.bits - 1) ≤ q ∧ q < 2 ^ m.bits ∧ m.mu.toNat = 2 ^ (2 * m.bits) / q ∧ 3328 * 3328 < q * q := by decide +kernel

theorem met_ControlRegisterWritesAreChecked :
    (placedPly 1 2 0).hub = none ∧ (1 ≤ ((8 : Word).extractLsb' 2 3).toNat ∧ ((8 : Word).extractLsb' 2 3).toNat ≤ 5)
    ∧ ¬ 1 ≤ ((0x7E3 : Word).extractLsb' 2 3).toNat ∧ (0x40000 : Word).extractLsb' 0 3 = 0 ∧ (0x40001 : Word).extractLsb' 0 3 ≠ 0
    ∧ 1 ≤ 2 ∧ 12 < 13 := by decide

/-! ### The manual's own words and numbers -/

/-- Words that the manual writes out in its examples, each with the instruction that its listing gives: chapters 1 to 4. -/
theorem test_manual_words_core : ∀ t ∈ ([
    (0x8044_0000, 0x8251_E8E1, .elect hd0 (.s 4) 1),
    (0x8020_251C, 0x0000_0005, .bindBr ⟨false, 0, 1⟩ 0 5),
    (0x8020_051C, 0x0000_0006, .bindBr hd0 0 6),
    (0x8050_0000, 0xA3D1_C007, .sysc hd0 7),
    (0x8084_000A, 0x0000_0000, .movi hd0 (.v 2) 2 0),
    (0x8084_000B, 0x3FF8_0000, .movi hd0 (.v 2) 3 0x3FF80000),
    (0x40B0_8106, 0, .tagsetBase hd0 2 (.v 2) .f64),
    (0x40A0_C177, 0, .taggetBase hd0 3 (.v 2)),
    (0x8080_0000, 0x0252_28E0, .mov hd0 (.v 4) (.special 0)),
    (0x4090_4277, 0, .movsBase hd0 1 (.v 4)),
    (0x8160_0001, 0x0252_3FFF, .addi hd0 (.v 4) (.special 0) 0x3FFF .i64 false),
    (0x8284_0000, 0x0101_0082, .pack hd0 (.v 2) (.v 4) (.v 4) .i32 false .inherit),
    (0x8114_0000, 0x0180_4042, .div hd0 (.v 3) (.v 1) (.v 2) .i32 false),
    (0x82AA_2010, 0x0300_E8E2, .lreduce ⟨false, 0, 0x11⟩ (.v 6) (.v 3) .i32 false 0 2 .inherit)] : List (IWord × IWord × Instr)),
    (decodeWords t.1 t.2.1).toOption = some t.2.2 := by decide +kernel

/-- The same of chapters 5 to 17. -/
theorem test_manual_words_units : ∀ t ∈ ([
    (0x8300_0001, 0xA3F4_68EB, .qset hd0 (.imm 17) .q64 1),
    (0x908C_0000, 0x00D2_28EB, .tagset ⟨false, 2, 0⟩ (.v 1) (.special 0) .q64),
    (0x8310_0709, 0x0200_78AB, .qmac hd0 (.v 4) (.v 1) (.imm 5) (.imm 2) .q64 1),
    (0x8318_0725, 0x0100_798B, .qbfly hd0 2 (.v 1) (.imm 12) (.imm 9) .q64 1),
    (0x8388_0000, 0x8284_20CA, .mmag hd0 (.s 5) 16 (.s 6) 2 true false 0),
    (0x8440_0000, 0x80F0_28E0, .racq hd0 1 (.imm 0) 0),
    (0x8444_0000, 0xA3F0_2040, .rpub hd0 (.imm 0) (.s 2)),
    (0x8448_0000, 0x8270_28E0, .rtake hd0 4 (.imm 0) 0),
    (0x844C_0000, 0xA3F0_2060, .rrel hd0 (.imm 0) (.s 3)),
    (0x8508_0001, 0xA3C0_8000, .cmap hd0 2 0 1 0),
    (0x8588_0000, 0x0100_68E4, .pgq hd0 (.v 2) (.v 1) .zero 4),
    (0x85B4_0000, 0x8042_28E1, .eseal hd0 0 8 1),
    (0x85B8_0000, 0x8143_28E2, .eunseal hd0 2 12 2),
    (0x8560_0000, 0x81F1_6081, .launch hd0 (.s 3) (.imm 5) (.s 4) 1),
    (0x8540_0000, 0x81C1_3881, .npost hd0 (.s 3) (.s 4) (.imm 4) 1),
    (0x806C_0000, 0xA3F1_8005, .csrw hd0 (.imm 6) 5),
    (0x8064_0000, 0xA3D1_E8E1, .eret hd0 .zero 1),
    (0x8110_0400, 0x01D2_3881, .mad hd0 (.v 3) (.special 0) (.imm 4) (.s 0) .i64 false),
    (0x8488_051C, 0x0200_C049, .atom hd0 (.v 4) (.v 3) (.v 2) .zero 1 1)] : List (IWord × IWord × Instr)),
    (decodeWords t.1 t.2.1).toOption = some t.2.2 := by decide +kernel

/-- What an instruction leaves on its way to fibre 3. -/
def flown (s : State) (i : Instr) : List (Target × Word) :=
  match exec i s with
  | .next t => (t.plies.flatMap (·.flight)).filterMap fun l =>
      match l.target with
      | .v f _ | .flags f | .p f _ => if f = 3 then some (l.target, l.reg.val) else none
      | _ => none
  | _ => []

/-- Chapter 4's example: −7 and −2^31 by −1, and by 0; overflow is flag 2, divide-by-zero flag 1. -/
theorem test_div_by_minus_one_and_zero :
    flown (lanes .i32 0x80000000FFFFFFF9 0xFFFFFFFFFFFFFFFF 0) (.div hd0 (.v 4) (.v 1) (.v 2) .i32 false)
        = [(.v 3 4, 0x8000000000000007), (.flags 3, 0x04)]
    ∧ flown (lanes .i32 0x80000000FFFFFFF9 0 0) (.div hd0 (.v 4) (.v 1) (.v 2) .i32 false)
        = [(.v 3 4, 0xFFFFFFFFFFFFFFFF), (.flags 3, 0x02)] := by decide +kernel

theorem test_rem_by_minus_one_and_zero :
    (flown (lanes .i32 0x80000000FFFFFFF9 0xFFFFFFFFFFFFFFFF 0) (.rem hd0 (.v 4) (.v 1) (.v 2) .i32 false)).head? = some (.v 3 4, 0)
    ∧ (flown (lanes .i32 0x80000000FFFFFFF9 0 0) (.rem hd0 (.v 4) (.v 1) (.v 2) .i32 false)).head?
        = some (.v 3 4, 0x80000000FFFFFFF9) := by decide +kernel

/-- R156's example: −0.4 becomes 0 with inexact (flag 4), −0.6 becomes 0 with invalid (flag 0). -/
theorem test_cvt_unsigned_of_negatives :
    flown (lanes .f32 0xBECCCCCDBECCCCCD 0 0) (.cvt hd0 (.v 5) (.v 1) .i32 true .rne .f32) = [(.v 3 5, 0), (.flags 3, 0x10)]
    ∧ flown (lanes .f32 0xBF19999ABF19999A 0 0) (.cvt hd0 (.v 5) (.v 1) .i32 true .rne .f32) = [(.v 3 5, 0), (.flags 3, 0x01)] := by
  decide +kernel

def modulo17 (i : Word) : State := onPly fun p => { lanesPly .q64 i 5 2 p with qm := [(1, (qsetValue .q64 17).getD QMod.empty)] }

/-- Chapter 5's example: 5i + 2 for i = 3 and 7, and the butterfly of i = 7 with 12 and 9. -/
theorem test_modulo_17 :
    flown (modulo17 3) (.qmac hd0 (.v 4) (.v 1) (.imm 5) (.imm 2) .q64 1) = [(.v 3 4, 0), (.flags 3, 0)]
    ∧ flown (modulo17 7) (.qmac hd0 (.v 4) (.v 1) (.imm 5) (.imm 2) .q64 1) = [(.v 3 4, 3), (.flags 3, 0)]
    ∧ flown (modulo17 7) (.qbfly hd0 2 (.v 1) (.imm 12) (.imm 9) .q64 1) = [(.v 3 2, 13), (.v 3 3, 1), (.flags 3, 0)] := by decide +kernel

/-- Chapter 9's example: the group of −1, 2.75, 0.5 and zeros has s = 0.25 and z = 4, and reads back exactly. -/
theorem test_group_quantised :
    let xs : List Num := [0xBF80, 0x4030, 0x3F00, 0].map binB16.decode
    let g := groupEncode 15 xs
    g.1 = 0x00043400 ∧ xs.map (groupWeightOf 15 g.1 g.2) = [0, 15, 6, 4] ∧ [0, 15, 6, 4].map (dequantise .rne · g.1) = [0xBF80, 0x4030, 0x3F00, 0] := by
  decide +kernel

end Sys2Proof.Machine
end

section
/-! Sparse maps, memory and registers read as they were written (R4, R101, R102, R237). -/

namespace Sys2Proof.Machine

/-! ### Sparse maps -/

section
variable {α : Type} (d : α)

theorem SMap.get_put (m : SMap α) (k j : Nat) (a : α) :
    SMap.get d (SMap.put m k a) j = if j = k then a else SMap.get d m j := by
  induction m with
  | nil => simp only [SMap.put, SMap.get]; grind
  | cons c r ih =>
    obtain ⟨i, b⟩ := c
    simp only [SMap.put]
    split
    · simp only [SMap.get]; grind
    · split
      · simp only [SMap.get]; grind
      · simp only [SMap.get, ih]; grind

/-- A key below all that are listed reads as the default. -/
theorem SMap.get_of_forall_lt {m : SMap α} {k : Nat} (h : ∀ c ∈ m, k < c.1) : SMap.get d m k = d := by
  cases m with
  | nil => rfl
  | cons c r =>
    have hk := h c List.mem_cons_self
    simp [SMap.get, hk, Nat.ne_of_gt hk]

theorem SMap.get_del {m : SMap α} (h : m.Pairwise fun b c => b.1 < c.1) (k j : Nat) :
    SMap.get d (SMap.del m k) j = if j = k then d else SMap.get d m j := by
  induction m with
  | nil => simp [SMap.del, SMap.get]
  | cons c r ih =>
    obtain ⟨i, b⟩ := c
    obtain ⟨hlt, hr⟩ := List.pairwise_cons.mp h
    have := ih hr
    simp only [SMap.del]
    split
    · simp only [SMap.get]; grind
    · split
      · next hik =>
        subst hik
        simp only [SMap.get]
        by_cases hj : j ≤ i
        · rw [SMap.get_of_forall_lt d fun c hc => Nat.lt_of_le_of_lt hj (hlt c hc)]; grind
        · grind
      · simp only [SMap.get, this]; grind

variable [DecidableEq α]

theorem SMap.pairwise_of_wf {m : SMap α} (h : SMap.wf d m = true) : m.Pairwise fun b c => b.1 < c.1 :=
  ((SMap.wf_iff d m).mp h).1

theorem SMap.get_set {m : SMap α} (h : SMap.wf d m = true) (k j : Nat) (a : α) :
    SMap.get d (SMap.set d m k a) j = if j = k then a else SMap.get d m j := by
  unfold SMap.set
  split
  · next ha => rw [SMap.get_del d (SMap.pairwise_of_wf d h), ha]
  · exact SMap.get_put d m k j a

theorem SMap.wf_tail {c : Nat × α} {r : SMap α} (h : SMap.wf d (c :: r) = true) : SMap.wf d r = true := by
  rw [SMap.wf_iff] at h ⊢
  exact ⟨(List.pairwise_cons.mp h.1).2, fun e he => h.2 e (List.mem_cons_of_mem _ he)⟩

/-- A key below the first one listed reads as the default, which the first one does not. -/
theorem SMap.get_lt_head {i k : Nat} {a : α} {r : SMap α} (h : SMap.wf d ((i, a) :: r) = true) (hk : k < i) :
    SMap.get d ((i, a) :: r) k = d :=
  SMap.get_of_forall_lt d fun c hc => (List.mem_cons.mp hc).elim (fun e => e ▸ hk)
    fun hc => Nat.lt_trans hk ((List.pairwise_cons.mp (SMap.pairwise_of_wf d h)).1 c hc)

theorem SMap.get_head_ne {i : Nat} {a : α} {r : SMap α} (h : SMap.wf d ((i, a) :: r) = true) :
    SMap.get d ((i, a) :: r) i ≠ d := by
  simpa [SMap.get] using ((SMap.wf_iff d _).mp h).2 _ List.mem_cons_self

/-- The canonical form is one: maps that read alike are equal. -/
theorem SMap.eq_of_get_eq {m n : SMap α} (hm : SMap.wf d m = true) (hn : SMap.wf d n = true)
    (h : ∀ k, SMap.get d m k = SMap.get d n k) : m = n := by
  induction m generalizing n with
  | nil =>
    cases n with
    | nil => rfl
    | cons c r => exact absurd (h c.1).symm (SMap.get_head_ne d hn)
  | cons c r ih =>
    cases n with
    | nil => exact absurd (h c.1) (SMap.get_head_ne d hm)
    | cons e t =>
      obtain ⟨i, a⟩ := c
      obtain ⟨j, b⟩ := e
      have hij : i = j := by
        rcases Nat.lt_trichotomy i j with hl | he | hl
        · exact absurd ((h i).trans (SMap.get_lt_head d hn hl)) (SMap.get_head_ne d hm)
        · exact he
        · exact absurd ((h j).symm.trans (SMap.get_lt_head d hm hl)) (SMap.get_head_ne d hn)
      subst hij
      have hab : a = b := by simpa [SMap.get] using h i
      have hrt : ∀ k, SMap.get d r k = SMap.get d t k := fun k => by
        by_cases hk : k ≤ i
        · have below {l : SMap α} {x : α} (hl : SMap.wf d ((i, x) :: l) = true) : SMap.get d l k = d :=
            SMap.get_of_forall_lt d fun c hc =>
              Nat.lt_of_le_of_lt hk ((List.pairwise_cons.mp (SMap.pairwise_of_wf d hl)).1 c hc)
          rw [below hm, below hn]
        · have hk := h k
          simp only [SMap.get] at hk
          grind
      rw [hab, ih (SMap.wf_tail d hm) (SMap.wf_tail d hn) hrt]

end

/-! ### Memory -/

theorem memByte_memSet {m : List Host.Cell} (h : Memory.wf m = true) (a b : Nat) (x : Byte) :
    memByte (memSet m a x) b = if b = a then x else memByte m b := SMap.get_set 0 h a b x

/-- A write leaves every byte outside the bytes written. -/
theorem memByte_memWrite_outside {m : List Host.Cell} (h : Memory.wf m = true) {a b : Nat} {l : List Byte}
    (hb : b < a ∨ a + l.length ≤ b) : memByte (memWrite m a l) b = memByte m b := by
  induction l generalizing m a with
  | nil => rfl
  | cons x r ih =>
    rw [List.length_cons] at hb
    rw [memWrite, ih (memSet_wf h a x) (by omega), memByte_memSet h, if_neg (by omega)]

/-- Each byte written reads back. -/
theorem memByte_memWrite_inside {m : List Host.Cell} (h : Memory.wf m = true) (a : Nat) {l : List Byte} {i : Nat}
    (hi : i < l.length) : some (memByte (memWrite m a l) (a + i)) = l[i]? := by
  induction l generalizing m a i with
  | nil => simp at hi
  | cons x r ih =>
    have hw := memSet_wf h a x
    cases i with
    | zero => rw [memWrite, Nat.add_zero, memByte_memWrite_outside hw (by omega), memByte_memSet h]; simp
    | succ i =>
      rw [memWrite, show a + (i + 1) = a + 1 + i by omega, ih hw (a + 1) (by simpa using hi)]
      rfl

theorem memRead_memWrite {m : List Host.Cell} (h : Memory.wf m = true) (a : Nat) (l : List Byte) :
    memRead (memWrite m a l) a l.length = l :=
  read_cells _ l a fun j hj => by
    rw [List.getD_eq_getElem?_getD, ← memByte_memWrite_inside h a hj, Option.getD_some]

/-! ### Numbers as bytes -/

theorem ofBytesLE_bytesLE {n v : Nat} (h : v < 2 ^ (8 * n)) : ofBytesLE (bytesLE n v) = v := by
  induction n generalizing v with
  | zero => simp at h; simp [bytesLE, ofBytesLE, h]
  | succ n ih =>
    have hv : v / 256 < 2 ^ (8 * n) := by
      rw [show 8 * (n + 1) = 8 * n + 8 by omega, Nat.pow_add] at h
      exact Nat.div_lt_of_lt_mul (by omega)
    rw [bytesLE, ofBytesLE, ih hv, BitVec.toNat_ofNat]
    omega

/-! ### The obligation -/

theorem memoryReadsAsItWasWritten : MemoryReadsAsItWasWritten := by
  intro m a n v l h
  refine ⟨memWrite_wf h a l, fun i hi => memByte_memWrite_inside h a hi, fun b hb => memByte_memWrite_outside h hb,
    memRead_memWrite h a l, fun hv => ?_, fun m' h' he => SMap.eq_of_get_eq 0 h h' he⟩
  have hr := memRead_memWrite h a (bytesLE n v)
  rw [bytesLE_length] at hr
  rw [hr, ofBytesLE_bytesLE hv]

theorem registersReadAsTheyWereWritten : RegistersReadAsTheyWereWritten :=
  fun _ k j r h => ⟨SMap.wf_set Reg.zero h k r, SMap.get_set Reg.zero h k j r⟩

/-- Settles O60: sparse maps in canonical form read as they were written, and memory and registers are such maps. -/
theorem memoryAndRegistersReadAsWritten : Obligations.MemoryAndRegistersReadAsWritten :=
  ⟨memoryReadsAsItWasWritten, registersReadAsTheyWereWritten⟩

end Sys2Proof.Machine
end

section
/-! Control registers are read, written and checked as their rules say (R356 to R359, R365). -/

namespace Sys2Proof.Machine

/-! ### CSRR, CSRW and CSRX -/

/-- A control operand of a format that serves has no fault at operand read (R107). -/
theorem check_okCtl_of_holds {x : Issue} {g : Nat} {a : Src} (h : Holds x g .i64 a ∨ Holds x g .raw a) : x.check g okCtl a = [] := by
  have ofTag (r : Reg) (hr : r.tag = .i64 ∨ r.tag = .raw) : r.tag ≠ .poison ∧ okCtl r.tag = true := by
    rcases hr with hr | hr <;> rw [hr] <;> decide
  have ofReg (hr : (x.reg g a).tag = .i64 ∨ (x.reg g a).tag = .raw) :
      (if (x.reg g a).tag = .poison then [⟨0x17, x.poisonEaux g a⟩]
        else if okCtl (x.reg g a).tag then [] else [⟨0x09, tagEaux a (x.reg g a).tag⟩]) = ([] : List FaultAt) := by
    obtain ⟨hp, hc⟩ := ofTag _ hr
    rw [if_neg hp, if_pos hc]
  cases a with
  | zero | imm k => rfl
  | special k => simp [Issue.check, okCtl]
  | v n | s n | tmp n => exact ofReg (h.imp (·.1) (·.1))

/-- CSRW and CSRX that issue with a control value that their register takes write it once for the course. -/
theorem csrRun_complete {s : State} {i : Instr} {csr : BitVec 14} {x : Issue} (h : Issues s i (csrBreach · csr true) x)
    (ha : x.active ≠ []) {a : Src} (hu : UniformCtl x a) {f : Word → Word → Word} {s' : State} {p : Ply}
    (hw : s.csrWrite x.ply csr.toNat (f (s.csr x.ply (x.active.headD 0) csr.toNat) (x.uniform a)) = some (s', p)) (gives : Bool) :
    csrRun s i csr a f gives = .next (x.finishOnce s' p
      (if gives then some ⟨s.csr x.ply (x.active.headD 0) csr.toNat, .i64⟩ else none)) := by
  have ha' : x.active.isEmpty = false := List.isEmpty_eq_false_iff.mpr ha
  have hc : x.checkUniform okCtl a = [] := check_okCtl_of_holds (hu ha)
  unfold csrRun
  rw [runIssue_of_issues h]
  simp only [ha', hw, hc, Bool.false_and, Bool.false_eq_true, if_false, Option.isNone_some, List.append_nil, lowestFault_nil]

/-- The same, in the terms of the statement. -/
theorem completes_csrRun {i : Instr} {csr : BitVec 14} {a : Src} {f : Word → Word → Word} {gives : Bool}
    (hi : exec i = fun s => csrRun s i csr a f gives) :
    Completes i (csrBreach · csr true)
      (fun s x => x.active ≠ [] ∧ UniformCtl x a
        ∧ (s.csrWrite x.ply csr.toNat (f (s.csr x.ply (x.active.headD 0) csr.toNat) (x.uniform a))).isSome = true)
      (fun s x t => ∃ s' p,
        s.csrWrite x.ply csr.toNat (f (s.csr x.ply (x.active.headD 0) csr.toNat) (x.uniform a)) = some (s', p)
        ∧ t = x.finishOnce s' p (if gives then some ⟨s.csr x.ply (x.active.headD 0) csr.toNat, .i64⟩ else none)) := by
  rintro s x hx ⟨ha, hu, hw⟩
  obtain ⟨⟨s', p⟩, hw⟩ := Option.isSome_iff_exists.mp hw
  exact ⟨_, (congrFun hi s).trans (csrRun_complete hx ha hu hw gives), s', p, hw, rfl⟩

theorem exec_csrw (h : Head) (a : Src) (csr : BitVec 14) :
    exec (.csrw h a csr) = fun s => csrRun s (.csrw h a csr) csr a (fun _ v => v) false := by
  funext s
  dsimp only [exec, execCsrw]

theorem exec_csrx (h : Head) (d : Dst) (a : Src) (csr : BitVec 14) (op : BitVec 2) {f : Word → Word → Word}
    (hf : csrxValue op = f) : exec (.csrx h d a csr op) = fun s => csrRun s (.csrx h d a csr op) csr a f true := by
  subst hf
  funext s
  dsimp only [exec, execCsrx]

/-- CSRR that issues completes with the value of the register, that of the lowest active fibre where it names no v register. -/
theorem csrr_complete {s : State} {h : Head} {d : Dst} {csr : BitVec 14} {x : Issue} {who : Nat → Nat}
    (hx : Issues s (.csrr h d csr) (csrBreach · csr false) x)
    (hd : (∃ n, d = .v n ∧ who = id) ∨ (∀ n, d ≠ .v n) ∧ who = fun _ => x.active.headD 0) :
    exec (.csrr h d csr) s = .next (x.complete s fun g => { d := some ⟨s.csr x.ply (who g) csr.toNat, .i64⟩ }) := by
  show execCsrr h d csr s = _
  unfold execCsrr
  rw [runIssue_of_issues hx]
  rcases hd with ⟨n, rfl, rfl⟩ | ⟨hd, rfl⟩
  · rfl
  · cases d with
    | v n => exact absurd rfl (hd n)
    | _ => rfl

theorem controlRegistersReadAndWrite : ControlRegistersReadAndWrite := by
  intro h d a csr op n
  have set : csrxValue 0 = fun _ v => v := rfl
  have or : csrxValue 1 = fun o v => o ||| v := rfl
  have clear : csrxValue 2 = fun o v => o &&& ~~~ v := rfl
  refine ⟨fun s x hx => csrr_complete hx (.inl ⟨n, rfl, rfl⟩), fun s x hx hd => csrr_complete hx (.inr ⟨hd, rfl⟩),
    completes_csrRun (f := fun _ v => v) (gives := false) (exec_csrw h a csr), fun hop => ?_, fun hop => ?_, fun hop => ?_⟩
  · exact completes_csrRun (f := fun _ v => v) (gives := true) (exec_csrx h d a csr op (hop ▸ set))
  · exact completes_csrRun (f := fun o v => o ||| v) (gives := true) (exec_csrx h d a csr op (hop ▸ or))
  · exact completes_csrRun (f := fun o v => o &&& ~~~ v) (gives := true) (exec_csrx h d a csr op (hop ▸ clear))

/-! ### Rights, values and checks -/

/-- R356: the user's column of the table, on either kind of core. -/
theorem csrRights_user (hub : Bool) (n : Nat) : csrRights hub 0 n = (decide (n < 13), decide (n = 4 ∨ n = 5)) := by
  unfold csrRights
  split
  · rw [Prod.mk.injEq]; constructor <;> simp <;> omega
  · split
    · rw [Prod.mk.injEq]; constructor <;> simp <;> omega
    · repeat' split
      all_goals (rw [Prod.mk.injEq]; constructor <;> simp <;> omega)

/-- R356: the columns of the supervisor and the monitor. -/
theorem csrRights_hub (n level : Nat) (h1 : 1 ≤ level) (h2 : level ≤ 2) : csrRights true level n =
    (decide (n < 13), decide (n < 13 ∧ n ≠ 6 ∧ (n = 9 ∨ n = 10 → level = 2))) := by
  obtain rfl | rfl : level = 1 ∨ level = 2 := by omega
  all_goals
    unfold csrRights
    repeat' split
    all_goals (rw [Prod.mk.injEq]; constructor <;> simp <;> omega)

/-- The fields of slice_ctl, read (R358). -/
theorem sliceCtl_eq {s : State} {p : Ply} {q : Partition} (hq : s.partition (p.core / 1024) (s.contextPart p) = some q)
    (hl : Nat.max q.slice (2 * q.times.foldl Nat.max 0) < 2 ^ 20) :
    s.sliceCtl p = Nat.max q.slice (2 * q.times.foldl Nat.max 0) + 2 ^ 20 * s.contextPart p
      + if q.slice < 2 * q.times.foldl Nat.max 0 then 2 ^ 29 else 0 := by
  simp only [State.sliceCtl, State.slices, hq, Nat.mod_eq_of_lt hl, b2n, decide_eq_true_eq]
  split <;> omega

/-- R357, R105: the rounding modes that ply_ctl takes. -/
theorem writePlyCtl_eq (v : Word) : writePlyCtl v =
    if 1 ≤ (v.extractLsb' 2 3).toNat ∧ (v.extractLsb' 2 3).toNat ≤ 5 then some (v &&& 0x7FF) else none := by
  simp only [writePlyCtl]
  split
  · rw [if_neg (by omega)]
  · rw [if_pos (by omega)]

/-- R358: the values that slice_ctl takes. -/
theorem writeSlice_eq (v : Word) : writeSlice v =
    if v.toNat / 2 ^ 30 = 0 ∧ 1000 ≤ v.toNat % 2 ^ 20 ∧ v.toNat % 2 ^ 20 ≤ 1000000 ∧ v.toNat / 2 ^ 20 % 2 ^ 8 ≤ 5 then
      some (v.toNat / 2 ^ 20 % 2 ^ 8, v.toNat % 2 ^ 20)
    else none := by
  have hv := v.isLt
  have hb : v.toNat / 2 ^ 30 % 2 ^ 34 = v.toNat / 2 ^ 30 := Nat.mod_eq_of_lt (by omega)
  simp only [writeSlice, bitsOf, hb, Nat.pow_zero, Nat.div_one]
  by_cases h : v.toNat / 2 ^ 30 = 0 ∧ 1000 ≤ v.toNat % 2 ^ 20 ∧ v.toNat % 2 ^ 20 ≤ 1000000 ∧ v.toNat / 2 ^ 20 % 2 ^ 8 ≤ 5
  · rw [if_pos h, if_neg (by omega)]
  · rw [if_neg h, if_pos (by omega)]

theorem setSlice_partitions (s : State) (pkg part n : Nat) : (s.setSlice pkg part n).partitions =
    s.partitions.map fun q => if q.id = pkg * 8 + part then { q with slice := n } else q := by
  simp [State.setSlice, updateWhere]

/-- On a compute core the registers that have a bank on a hub core are the ply's own (R359). -/
theorem csr_of_compute {s : State} {p : Ply} (f : Nat) (h : p.hub = none) :
    s.csr p f 0 = BitVec.ofNat 64 ((if p.h then 1 else 0) + if p.fs then 2 ^ 5 else 0)
      ∧ s.csr p f 1 = p.cause ∧ s.csr p f 2 = p.epc ∧ s.csr p f 3 = (p.fibre f).eaux ∧ s.csr p f 4 = p.tvec := by
  simp only [State.csr, h, b2n]
  refine ⟨congrArg (BitVec.ofNat 64) ?_, trivial, trivial, trivial, trivial⟩
  cases p.h <;> cases p.fs <;> rfl

/-- The registers without a bank read alike on every core. -/
theorem csr_plain (s : State) (p : Ply) (f : Nat) {n : Nat} (h : 4 < n) : s.csr p f n = s.csrPlain p n := by
  obtain ⟨n, rfl⟩ : ∃ k, n = k + 5 := ⟨n - 5, by omega⟩
  unfold State.csr
  cases p.hub <;> rfl

/-- A write of tvec on a compute core (R357). -/
theorem csrWrite_tvec_of_compute {s : State} {p : Ply} (v : Word) (h : p.hub = none) :
    s.csrWrite p 4 v = if v.extractLsb' 0 3 = 0 then some (s, { p with tvec := v }) else none := by
  by_cases hv : v.extractLsb' 0 3 = 0
  · simp [State.csrWrite, writeTvec, Ply.isHub, h, hv]
  · simp only [State.csrWrite, writeTvec, if_neg hv]

/-- A write of slice_ctl that its rules allow sets the slice of one partition; they reject every other (R358). -/
theorem csrWrite_slice (s : State) (p : Ply) (v : Word) :
    let slice := v.toNat % 2 ^ 20
    let part := v.toNat / 2 ^ 20 % 2 ^ 8
    let ok := v.toNat / 2 ^ 30 = 0 ∧ 1000 ≤ slice ∧ slice ≤ 1000000 ∧ part ≤ 5
    (ok → ∃ t, s.csrWrite p 11 v = some (t, p)
      ∧ t.partitions = s.partitions.map fun q => if q.id = p.core / 1024 * 8 + part then { q with slice } else q)
    ∧ (¬ ok → s.csrWrite p 11 v = none) := by
  have h : s.csrWrite p 11 v = (writeSlice v).map fun (part, n) => (s.setSlice (p.core / 1024) part n, p) := rfl
  rw [h, writeSlice_eq]
  constructor
  · intro ok
    rw [if_pos ok]
    exact ⟨_, rfl, setSlice_partitions ..⟩
  · intro ok
    rw [if_neg ok]
    rfl

/-- The registers that have a bank on a hub core, read and written there (R357). -/
theorem csr_of_hub {s : State} {p : Ply} (f : Nat) (v : Word) {h : Hub} (hh : p.hub = some h) :
    let b := h.bank h.level
    let put (b' : Bank) : Option (State × Ply) := some (s, { p with hub := some (h.setBank h.level b') })
    (s.csr p f 0 = (b.status &&& 0x38) ||| BitVec.ofNat 64 (2 * h.level) ∧ s.csr p f 1 = b.cause ∧ s.csr p f 2 = b.epc
      ∧ s.csr p f 3 = b.eaux ∧ s.csr p f 4 = b.tvec)
    ∧ (s.csrWrite p 0 v = if v.extractLsb' 3 2 = 3 then none else put { b with status := v &&& 0x38 })
    ∧ s.csrWrite p 1 v = put { b with cause := v &&& 0xFF } ∧ s.csrWrite p 2 v = put { b with epc := v }
    ∧ s.csrWrite p 3 v = put { b with eaux := v }
    ∧ s.csrWrite p 4 v = if v.extractLsb' 0 3 = 0 then put { b with tvec := v } else none := by
  simp only [State.csr, State.csrWrite, writeStatus, writeTvec, Ply.isHub, hh]
  refine ⟨⟨trivial, trivial, trivial, trivial, trivial⟩, ?_, rfl, rfl, rfl, ?_⟩
  · split <;> rfl
  · by_cases hv : v.extractLsb' 0 3 = 0
    · simp [hv]
    · simp only [if_neg hv]

theorem controlRegisterWritesAreChecked : ControlRegisterWritesAreChecked := by
  intro s p f v
  refine ⟨csrRights_user false, csrRights_user true, csrRights_hub, ?plain, ?chart, ?slice, csr_of_compute f, ?plyCtl,
    csrWrite_tvec_of_compute v, rfl, rfl, rfl, rfl, rfl, rfl, csrWrite_slice s p v, fun h => csr_of_hub f v⟩
  case plain =>
    intro n hn
    simp only [List.mem_cons, List.not_mem_nil, or_false] at hn
    rcases hn with rfl | rfl | rfl | rfl | rfl | rfl <;> exact csr_plain s p f (by decide)
  case chart =>
    rw [csr_plain s p f (by decide)]
    cases hh : p.hub <;> simp [State.csrPlain, Ply.isHub, hh, Nat.mul_comm]
  case slice =>
    rintro part q rfl hq - least hl
    rw [csr_plain s p f (by decide), ← sliceCtl_eq hq hl]
    rfl
  case plyCtl =>
    have h : s.csrWrite p 5 v = (writePlyCtl v).map fun w => (s, { p with plyCtl := w }) := rfl
    rw [h, writePlyCtl_eq]
    split <;> rfl

/-! ### The writes as events -/

/-- An event that writes a control register executes the CSRW of a constant at which the course stands, where that names the
register and holds the value, and leaves the state otherwise. -/
theorem csrTurn_of_csrw {s : State} {h cid : Nat} {p : Ply} {c : Course} {hd : Head} {k : BitVec 7} {csr : BitVec 14} {len : Nat}
    (hp : s.ply h = some p) (hc : p.course cid = some c) (hm : s.mayIssue p c = true) (hch : c.chain = [])
    (hr : s.packedRun p cid = none) (hd' : hd.ch = false) (hl : s.look p c.run.pc = .found (.csrw hd (.imm k) csr) len)
    (regs : Nat → Bool) (v : Word) :
    s.csrTurn h cid regs v =
      if regs csr.toNat = true ∧ k.signExtend 64 = v then exec (.csrw hd (.imm k) csr) (s.ready p c (.csrw hd (.imm k) csr) len)
      else .next s := by
  show _ = if _ then execCsrw _ _ _ _ else _
  simp only [State.csrTurn, hp, hc, hm, hch, hr, hl, hd', Bool.not_true, List.isEmpty_nil, Option.isSome_none, Bool.or_false,
    Bool.false_eq_true, if_false, Bool.not_false, Bool.true_and, Bool.and_eq_true, beq_iff_eq]

theorem controlWriteEventsExecuteTheWrite : ControlWriteEventsExecuteTheWrite := by
  intro s h cid p c hd k csr len hp hc hm hch hr hd' hl
  have turn := csrTurn_of_csrw hp hc hm hch hr hd' hl
  have plyCtl (v : Word) : exec (.plyCtlWrite h cid v) s = s.csrTurn h cid (· == 5) v := rfl
  have tvec (v : Word) : exec (.tvecWrite h cid v) s = s.csrTurn h cid (· == 4) v := rfl
  have sliceCtl (v : Word) : exec (.sliceCtlWrite (.ply h) cid v) s = s.csrTurn h cid (· == 11) v := rfl
  have other (n : Nat) (v : Word) : exec (.controlRegisterWrite h cid n v) s =
      s.csrTurn h cid (fun m => m == n && m != 4 && m != 5 && m != 11) v := rfl
  have ne {n : BitVec 14} (hn : csr ≠ n) : csr.toNat ≠ n.toNat := fun e => hn (BitVec.eq_of_toNat_eq e)
  refine ⟨fun e => ?_, fun e => ?_, fun e => ?_, fun h4 h5 h11 => ?_, fun w hw => ?_⟩
  · rw [plyCtl, turn, if_pos ⟨by simp [e], rfl⟩]
  · rw [tvec, turn, if_pos ⟨by simp [e], rfl⟩]
  · rw [sliceCtl, turn, if_pos ⟨by simp [e], rfl⟩]
  · rw [other, turn, if_pos ⟨by simpa using ⟨⟨ne h4, ne h5⟩, ne h11⟩, rfl⟩]
  · rw [other, turn, if_neg fun e => hw e.2.symm]

/-- Settles O23: CSRR, CSRW and CSRX by the completion of their issue, the rights and the values register by register, and the
events as the execution of the write at which the course stands. -/
theorem controlRegistersReadWriteAndCheck : Obligations.ControlRegistersReadWriteAndCheck :=
  ⟨controlRegistersReadAndWrite, controlRegisterWritesAreChecked, controlWriteEventsExecuteTheWrite⟩

end Sys2Proof.Machine
end

section
/-! The faults of words, operands and binds (R10, R49, R107 to R109, R424). -/

namespace Sys2Proof.Machine

/-- The return of fibre 0 to the address in its v1; the guard, predicate 1, is false in fibre 1. -/
def guardedReturn : Instr := .bindRet ⟨false, 0, 1⟩ (.v 1) 0

/-- Fibres 0 and 1 in course 2, where the next number for a course is 2 as well; v1 of fibre 0 has the tag F32. -/
def numberTaken : State :=
  { onPly fun p => { p with
      courses := [Course.fresh 2 0 [0, 1] placeVa]
      fibres := [{ Fibre.dormant with live := true, pred := 3, v := [(1, ⟨0, .f32⟩)] }, { Fibre.dormant with live := true }] }
    with nextId := 2 }

/-- Fibre 0 reads its v1 as a target and finds the tag F32; everything else that the statement asks holds. -/
theorem guardedReturn_misreads : Misreads numberTaken guardedReturn fun x =>
    operands guardedReturn x 0 = [] ++ ⟨false, .v 1, asControl⟩ :: [] ∧ Operand.Rejected ⟨false, .v 1, asControl⟩ x 0 := by
  refine misreads _ _ _ ⟨by decide +kernel, nofun, nofun⟩ (by decide +kernel) (by decide +kernel) (by decide +kernel)
    ⟨rfl, .inl rfl, by decide +kernel⟩ fun ⟨hb, hf, hl, hw, hs, ha, _⟩ => ⟨hb, hf, hl, hw, hs, nofun, ?_⟩
  show ∀ f ∈ (ownBeats guardedReturn numberTaken (issueOf numberTaken guardedReturn)).active,
    ((ownBeats guardedReturn numberTaken (issueOf numberTaken guardedReturn)).reg f (.v 1)).val.toNat % 8 = 0
  decide +kernel

/-- The return of fibre 1 takes the number of the course in which fibre 0 has been parked: fibre 0 stands in no course. -/
theorem guardedReturn_losesFibre : ∀ t, exec guardedReturn numberTaken = .next t →
    ∀ q, t.ply 1 = some q → ∀ k ∈ q.courses, 0 ∉ k.fibres := by
  have h : (match exec guardedReturn numberTaken with
    | .next t => (t.ply 1).all fun q => q.courses.all fun k => !k.fibres.contains 0
    | _ => false) = true := by decide +kernel
  intro t ht q hq k hk
  rw [ht] at h
  simp only [hq, Option.all_some, List.all_eq_true, Bool.not_eq_true', List.contains_eq_mem, decide_eq_false_iff_not] at h
  exact h k hk

theorem not_operandFaultsParkTheFibre : ¬ OperandFaultsParkTheFibre := by
  intro h
  obtain ⟨hi, hx, hr, ha, ho, hbad⟩ := guardedReturn_misreads
  obtain ⟨t, ht, q, hq, hfault, -⟩ := (h _ _ _ 0 [] [] _ hi hx hr (by rw [ha]; decide) ho nofun).1 hbad nofun
  obtain ⟨⟨k, hk, h0, -⟩, -⟩ := hfault (by decide +kernel) 0 (by decide)
  exact guardedReturn_losesFibre t ht q hq k hk h0

/-- Refutes O17: an operand fault at a BIND_RET parks fibre 0 in a new course, and the course in which fibre 1 goes on takes the
same number when that is the issuing course's own, so that fibre 0 stands in no course. -/
theorem not_faultsParkAtTheirWord : ¬ Obligations.FaultsParkAtTheirWord := by
  rintro ⟨-, -, h⟩
  exact not_operandFaultsParkTheFibre h

end Sys2Proof.Machine
end

section
/-! Every step answers a next state (R10, R49, R69, R425): an issue answers one wherever a course stands at it, an event in every
state, and a turn makes its courses stand at what they issue. -/

namespace Sys2Proof.Machine

/-- The answer is a next state. -/
def Answers (o : Host.Outcome State Fault Refusal) : Prop := ∃ t, o = .next t

theorem answers_next (s : State) : Answers (.next s) := ⟨s, rfl⟩

/-! ### A course that stands at its issue -/

/-- The course that is to issue is one of the state's. -/
def State.Stands (s : State) : Prop :=
  ∃ cur p c, s.cur = some cur ∧ s.ply cur.ply = some p ∧ p.course cur.course = some c

theorem State.Stands.issue {s : State} (h : s.Stands) (i : Instr) : ∃ x, s.issue i = some x := by
  obtain ⟨cur, p, c, hcur, hp, hc⟩ := h
  unfold State.issue
  rw [hcur]
  dsimp only [Option.bind_eq_bind, Option.bind_some]
  rw [hp]
  dsimp only [Option.bind_some]
  rw [hc]
  exact ⟨_, rfl⟩

/-- What `find?` finds by a number is still found after it has been replaced by one of the same number. -/
theorem find?_updateWhere {α : Type} {key : α → Nat} {l : List α} {n : Nat} {a b : α} (h : l.find? (key · == n) = some a)
    (hb : key b = key a) : (updateWhere (key · == key b) (fun _ => b) l).find? (key · == n) = some b := by
  have ha : key a = n := by simpa using List.find?_some h
  induction l with
  | nil => cases h
  | cons x l ih =>
    by_cases hx : key x = n
    · simp [updateWhere, hb, ha, hx]
    · have hl : l.find? (key · == n) = some a := by simpa [hx] using h
      simpa [updateWhere, hb, ha, hx] using ih hl

theorem State.ply_handle {s : State} {h : Nat} {p : Ply} (hp : s.ply h = some p) : p.handle = h := by
  simpa using List.find?_some hp

theorem Ply.course_id {p : Ply} {n : Nat} {c : Course} (hc : p.course n = some c) : c.id = n := by
  simpa using List.find?_some hc

theorem State.noteIssue_plies (s : State) (p : Ply) (pc len : Nat) (i : Instr) : (s.noteIssue p pc len i).plies = s.plies := by
  unfold State.noteIssue
  split
  · rfl
  · dsimp only
    repeat' split
    all_goals rfl

theorem State.tlbFill_plies (s : State) (core asid : Nat) (t : Trans) : (s.tlbFill core asid t).plies = s.plies := by
  unfold State.tlbFill
  dsimp only
  split <;> rfl

theorem State.fillFetch_plies (s : State) (p : Ply) (pc : Nat) : (s.fillFetch p pc).plies = s.plies := by
  unfold State.fillFetch
  split
  · exact State.tlbFill_plies ..
  · rfl

theorem Ply.course_putCourse {p : Ply} {c k : Course} (hc : p.course k.id = some c) : (p.putCourse k).course k.id = some k :=
  find?_updateWhere hc (Ply.course_id hc).symm

theorem State.ply_putPly {s : State} {p q : Ply} (hp : s.ply q.handle = some p) : (s.putPly q).ply q.handle = some q :=
  find?_updateWhere hp (State.ply_handle hp).symm

/-- A course stands at what its turn makes it issue. -/
theorem State.ready_stands {s : State} {h cid : Nat} {p : Ply} {c : Course} (hp : s.ply h = some p) (hc : p.course cid = some c)
    (i : Instr) (len : Nat) (t : Option Nat) (mates : List (Nat × Nat)) : (s.ready p c i len t mates).Stands := by
  obtain rfl := State.ply_handle hp
  obtain rfl := Ply.course_id hc
  have hp' : ((s.noteIssue p c.run.pc len i).fillFetch p c.run.pc).ply p.handle = some p := by
    rw [State.ply, State.fillFetch_plies, State.noteIssue_plies]
    exact hp
  exact ⟨⟨p.handle, c.id, c.run.pc, len, mates, t⟩, _, _, rfl, State.ply_putPly (q := p.putCourse _) hp',
    Ply.course_putCourse hc⟩

/-! ### Instruction words -/

section
variable {s : State} (hs : s.Stands) (i : Instr)
include hs

theorem runIssueAs_answers (adjust : Issue → Issue) (extra : Issue → List FaultAt) (act : Issue → List FaultAt → State) :
    Answers (runIssueAs s i adjust extra act) := by
  obtain ⟨x, hx⟩ := hs.issue i
  exact runIssueAs_next (congrArg (Option.map adjust) hx) extra act

theorem runIssue_answers (extra : Issue → List FaultAt) (act : Issue → List FaultAt → State) :
    Answers (runIssue s i extra act) :=
  runIssueAs_answers hs i id extra act

theorem runLane_answers (f : Issue → List FaultAt → Nat → Except FaultAt LaneOut) : Answers (runLane s i f) :=
  runIssue_answers hs ..

theorem runOnce_answers (extra chk : Issue → List FaultAt) (act : Issue → Ply → Ply × Option Reg) :
    Answers (runOnce s i extra chk act) :=
  runIssue_answers hs i _ _

theorem runPlace_answers (f : Issue → Nat → Except FaultAt Reg) : Answers (runPlace s i f) := by
  unfold runPlace
  split
  · exact runOnce_answers hs ..
  · exact runLane_answers hs ..

theorem intLane_answers (fn fmt ui a b c) : Answers (intLane s i fn fmt ui a b c) := runLane_answers hs ..

theorem intBase_answers (fn ui a b) : Answers (intBase s i fn ui a b) := runLane_answers hs ..

theorem divLane_answers (rem fmt ui a b) : Answers (divLane s i rem fmt ui a b) := runLane_answers hs ..

theorem bitLane_answers (fn fmt a b) : Answers (bitLane s i fn fmt a b) := runLane_answers hs ..

theorem bitBase_answers (fn a b) : Answers (bitBase s i fn a b) := runLane_answers hs ..

theorem shiftLane_answers (fn fmt a b) : Answers (shiftLane s i fn fmt a b) := runLane_answers hs ..

theorem shiftBase_answers (fn a b) : Answers (shiftBase s i fn a b) := runLane_answers hs ..

theorem countLane_answers (fmt a count) : Answers (countLane s i fmt a count) := runLane_answers hs ..

theorem predLane_answers (pa pb na nb f) : Answers (predLane s i pa pb na nb f) := runLane_answers hs ..

theorem floatLane_answers (fn fmt own a b c) : Answers (floatLane s i fn fmt own a b c) := runLane_answers hs ..

theorem floatBase_answers (fn a b) : Answers (floatBase s i fn a b) := runLane_answers hs ..

theorem minmaxLane_answers (lesser fmt a b) : Answers (minmaxLane s i lesser fmt a b) := runLane_answers hs ..

theorem minmaxBase_answers (lesser a b) : Answers (minmaxBase s i lesser a b) := runLane_answers hs ..

theorem specLane_answers (fn fmt a) : Answers (specLane s i fn fmt a) := runLane_answers hs ..

theorem modLane_answers (fn fmt qm srcs) : Answers (modLane s i fn fmt qm srcs) := runLane_answers hs ..

theorem modBase_answers (fn a b) : Answers (modBase s i fn a b) := runLane_answers hs ..

theorem butterflyLane_answers (inverse fmt qm srcs) : Answers (butterflyLane s i inverse fmt qm srcs) := runLane_answers hs ..

theorem runPermute_answers (chk f) : Answers (runPermute s i chk f) := runIssue_answers hs ..

theorem csrRun_answers (csr a f gives) : Answers (csrRun s i csr a f gives) := runIssue_answers hs ..

theorem memRun_answers (g) : Answers (memRun s i g) := runIssue_answers hs ..

theorem matrixRun_answers (d a b keep mode) : Answers (matrixRun s i d a b keep mode) := runIssue_answers hs ..

theorem allocRun_answers (dests body) : Answers (allocRun s i dests body) := runIssue_answers hs ..

theorem blockRun_answers (d extra operands access dests act body) :
    Answers (blockRun s i d extra operands access dests act body) :=
  runIssue_answers hs ..

theorem tagRun_answers (region srcs act off) : Answers (tagRun s i region srcs act off) := runIssue_answers hs ..

theorem ringRun_answers (isTake a d pn) : Answers (ringRun s i isTake a d pn) := runIssue_answers hs ..

theorem slotRun_answers (a b move) : Answers (slotRun s i a b move) := runIssue_answers hs ..

theorem barRun_answers (a b needInit act) : Answers (barRun s i a b needInit act) := runIssue_answers hs ..

theorem engineRun_answers (operands access body) : Answers (engineRun s i operands access body) := runIssue_answers hs ..

theorem monitorRun_answers (d srcs) : Answers (monitorRun s i d srcs) := runIssue_answers hs ..

theorem scratchRun_answers (ad act) : Answers (scratchRun s i ad act) := runIssueAs_answers hs ..

theorem ldsRun_answers (ad fmt) : Answers (ldsRun s i ad fmt) := scratchRun_answers hs ..

theorem stsRun_answers (d ad) : Answers (stsRun s i d ad) := scratchRun_answers hs ..

theorem feRun_answers (ad store body) : Answers (feRun s i ad store body) := scratchRun_answers hs ..

end

/-- PFX joins the run state of the course, or is an orphan (R25 to R28). -/
theorem execPfx_answers {s : State} (hs : s.Stands) (rnd : Rnd) (sat : BitVec 2) (ftz nox : Bool) (go : BitVec 5) (gv : Bool) :
    Answers (execPfx rnd sat ftz nox go gv s) := by
  obtain ⟨cur, p, c, hcur, hp, hc⟩ := hs
  unfold execPfx
  simp only [hcur, hp, hc]
  split <;> exact answers_next _

/-- Every word but a chart word answers a next state where a course stands at it. -/
theorem exec_word_answers {s : State} (hs : s.Stands) (i : Instr) (hw : encode i ≠ [])
    (hchart : ∀ ch st ix f, i ≠ .chartWord ch st ix f) : Answers (exec i s) := by
  unfold exec
  cases i with
  | pfx => exact execPfx_answers hs ..
  | chartWord ch st ix f => exact absurd rfl (hchart ch st ix f)
  | nop | movsBase | chartrd | phase | movs => exact runOnce_answers hs ..
  | taggetBase | tagsetBase | tagset | tagget => exact runPlace_answers hs ..
  | movBase | elect | vote | mov | movi | cmp | sel | addi | pget | pset | fabs | fneg | fcmp | fdot | cvt | pack | unpack
  | shfl | bcast | lreduce | lscan | swiz | qred | tlook =>
    exact runLane_answers hs ..
  | add | sub | mul | mulhi | mad | min | max | abs | neg => exact intLane_answers hs ..
  | addBase | subBase | mulBase | mulhiIBase | mulhiUiBase | minIBase | minUiBase | maxIBase | maxUiBase =>
    exact intBase_answers hs ..
  | div | rem => exact divLane_answers hs ..
  | and | or | xor | andn | not => exact bitLane_answers hs ..
  | andBase | orBase | xorBase => exact bitBase_answers hs ..
  | shl | shr | sar | rot => exact shiftLane_answers hs ..
  | shlBase | shrBase | sarBase | rotBase => exact shiftBase_answers hs ..
  | clz | popc => exact countLane_answers hs ..
  | pand | por | pxor | pnot => exact predLane_answers hs ..
  | fadd | fsub | fmul | fma | fdiv | fsqrt => exact floatLane_answers hs ..
  | faddBase | fsubBase | fmulBase => exact floatBase_answers hs ..
  | fmin | fmax => exact minmaxLane_answers hs ..
  | fminBase | fmaxBase => exact minmaxBase_answers hs ..
  | rcp | rsqrt | exp2 | log2 | sin | cos | tanh => exact specLane_answers hs ..
  | qadd | qsub | qmul | qmac => exact modLane_answers hs ..
  | qaddBase | qsubBase | qmulBase => exact modBase_answers hs ..
  | qbfly | qibfly => exact butterflyLane_answers hs ..
  | hperm | hauto => exact runPermute_answers hs ..
  | csrw | csrx => exact csrRun_answers hs ..
  | ldBase | stBase | ld | st | atom | redms | waitv | wakev => exact memRun_answers hs ..
  | mma | mmai | mmag | mmac => exact matrixRun_answers hs ..
  | accalloc | acctry => exact allocRun_answers hs ..
  | accfree | acczero | accld | accst | mread => exact blockRun_answers hs ..
  | tset | tinv => exact tagRun_answers hs ..
  | racq | rtake => exact ringRun_answers hs ..
  | rpub | rrel => exact slotRun_answers hs ..
  | barinit | bararr | barwait => exact barRun_answers hs ..
  | copy | copyl | cmap => exact engineRun_answers hs ..
  | ecreate | eadd | eaddDev | einit | eseal | eunseal | ereport | edestroy => exact monitorRun_answers hs ..
  | ldsBase | lds => exact ldsRun_answers hs ..
  | stsBase | sts => exact stsRun_answers hs ..
  | ldsfe | stsfe => exact feRun_answers hs ..
  | sfe => exact scratchRun_answers hs ..
  | bind | ifence | rcv | fend | yield | exit | chartld | bindBr | bindBc | bindCall | bindRet | bindJmp | fork | sysc | trap
  | eret | csrr | halt | wfi | tagsetFl | taggetFl | qset | pref | fence | waitf | stgpost | stgadv | npost | ncqw | launch
  | rngset | atinv | pgq | eenter | eexit =>
    exact runIssue_answers hs ..
  | _ => exact absurd rfl hw

/-! ### Events -/

/-- The transfer of a block between accumulators and memory completes, waits or leaves the state. -/
theorem execAccTransferComplete_answers (pair op : Nat) (s : State) : Answers (execAccTransferComplete pair op s) := by
  unfold execAccTransferComplete
  split
  · split
    · split
      · split
        · exact answers_next _
        · split
          · exact answers_next _
          · split <;> exact answers_next _
      · split
        · exact answers_next _
        · split
          · exact answers_next _
          · split <;> exact answers_next _
      · exact answers_next _
    · exact answers_next _
  · exact answers_next _

theorem execPromotion1gib_answers (die asid ia : Nat) (s : State) : Answers (execPromotion1gib die asid ia s) := by
  unfold execPromotion1gib
  split
  · dsimp only
    split
    · split
      · exact answers_next _
      · split <;> exact answers_next _
    · exact answers_next _
  · exact answers_next _

/-- The write of a control register as an event is the execution of a write at which a course stands, or nothing. -/
theorem State.csrTurn_answers (s : State) (h cid : Nat) (regs : Nat → Bool) (v : Word) : Answers (s.csrTurn h cid regs v) := by
  fun_cases State.csrTurn s h cid regs v
  case case4 => exact csrRun_answers (State.ready_stands ‹s.ply h = some _› ‹Ply.course _ cid = some _› ..) ..
  case case6 => exact csrRun_answers (State.ready_stands ‹s.ply h = some _› ‹Ply.course _ cid = some _› ..) ..
  all_goals exact answers_next _

theorem execSliceCtlWrite_answers (w : SliceWriter) (course : Nat) (val : BitVec 64) (s : State) :
    Answers (execSliceCtlWrite w course val s) := by
  unfold execSliceCtlWrite
  cases w with
  | ply h => exact State.csrTurn_answers ..
  | admin pkg => exact answers_next _

/-- Every event answers a next state in every state: each branch of its definition ends in one. -/
theorem exec_event_answers (i : Instr) (he : encode i = []) (s : State) : Answers (exec i s) := by
  unfold exec
  cases i with
  | starvationPromote | memorySideAtomic | memorySideReduce | pairReset | ringAcquireServe | ringTakeServe | qbaseWrite
  | qcfgWrite | peerLoss | fabricRead | fabricWrite | fabricAtomic | fabricArithmetic | fabricWake | fabricReadResponse
  | fabricWriteAck | fabricAtomicResponse | fabricArithmeticAck | fabricWaitResponse | partitionCreate | partitionGrow
  | partitionDestroy | budgetSet | trapRingRegister | levelCeilingSet | jobIdSet | packageReset | getDigests | getCertificate
  | challenge | getMeasurements | keyExchange | finish | heartbeat | keyUpdate | endSession | pcieEgress | retiredUnit
  | runSlotFill | kick | portMtuSet | firmwareUpdate | featuresOk | budgetPeriod | scrub | pcieIngressWrite | getVersion =>
    exact answers_next _
  | plyCtlWrite | tvecWrite | controlRegisterWrite => exact State.csrTurn_answers ..
  | sliceCtlWrite => exact execSliceCtlWrite_answers ..
  | chartldCommit => dsimp only; fun_cases execChartldCommit <;> exact answers_next _
  | waitSetLateSplit => dsimp only; fun_cases execWaitSetLateSplit <;> exact answers_next _
  | handlerTake => dsimp only; fun_cases execHandlerTake <;> exact answers_next _
  | trapRecordWrite => dsimp only; fun_cases execTrapRecordWrite <;> exact answers_next _
  | trapResponse => dsimp only; fun_cases execTrapResponse <;> exact answers_next _
  | sliceExpiry => dsimp only; fun_cases execSliceExpiry <;> exact answers_next _
  | plySave => dsimp only; fun_cases execPlySave <;> exact answers_next _
  | forcedFullSave => dsimp only; fun_cases execForcedFullSave <;> exact answers_next _
  | skeinSave => dsimp only; fun_cases execSkeinSave <;> exact answers_next _
  | plyRestore => dsimp only; fun_cases execPlyRestore <;> exact answers_next _
  | skeinRestore => dsimp only; fun_cases execSkeinRestore <;> exact answers_next _
  | memoryReply => dsimp only; fun_cases execMemoryReply <;> exact answers_next _
  | waitvTimeout => dsimp only; fun_cases execWaitvTimeout <;> exact answers_next _
  | ncqwTimeout => dsimp only; fun_cases execNcqwTimeout <;> exact answers_next _
  | wfiTimeout => dsimp only; fun_cases execWfiTimeout <;> exact answers_next _
  | hubCoreStart => dsimp only; fun_cases execHubCoreStart <;> exact answers_next _
  | pairOpBegin => dsimp only; fun_cases execPairOpBegin <;> exact answers_next _
  | pairOpRetire => dsimp only; fun_cases execPairOpRetire <;> exact answers_next _
  | accallocSettle => dsimp only; fun_cases execAccallocSettle <;> exact answers_next _
  | accTransferComplete => exact execAccTransferComplete_answers ..
  | pairOpTimeout => dsimp only; fun_cases execPairOpTimeout <;> exact answers_next _
  | pairResetComplete => dsimp only; fun_cases execPairResetComplete <;> exact answers_next _
  | copyEngineStart => dsimp only; fun_cases execCopyEngineStart <;> exact answers_next _
  | enginePageResume => dsimp only; fun_cases execEnginePageResume <;> exact answers_next _
  | engineBarrierArrive => dsimp only; fun_cases execEngineBarrierArrive <;> exact answers_next _
  | copyComplete => dsimp only; fun_cases execCopyComplete <;> exact answers_next _
  | cmapComplete => dsimp only; fun_cases execCmapComplete <;> exact answers_next _
  | hubCopyDoorbell => dsimp only; fun_cases execHubCopyDoorbell <;> exact answers_next _
  | hubCopyDescriptor => dsimp only; fun_cases execHubCopyDescriptor <;> exact answers_next _
  | hubCopyComplete => dsimp only; fun_cases execHubCopyComplete <;> exact answers_next _
  | stgpostSettle => dsimp only; fun_cases execStgpostSettle <;> exact answers_next _
  | stageBlockRequest => dsimp only; fun_cases execStageBlockRequest <;> exact answers_next _
  | stageBlockComplete => dsimp only; fun_cases execStageBlockComplete <;> exact answers_next _
  | stageLeaseRevoke => dsimp only; fun_cases execStageLeaseRevoke <;> exact answers_next _
  | stageDrainTimeout => dsimp only; fun_cases execStageDrainTimeout <;> exact answers_next _
  | monitorSettle => dsimp only; fun_cases execMonitorSettle <;> exact answers_next _
  | rngsetUpdate => dsimp only; fun_cases execRngsetUpdate <;> exact answers_next _
  | atinvDrop => dsimp only; fun_cases execAtinvDrop <;> exact answers_next _
  | pgqReply => dsimp only; fun_cases execPgqReply <;> exact answers_next _
  | promotion2mib => dsimp only; fun_cases execPromotion2mib <;> exact answers_next _
  | promotion1gib => exact execPromotion1gib_answers ..
  | launchStart => dsimp only; fun_cases execLaunchStart <;> exact answers_next _
  | skeinAdmit => dsimp only; fun_cases execSkeinAdmit <;> exact answers_next _
  | launchComplete => dsimp only; fun_cases execLaunchComplete <;> exact answers_next _
  | queueLevelRise => dsimp only; fun_cases execQueueLevelRise <;> exact answers_next _
  | admissionReclaim => dsimp only; fun_cases execAdmissionReclaim <;> exact answers_next _
  | admitLimitUpdate => dsimp only; fun_cases execAdmitLimitUpdate <;> exact answers_next _
  | speculationStart => dsimp only; fun_cases execSpeculationStart <;> exact answers_next _
  | speculationClaim => dsimp only; fun_cases execSpeculationClaim <;> exact answers_next _
  | gaugeOverrun => dsimp only; fun_cases execGaugeOverrun <;> exact answers_next _
  | gaugeHangTimeout => dsimp only; fun_cases execGaugeHangTimeout <;> exact answers_next _
  | fabricProbe => dsimp only; fun_cases execFabricProbe <;> exact answers_next _
  | fabricWaitEnter => dsimp only; fun_cases execFabricWaitEnter <;> exact answers_next _
  | fabricProbeResponse => dsimp only; fun_cases execFabricProbeResponse <;> exact answers_next _
  | fabricFaultResponse => dsimp only; fun_cases execFabricFaultResponse <;> exact answers_next _
  | ucieFlitReceive => dsimp only; fun_cases execUcieFlitReceive <;> exact answers_next _
  | scaleupFlitReceive => dsimp only; fun_cases execScaleupFlitReceive <;> exact answers_next _
  | ueWrite => dsimp only; fun_cases execUeWrite <;> exact answers_next _
  | ueRead => dsimp only; fun_cases execUeRead <;> exact answers_next _
  | ueWinset => dsimp only; fun_cases execUeWinset <;> exact answers_next _
  | ueKeyset => dsimp only; fun_cases execUeKeyset <;> exact answers_next _
  | netPacketReceive => dsimp only; fun_cases execNetPacketReceive <;> exact answers_next _
  | netReadRequestReceive => dsimp only; fun_cases execNetReadRequestReceive <;> exact answers_next _
  | netSackTimer => dsimp only; fun_cases execNetSackTimer <;> exact answers_next _
  | netAckReceive => dsimp only; fun_cases execNetAckReceive <;> exact answers_next _
  | netNackReceive => dsimp only; fun_cases execNetNackReceive <;> exact answers_next _
  | netRetransmitTimeout => dsimp only; fun_cases execNetRetransmitTimeout <;> exact answers_next _
  | netRequestEnd => dsimp only; fun_cases execNetRequestEnd <;> exact answers_next _
  | partitionShrink => dsimp only; fun_cases execPartitionShrink <;> exact answers_next _
  | notifyRequest => dsimp only; fun_cases execNotifyRequest <;> exact answers_next _
  | tensionReport => dsimp only; fun_cases execTensionReport <;> exact answers_next _
  | marginTest => dsimp only; fun_cases execMarginTest <;> exact answers_next _
  | healthConfirm => dsimp only; fun_cases execHealthConfirm <;> exact answers_next _
  | firmwareWatchdog => dsimp only; fun_cases execFirmwareWatchdog <;> exact answers_next _
  | tdispTlpReceive => dsimp only; fun_cases execTdispTlpReceive <;> exact answers_next _
  | tdispInterfaceExit => dsimp only; fun_cases execTdispInterfaceExit <;> exact answers_next _
  | getCapabilities => dsimp only; fun_cases execGetCapabilities <;> exact answers_next _
  | negotiateAlgorithms => dsimp only; fun_cases execNegotiateAlgorithms <;> exact answers_next _
  | hubThreadSliceExpiry => dsimp only; fun_cases execHubThreadSliceExpiry <;> exact answers_next _
  | _ => cases he

/-! ### Chart words -/

/-- What a chart word stands for acts as the instruction, or is none that a chart holds (R44). -/
theorem execLong_eq (i : Instr) (s : State) : execLong i s = exec i s ∨ execLong i s = .next s := by
  unfold exec execLong
  cases i with
  | chartld | chartrd | bindBr | bindBc | bindCall | bindRet | bindJmp | fork | elect | vote | phase | sysc | trap | eret | csrr
  | csrw | csrx | halt | wfi | mov | movi | movs | tagset | tagsetFl | tagget | taggetFl | add | sub | mul | mulhi | mad | div
  | rem | min | max | abs | neg | and | or | xor | andn | not | shl | shr | sar | rot | clz | popc | cmp | sel | addi | pand | por
  | pxor | pnot | pget | pset | fadd | fsub | fmul | fma | fmin | fmax | fabs | fneg | fcmp | fdiv | fsqrt | fdot | rcp | rsqrt
  | exp2 | log2 | sin | cos | tanh | cvt | pack | unpack | shfl | bcast | lreduce | lscan | swiz | qset | qadd | qsub | qmul
  | qmac | qred | qbfly | qibfly | hperm | hauto | mma | mmai | mmag | mmac | accalloc | acctry | accfree | acczero | accld
  | accst | mread | lds | sts | ldsfe | stsfe | sfe | tlook | tset | tinv | racq | rpub | rtake | rrel | barinit | bararr
  | barwait | ld | st | atom | redms | pref | fence | waitf | waitv | wakev | copy | copyl | cmap | stgpost | stgadv | npost
  | ncqw | launch | rngset | atinv | pgq | ecreate | eadd | eaddDev | einit | eenter | eexit | eseal | eunseal | ereport
  | edestroy =>
    exact .inl rfl
  | _ => exact .inr rfl

theorem exec_answers_of_not_chart {s : State} (hs : s.Stands) (i : Instr) (hchart : ∀ ch st ix f, i ≠ .chartWord ch st ix f) :
    Answers (exec i s) := by
  by_cases he : encode i = []
  · exact exec_event_answers i he s
  · exact exec_word_answers hs i he hchart

theorem execLong_answers {s : State} (hs : s.Stands) (i : Instr) : Answers (execLong i s) := by
  by_cases hc : ∃ ch st ix f, i = .chartWord ch st ix f
  · obtain ⟨ch, st, ix, f, rfl⟩ := hc
    exact answers_next s
  · rcases execLong_eq i s with h | h <;> rw [h]
    · exact exec_answers_of_not_chart hs i fun ch st ix f e => hc ⟨ch, st, ix, f, e⟩
    · exact answers_next s

theorem execChartWord_answers {s : State} (hs : s.Stands) (ch : Bool) (st : BitVec 2) (ix : BitVec 8) (f : BitVec 19) :
    Answers (execChartWord ch st ix f s) := by
  obtain ⟨x, hx⟩ := hs.issue (.chartWord ch st ix f)
  unfold execChartWord
  rw [hx]
  dsimp only
  split
  · exact answers_next _
  · exact execLong_answers hs _

/-- Whatever a course stands at answers a next state. -/
theorem exec_answers {s : State} (hs : s.Stands) (i : Instr) : Answers (exec i s) := by
  by_cases hc : ∃ ch st ix f, i = .chartWord ch st ix f
  · obtain ⟨ch, st, ix, f, rfl⟩ := hc
    exact execChartWord_answers hs ..
  · exact exec_answers_of_not_chart hs i fun ch st ix f e => hc ⟨ch, st, ix, f, e⟩

/-! ### Turns -/

theorem State.memberAt_eq {s : State} {m : Nat × Nat} {p : Ply} {c : Course} (h : s.memberAt m = some (p, c)) :
    s.ply m.1 = some p ∧ p.course m.2 = some c := by
  simp only [State.memberAt, Option.bind_eq_bind, Option.bind_eq_some_iff, Option.pure_def, Option.some.injEq, Prod.mk.injEq] at h
  obtain ⟨q, hq, k, hk, rfl, rfl⟩ := h
  exact ⟨hq, hk⟩

theorem State.issueAt_answers {s : State} {m : Nat × Nat} {p : Ply} {c : Course} (h : s.memberAt m = some (p, c)) (t : Nat)
    (mates : List (Nat × Nat)) : Answers (s.issueAt p c t mates) := by
  obtain ⟨hp, hc⟩ := State.memberAt_eq h
  unfold State.issueAt
  split
  · exact answers_next _
  · exact answers_next _
  · exact exec_answers (State.ready_stands hp hc ..) _

theorem State.issueAll_answers (t : Nat) (mates : Nat × Nat → List (Nat × Nat)) (l : List (Nat × Nat)) (s : State) :
    Answers (State.issueAll t mates l s) := by
  induction l generalizing s with
  | nil => exact answers_next s
  | cons m l ih =>
    unfold State.issueAll
    cases hm : s.memberAt m with
    | none => exact ih s
    | some pc =>
      obtain ⟨u, hu⟩ := State.issueAt_answers hm t (mates m)
      dsimp only
      rw [hu]
      exact ih _

theorem State.rounds_answers (base : State) (t n : Nat) (l : List (Nat × Nat)) (s : State) : Answers (State.rounds base t n l s) := by
  induction n generalizing l s with
  | zero => exact answers_next s
  | succ n ih =>
    unfold State.rounds
    obtain ⟨u, hu⟩ := State.issueAll_answers t (fun m => (l.filter (· != m)).flatMap (s.addressed t)) l s
    rw [hu]
    dsimp only
    split
    · exact answers_next _
    · split
      · exact answers_next _
      · exact ih _ _

theorem State.courseTurn_answers (s : State) (h cid delay : Nat) : Answers (s.courseTurn h cid delay) := by
  unfold State.courseTurn
  split
  · exact answers_next _
  · split
    · exact answers_next _
    · exact State.rounds_answers ..

/-- A turn of the agenda is a course's, an upset, or an event; only an event is asked to have no words. -/
theorem State.turn_answers (s : State) (t : Turn) (h : ∀ e, t = .event e → encode e = []) : Answers (s.turn t) := by
  cases t with
  | course h c d => exact State.courseTurn_answers ..
  | event e => exact exec_event_answers e (h e rfl) _
  | strike u => exact answers_next _

theorem tidied_answers {o : Host.Outcome State Fault Refusal} (h : Answers o) : Answers (tidied o) := by
  obtain ⟨t, rfl⟩ := h
  exact answers_next _

/-! ### The events that the machine carries on by itself -/

/-- What is done is one of the events of the machine. -/
def IsEvent (e : Event) : Prop := ∃ i, encode i = [] ∧ exec i = e

theorem IsEvent.answers {e : Event} (h : IsEvent e) (s : State) : Answers (e s) := by
  obtain ⟨i, hi, rfl⟩ := h
  exact exec_event_answers i hi s

/-- All that a list does is done by events. -/
def AllEvents (l : List Event) : Prop := ∀ e ∈ l, IsEvent e

theorem allEvents_nil : AllEvents [] := List.forall_mem_nil _

theorem allEvents_cons {e : Event} {l : List Event} (i : Instr) (hi : encode i = []) (he : exec i = e) (hl : AllEvents l) :
    AllEvents (e :: l) :=
  List.forall_mem_cons.mpr ⟨⟨i, hi, he⟩, hl⟩

theorem allEvents_append {l r : List Event} (hl : AllEvents l) (hr : AllEvents r) : AllEvents (l ++ r) :=
  List.forall_mem_append.mpr ⟨hl, hr⟩

theorem allEvents_map {α : Type} {l : List α} {f : α → Event} (i : α → Instr) (hi : ∀ a, encode (i a) = [])
    (he : ∀ a, exec (i a) = f a) : AllEvents (l.map f) :=
  List.forall_mem_map.mpr fun a _ => ⟨i a, hi a, he a⟩

theorem allEvents_flatMap {α : Type} {l : List α} {f : α → List Event} (h : ∀ a, AllEvents (f a)) :
    AllEvents (l.flatMap f) := by
  intro e he
  obtain ⟨a, -, ha⟩ := List.mem_flatMap.mp he
  exact h a e ha

theorem Op.allEvents (o : Op) : AllEvents o.events := by
  unfold Op.events
  split
  case h_2 =>
    exact allEvents_flatMap fun i =>
      allEvents_cons (.memoryReply o.id i.fibre .home) rfl rfl <| allEvents_cons (.memorySideAtomic o.id i.fibre) rfl rfl <|
      allEvents_cons (.memorySideReduce o.id i.fibre) rfl rfl <| allEvents_cons (.kick o.id i.fibre) rfl rfl <|
      allEvents_cons (.qbaseWrite o.id i.fibre) rfl rfl <| allEvents_cons (.qcfgWrite o.id i.fibre) rfl rfl <|
      allEvents_cons (.waitvTimeout o.ply i.fibre) rfl rfl <| allEvents_cons (.ncqwTimeout o.ply o.course) rfl rfl allEvents_nil
  case h_3 | h_4 =>
    exact allEvents_cons (.copyEngineStart o.id) rfl rfl <| allEvents_cons (.enginePageResume o.id) rfl rfl <|
      allEvents_cons (.engineBarrierArrive o.id) rfl rfl <| allEvents_cons (.copyComplete o.id) rfl rfl allEvents_nil
  · exact allEvents_cons (.chartldCommit o.id) rfl rfl allEvents_nil
  · exact allEvents_cons (.cmapComplete o.id) rfl rfl allEvents_nil
  · exact allEvents_cons (.hubCopyComplete o.id) rfl rfl allEvents_nil
  · exact allEvents_cons (.stgpostSettle o.id) rfl rfl allEvents_nil
  · exact allEvents_cons (.monitorSettle o.id) rfl rfl allEvents_nil
  · exact allEvents_cons (.rngsetUpdate o.id) rfl rfl allEvents_nil
  · exact allEvents_cons (.atinvDrop o.id) rfl rfl allEvents_nil
  · exact allEvents_cons (.pgqReply o.id) rfl rfl allEvents_nil
  · exact allEvents_nil

theorem Msg.allEvents (m : Msg) : AllEvents m.events :=
  allEvents_cons (.fabricRead m.id) rfl rfl <| allEvents_cons (.fabricWrite m.id) rfl rfl <|
  allEvents_cons (.fabricAtomic m.id) rfl rfl <| allEvents_cons (.fabricArithmetic m.id) rfl rfl <|
  allEvents_cons (.fabricProbe m.id) rfl rfl <| allEvents_cons (.fabricWaitEnter m.id) rfl rfl <|
  allEvents_cons (.fabricWake m.id) rfl rfl <| allEvents_cons (.fabricReadResponse m.id) rfl rfl <|
  allEvents_cons (.fabricWriteAck m.id) rfl rfl <| allEvents_cons (.fabricAtomicResponse m.id) rfl rfl <|
  allEvents_cons (.fabricArithmeticAck m.id) rfl rfl <| allEvents_cons (.fabricProbeResponse m.id) rfl rfl <|
  allEvents_cons (.fabricWaitResponse m.id) rfl rfl <| allEvents_cons (.fabricFaultResponse m.id) rfl rfl allEvents_nil

theorem Pair.allEvents (q : Pair) : AllEvents q.events :=
  allEvents_append (allEvents_append
    (allEvents_cons (.accallocSettle q.core) rfl rfl <| allEvents_cons (.pairResetComplete q.core) rfl rfl allEvents_nil)
    (allEvents_flatMap fun o => allEvents_cons (.pairOpBegin q.core o) rfl rfl <|
      allEvents_cons (.accTransferComplete q.core o) rfl rfl <| allEvents_cons (.pairOpRetire q.core o) rfl rfl allEvents_nil))
    (allEvents_map (fun x => .pairOpRetire q.core x.op) (fun _ => rfl) fun _ => rfl)

theorem Ply.allEvents (p : Ply) : AllEvents p.events :=
  allEvents_append
    (allEvents_cons (.handlerTake p.handle) rfl rfl <| allEvents_cons (.gaugeOverrun p.handle) rfl rfl <|
      allEvents_cons (.plySave p.handle) rfl rfl <| allEvents_cons (.forcedFullSave p.handle) rfl rfl <|
      allEvents_cons (.wfiTimeout p.handle) rfl rfl allEvents_nil)
    (allEvents_map (fun c => .trapRecordWrite p.handle c.id) (fun _ => rfl) fun _ => rfl)

theorem State.allEvents_admit (s : State) (l : Launch) : AllEvents (s.admitEvent l) := by
  unfold State.admitEvent
  dsimp only
  split
  · exact allEvents_nil
  · split
    · next pls _ => exact allEvents_cons (.skeinAdmit l.enc l.queue _ pls) rfl rfl allEvents_nil
    · exact allEvents_nil

theorem State.allEvents_restore (s : State) : AllEvents s.restoreEvents := by
  refine allEvents_append (allEvents_map (fun k => .skeinRestore k.handle k.core) (fun _ => rfl) fun _ => rfl)
    (allEvents_flatMap fun p => ?_)
  split
  · next pl _ _ => exact allEvents_cons (.plyRestore p.handle pl) rfl rfl allEvents_nil
  · exact allEvents_nil

theorem State.allEvents_bell (s : State) (o : Op) : AllEvents (s.bellEvents o) := by
  unfold State.bellEvents
  split
  · next p _ _ =>
    exact allEvents_map (fun i => .hubCopyDoorbell p.enc (i.va % 65536 / 8) i.granule.data.toNat) (fun _ => rfl) fun _ => rfl
  · exact allEvents_nil

theorem allEvents_flits (l : List Flit) :
    AllEvents (l.map fun f => if f.scaleup then execScaleupFlitReceive f.id true else execUcieFlitReceive f.id true) := by
  refine allEvents_map (fun f => if f.scaleup then .scaleupFlitReceive f.id true else .ucieFlitReceive f.id true) ?_ ?_
  · intro f
    split <;> rfl
  · intro f
    split <;> rfl

theorem State.allEvents_pending (s : State) : AllEvents s.pendingEvents := by
  unfold State.pendingEvents
  repeat' with_reducible apply allEvents_append
  · exact allEvents_flatMap Op.allEvents
  · exact allEvents_flatMap s.allEvents_bell
  · exact allEvents_flits _
  · exact allEvents_flatMap Msg.allEvents
  · exact allEvents_flatMap Pair.allEvents
  · exact allEvents_flatMap fun k => allEvents_flatMap fun r =>
      allEvents_cons (.ringAcquireServe k.handle r) rfl rfl <| allEvents_cons (.ringTakeServe k.handle r) rfl rfl allEvents_nil
  · exact allEvents_flatMap Ply.allEvents
  · exact s.allEvents_restore
  · exact allEvents_map (fun r => .trapResponse r.id) (fun _ => rfl) fun _ => rfl
  · exact allEvents_flatMap fun e => allEvents_flatMap fun q =>
      allEvents_cons (.launchStart e.enc q.1) rfl rfl <| allEvents_cons (.launchComplete e.enc q.1) rfl rfl allEvents_nil
  · exact allEvents_flatMap s.allEvents_admit
  · exact allEvents_flatMap fun e => allEvents_map (fun q => .hubCopyDescriptor e.enc q.1) (fun _ => rfl) fun _ => rfl
  · exact allEvents_map (fun m => .promotion2mib m.die m.asid m.ia) (fun _ => rfl) fun _ => rfl
  · exact allEvents_flatMap fun r =>
      allEvents_cons (.ueWrite r.id) rfl rfl <| allEvents_cons (.ueRead r.id) rfl rfl <| allEvents_cons (.ueWinset r.id) rfl rfl <|
      allEvents_cons (.ueKeyset r.id) rfl rfl <| allEvents_cons (.netRequestEnd r.id) rfl rfl allEvents_nil
  · exact allEvents_map .budgetPeriod (fun _ => rfl) fun _ => rfl

/-! ### Steps -/

/-- The turn that the machine takes by itself is a course's, or fills a run slot. -/
theorem State.idleTurn_event (s : State) (t : Turn) (ht : s.someCourse.or s.firstFill = some t) :
    ∀ e, t = .event e → encode e = [] := by
  rintro e rfl
  rcases Option.or_eq_some_iff.mp ht with h | ⟨-, h⟩
  · obtain ⟨p, -, hp⟩ := List.mem_flatMap.mp (List.mem_of_getElem? h)
    simp at hp
  · obtain ⟨p, -, hp⟩ := List.exists_of_findSome?_eq_some h
    split at hp
    · cases hp
    · cases hp
      rfl

theorem State.idle_answers (s : State) : Answers s.idle := by
  unfold State.idle
  dsimp only
  split
  · next t ht =>
    split at ht
    · exact tidied_answers (s.turn_answers t (s.idleTurn_event t ht))
    · cases ht
  · split
    · next e he => exact tidied_answers ((s.allEvents_pending e (List.mem_of_getElem? he)).answers _)
    · exact answers_next _

/-- Settles O57: a course stands at each instruction that a turn issues, and events ask for none; so every branch of the model
ends in a next state. -/
theorem stepNeverStops : Obligations.StepNeverStops := by
  intro s h
  show Answers (step s)
  unfold step
  split
  · next t r ha => exact tidied_answers (State.turn_answers _ t fun e he => h e r (he ▸ ha))
  · exact s.idle_answers

end Sys2Proof.Machine
end
